-- ==== Sys2Proof/Word.lean ====
section
/-! DEFINITION. The two word types of the Z80 (R9): bytes and 16-bit words. -/

namespace Sys2Proof

/-- An 8-bit value: a data register, a memory byte, a port number (R9). -/
abbrev Byte := BitVec 8

/-- A 16-bit value: a register pair, SP, PC, a memory address (R9). -/
abbrev Word := BitVec 16

end Sys2Proof
end

