-- ==== Sys2Proof/Syntax.lean ====
section
/-! DEFINITION. The instructions: one constructor of `Instr` for every mnemonic of
spec/opcode_table.json, and the names their operands take.

Rows that share a mnemonic are one constructor, and an operand tells them apart (log entry 15):
`p : IndexByte` is the ignored index byte of R222 (none for the base row), `op` the opcode byte of a
duplicate encoding (NEG, RETN, IM, the ED no-ops), `z` the ignored low bits of `BIT b,(XR+d)`
(R782), `x` the index byte a redundant one follows (R235, R236). The other operands are the bytes
that follow in the instruction: n, e and d are bytes, nn is a word, low byte first (R204). -/

namespace Sys2Proof

/-- The active index byte (R78): none, 0xDD or 0xFD. -/
inductive IndexByte where
  | none
  | dd
  | fd
deriving DecidableEq, Repr

/-- The index register an indexed form uses (R23). -/
inductive IdxReg where
  | ix
  | iy
deriving DecidableEq, Repr

/-- The 8-bit registers and the index halves (R52, R58). -/
inductive R8 where
  | b
  | c
  | d
  | e
  | h
  | l
  | a
  | ixh
  | ixl
  | iyh
  | iyl
deriving DecidableEq, Repr

/-- The register pairs, SP and the index registers (R53, R58, R60). -/
inductive R16 where
  | bc
  | de
  | hl
  | sp
  | af
  | ix
  | iy
deriving DecidableEq, Repr

/-- The eight conditions (R213). -/
inductive Cond where
  | nz
  | z
  | nc
  | c
  | po
  | pe
  | p
  | m
deriving DecidableEq, Repr

/-- The eight operations on A (R212). -/
inductive AluOp where
  | add
  | adc
  | sub
  | sbc
  | and
  | xor
  | or
  | cp
deriving DecidableEq, Repr

/-- The eight rotates and shifts (R212). -/
inductive RotOp where
  | rlc
  | rrc
  | rl
  | rr
  | sla
  | sra
  | sll
  | srl
deriving DecidableEq, Repr

/-- The instructions, in the order of the opcode table. -/
inductive Instr where
  /-- `NOP` -/
  | nop (p : IndexByte)
  /-- `LD BC,nn` -/
  | ld_bc_nn (p : IndexByte) (nn : Word)
  /-- `LD (BC),A` -/
  | ld__bc__a (p : IndexByte)
  /-- `INC BC` -/
  | inc_bc (p : IndexByte)
  /-- `INC B` -/
  | inc_b (p : IndexByte)
  /-- `DEC B` -/
  | dec_b (p : IndexByte)
  /-- `LD B,n` -/
  | ld_b_n (p : IndexByte) (n : Byte)
  /-- `RLCA` -/
  | rlca (p : IndexByte)
  /-- `EX AF,AF'` -/
  | ex_af_af (p : IndexByte)
  /-- `ADD HL,BC` -/
  | add_hl_bc
  /-- `LD A,(BC)` -/
  | ld_a__bc (p : IndexByte)
  /-- `DEC BC` -/
  | dec_bc (p : IndexByte)
  /-- `INC C` -/
  | inc_c (p : IndexByte)
  /-- `DEC C` -/
  | dec_c (p : IndexByte)
  /-- `LD C,n` -/
  | ld_c_n (p : IndexByte) (n : Byte)
  /-- `RRCA` -/
  | rrca (p : IndexByte)
  /-- `DJNZ e` -/
  | djnz_e (p : IndexByte) (e : Byte)
  /-- `LD DE,nn` -/
  | ld_de_nn (p : IndexByte) (nn : Word)
  /-- `LD (DE),A` -/
  | ld__de__a (p : IndexByte)
  /-- `INC DE` -/
  | inc_de (p : IndexByte)
  /-- `INC D` -/
  | inc_d (p : IndexByte)
  /-- `DEC D` -/
  | dec_d (p : IndexByte)
  /-- `LD D,n` -/
  | ld_d_n (p : IndexByte) (n : Byte)
  /-- `RLA` -/
  | rla (p : IndexByte)
  /-- `JR e` -/
  | jr_e (p : IndexByte) (e : Byte)
  /-- `ADD HL,DE` -/
  | add_hl_de
  /-- `LD A,(DE)` -/
  | ld_a__de (p : IndexByte)
  /-- `DEC DE` -/
  | dec_de (p : IndexByte)
  /-- `INC E` -/
  | inc_e (p : IndexByte)
  /-- `DEC E` -/
  | dec_e (p : IndexByte)
  /-- `LD E,n` -/
  | ld_e_n (p : IndexByte) (n : Byte)
  /-- `RRA` -/
  | rra (p : IndexByte)
  /-- `JR NZ,e` -/
  | jr_nz_e (p : IndexByte) (e : Byte)
  /-- `LD HL,nn` -/
  | ld_hl_nn (nn : Word)
  /-- `LD (nn),HL` -/
  | ld__nn__hl (nn : Word)
  /-- `INC HL` -/
  | inc_hl
  /-- `INC H` -/
  | inc_h
  /-- `DEC H` -/
  | dec_h
  /-- `LD H,n` -/
  | ld_h_n (n : Byte)
  /-- `DAA` -/
  | daa (p : IndexByte)
  /-- `JR Z,e` -/
  | jr_z_e (p : IndexByte) (e : Byte)
  /-- `ADD HL,HL` -/
  | add_hl_hl
  /-- `LD HL,(nn)` -/
  | ld_hl__nn (nn : Word)
  /-- `DEC HL` -/
  | dec_hl
  /-- `INC L` -/
  | inc_l
  /-- `DEC L` -/
  | dec_l
  /-- `LD L,n` -/
  | ld_l_n (n : Byte)
  /-- `CPL` -/
  | cpl (p : IndexByte)
  /-- `JR NC,e` -/
  | jr_nc_e (p : IndexByte) (e : Byte)
  /-- `LD SP,nn` -/
  | ld_sp_nn (p : IndexByte) (nn : Word)
  /-- `LD (nn),A` -/
  | ld__nn__a (p : IndexByte) (nn : Word)
  /-- `INC SP` -/
  | inc_sp (p : IndexByte)
  /-- `INC (HL)` -/
  | inc__hl
  /-- `DEC (HL)` -/
  | dec__hl
  /-- `LD (HL),n` -/
  | ld__hl__n (n : Byte)
  /-- `SCF` -/
  | scf (p : IndexByte)
  /-- `JR C,e` -/
  | jr_c_e (p : IndexByte) (e : Byte)
  /-- `ADD HL,SP` -/
  | add_hl_sp
  /-- `LD A,(nn)` -/
  | ld_a__nn (p : IndexByte) (nn : Word)
  /-- `DEC SP` -/
  | dec_sp (p : IndexByte)
  /-- `INC A` -/
  | inc_a (p : IndexByte)
  /-- `DEC A` -/
  | dec_a (p : IndexByte)
  /-- `LD A,n` -/
  | ld_a_n (p : IndexByte) (n : Byte)
  /-- `CCF` -/
  | ccf (p : IndexByte)
  /-- `LD B,B` -/
  | ld_b_b (p : IndexByte)
  /-- `LD B,C` -/
  | ld_b_c (p : IndexByte)
  /-- `LD B,D` -/
  | ld_b_d (p : IndexByte)
  /-- `LD B,E` -/
  | ld_b_e (p : IndexByte)
  /-- `LD B,H` -/
  | ld_b_h
  /-- `LD B,L` -/
  | ld_b_l
  /-- `LD B,(HL)` -/
  | ld_b__hl
  /-- `LD B,A` -/
  | ld_b_a (p : IndexByte)
  /-- `LD C,B` -/
  | ld_c_b (p : IndexByte)
  /-- `LD C,C` -/
  | ld_c_c (p : IndexByte)
  /-- `LD C,D` -/
  | ld_c_d (p : IndexByte)
  /-- `LD C,E` -/
  | ld_c_e (p : IndexByte)
  /-- `LD C,H` -/
  | ld_c_h
  /-- `LD C,L` -/
  | ld_c_l
  /-- `LD C,(HL)` -/
  | ld_c__hl
  /-- `LD C,A` -/
  | ld_c_a (p : IndexByte)
  /-- `LD D,B` -/
  | ld_d_b (p : IndexByte)
  /-- `LD D,C` -/
  | ld_d_c (p : IndexByte)
  /-- `LD D,D` -/
  | ld_d_d (p : IndexByte)
  /-- `LD D,E` -/
  | ld_d_e (p : IndexByte)
  /-- `LD D,H` -/
  | ld_d_h
  /-- `LD D,L` -/
  | ld_d_l
  /-- `LD D,(HL)` -/
  | ld_d__hl
  /-- `LD D,A` -/
  | ld_d_a (p : IndexByte)
  /-- `LD E,B` -/
  | ld_e_b (p : IndexByte)
  /-- `LD E,C` -/
  | ld_e_c (p : IndexByte)
  /-- `LD E,D` -/
  | ld_e_d (p : IndexByte)
  /-- `LD E,E` -/
  | ld_e_e (p : IndexByte)
  /-- `LD E,H` -/
  | ld_e_h
  /-- `LD E,L` -/
  | ld_e_l
  /-- `LD E,(HL)` -/
  | ld_e__hl
  /-- `LD E,A` -/
  | ld_e_a (p : IndexByte)
  /-- `LD H,B` -/
  | ld_h_b
  /-- `LD H,C` -/
  | ld_h_c
  /-- `LD H,D` -/
  | ld_h_d
  /-- `LD H,E` -/
  | ld_h_e
  /-- `LD H,H` -/
  | ld_h_h
  /-- `LD H,L` -/
  | ld_h_l
  /-- `LD H,(HL)` -/
  | ld_h__hl
  /-- `LD H,A` -/
  | ld_h_a
  /-- `LD L,B` -/
  | ld_l_b
  /-- `LD L,C` -/
  | ld_l_c
  /-- `LD L,D` -/
  | ld_l_d
  /-- `LD L,E` -/
  | ld_l_e
  /-- `LD L,H` -/
  | ld_l_h
  /-- `LD L,L` -/
  | ld_l_l
  /-- `LD L,(HL)` -/
  | ld_l__hl
  /-- `LD L,A` -/
  | ld_l_a
  /-- `LD (HL),B` -/
  | ld__hl__b
  /-- `LD (HL),C` -/
  | ld__hl__c
  /-- `LD (HL),D` -/
  | ld__hl__d
  /-- `LD (HL),E` -/
  | ld__hl__e
  /-- `LD (HL),H` -/
  | ld__hl__h
  /-- `LD (HL),L` -/
  | ld__hl__l
  /-- `HALT` -/
  | halt (p : IndexByte)
  /-- `LD (HL),A` -/
  | ld__hl__a
  /-- `LD A,B` -/
  | ld_a_b (p : IndexByte)
  /-- `LD A,C` -/
  | ld_a_c (p : IndexByte)
  /-- `LD A,D` -/
  | ld_a_d (p : IndexByte)
  /-- `LD A,E` -/
  | ld_a_e (p : IndexByte)
  /-- `LD A,H` -/
  | ld_a_h
  /-- `LD A,L` -/
  | ld_a_l
  /-- `LD A,(HL)` -/
  | ld_a__hl
  /-- `LD A,A` -/
  | ld_a_a (p : IndexByte)
  /-- `ADD A,B` -/
  | add_a_b (p : IndexByte)
  /-- `ADD A,C` -/
  | add_a_c (p : IndexByte)
  /-- `ADD A,D` -/
  | add_a_d (p : IndexByte)
  /-- `ADD A,E` -/
  | add_a_e (p : IndexByte)
  /-- `ADD A,H` -/
  | add_a_h
  /-- `ADD A,L` -/
  | add_a_l
  /-- `ADD A,(HL)` -/
  | add_a__hl
  /-- `ADD A,A` -/
  | add_a_a (p : IndexByte)
  /-- `ADC A,B` -/
  | adc_a_b (p : IndexByte)
  /-- `ADC A,C` -/
  | adc_a_c (p : IndexByte)
  /-- `ADC A,D` -/
  | adc_a_d (p : IndexByte)
  /-- `ADC A,E` -/
  | adc_a_e (p : IndexByte)
  /-- `ADC A,H` -/
  | adc_a_h
  /-- `ADC A,L` -/
  | adc_a_l
  /-- `ADC A,(HL)` -/
  | adc_a__hl
  /-- `ADC A,A` -/
  | adc_a_a (p : IndexByte)
  /-- `SUB B` -/
  | sub_b (p : IndexByte)
  /-- `SUB C` -/
  | sub_c (p : IndexByte)
  /-- `SUB D` -/
  | sub_d (p : IndexByte)
  /-- `SUB E` -/
  | sub_e (p : IndexByte)
  /-- `SUB H` -/
  | sub_h
  /-- `SUB L` -/
  | sub_l
  /-- `SUB (HL)` -/
  | sub__hl
  /-- `SUB A` -/
  | sub_a (p : IndexByte)
  /-- `SBC A,B` -/
  | sbc_a_b (p : IndexByte)
  /-- `SBC A,C` -/
  | sbc_a_c (p : IndexByte)
  /-- `SBC A,D` -/
  | sbc_a_d (p : IndexByte)
  /-- `SBC A,E` -/
  | sbc_a_e (p : IndexByte)
  /-- `SBC A,H` -/
  | sbc_a_h
  /-- `SBC A,L` -/
  | sbc_a_l
  /-- `SBC A,(HL)` -/
  | sbc_a__hl
  /-- `SBC A,A` -/
  | sbc_a_a (p : IndexByte)
  /-- `AND B` -/
  | and_b (p : IndexByte)
  /-- `AND C` -/
  | and_c (p : IndexByte)
  /-- `AND D` -/
  | and_d (p : IndexByte)
  /-- `AND E` -/
  | and_e (p : IndexByte)
  /-- `AND H` -/
  | and_h
  /-- `AND L` -/
  | and_l
  /-- `AND (HL)` -/
  | and__hl
  /-- `AND A` -/
  | and_a (p : IndexByte)
  /-- `XOR B` -/
  | xor_b (p : IndexByte)
  /-- `XOR C` -/
  | xor_c (p : IndexByte)
  /-- `XOR D` -/
  | xor_d (p : IndexByte)
  /-- `XOR E` -/
  | xor_e (p : IndexByte)
  /-- `XOR H` -/
  | xor_h
  /-- `XOR L` -/
  | xor_l
  /-- `XOR (HL)` -/
  | xor__hl
  /-- `XOR A` -/
  | xor_a (p : IndexByte)
  /-- `OR B` -/
  | or_b (p : IndexByte)
  /-- `OR C` -/
  | or_c (p : IndexByte)
  /-- `OR D` -/
  | or_d (p : IndexByte)
  /-- `OR E` -/
  | or_e (p : IndexByte)
  /-- `OR H` -/
  | or_h
  /-- `OR L` -/
  | or_l
  /-- `OR (HL)` -/
  | or__hl
  /-- `OR A` -/
  | or_a (p : IndexByte)
  /-- `CP B` -/
  | cp_b (p : IndexByte)
  /-- `CP C` -/
  | cp_c (p : IndexByte)
  /-- `CP D` -/
  | cp_d (p : IndexByte)
  /-- `CP E` -/
  | cp_e (p : IndexByte)
  /-- `CP H` -/
  | cp_h
  /-- `CP L` -/
  | cp_l
  /-- `CP (HL)` -/
  | cp__hl
  /-- `CP A` -/
  | cp_a (p : IndexByte)
  /-- `RET NZ` -/
  | ret_nz (p : IndexByte)
  /-- `POP BC` -/
  | pop_bc (p : IndexByte)
  /-- `JP NZ,nn` -/
  | jp_nz_nn (p : IndexByte) (nn : Word)
  /-- `JP nn` -/
  | jp_nn (p : IndexByte) (nn : Word)
  /-- `CALL NZ,nn` -/
  | call_nz_nn (p : IndexByte) (nn : Word)
  /-- `PUSH BC` -/
  | push_bc (p : IndexByte)
  /-- `ADD A,n` -/
  | add_a_n (p : IndexByte) (n : Byte)
  /-- `RST 00H` -/
  | rst_00h (p : IndexByte)
  /-- `RET Z` -/
  | ret_z (p : IndexByte)
  /-- `RET` -/
  | ret (p : IndexByte)
  /-- `JP Z,nn` -/
  | jp_z_nn (p : IndexByte) (nn : Word)
  /-- `prefix CB` -/
  | prefix_cb
  /-- `CALL Z,nn` -/
  | call_z_nn (p : IndexByte) (nn : Word)
  /-- `CALL nn` -/
  | call_nn (p : IndexByte) (nn : Word)
  /-- `ADC A,n` -/
  | adc_a_n (p : IndexByte) (n : Byte)
  /-- `RST 08H` -/
  | rst_08h (p : IndexByte)
  /-- `RET NC` -/
  | ret_nc (p : IndexByte)
  /-- `POP DE` -/
  | pop_de (p : IndexByte)
  /-- `JP NC,nn` -/
  | jp_nc_nn (p : IndexByte) (nn : Word)
  /-- `OUT (n),A` -/
  | out__n__a (p : IndexByte) (n : Byte)
  /-- `CALL NC,nn` -/
  | call_nc_nn (p : IndexByte) (nn : Word)
  /-- `PUSH DE` -/
  | push_de (p : IndexByte)
  /-- `SUB n` -/
  | sub_n (p : IndexByte) (n : Byte)
  /-- `RST 10H` -/
  | rst_10h (p : IndexByte)
  /-- `RET C` -/
  | ret_c (p : IndexByte)
  /-- `EXX` -/
  | exx (p : IndexByte)
  /-- `JP C,nn` -/
  | jp_c_nn (p : IndexByte) (nn : Word)
  /-- `IN A,(n)` -/
  | in_a__n (p : IndexByte) (n : Byte)
  /-- `CALL C,nn` -/
  | call_c_nn (p : IndexByte) (nn : Word)
  /-- `prefix DD` -/
  | prefix_dd
  /-- `SBC A,n` -/
  | sbc_a_n (p : IndexByte) (n : Byte)
  /-- `RST 18H` -/
  | rst_18h (p : IndexByte)
  /-- `RET PO` -/
  | ret_po (p : IndexByte)
  /-- `POP HL` -/
  | pop_hl
  /-- `JP PO,nn` -/
  | jp_po_nn (p : IndexByte) (nn : Word)
  /-- `EX (SP),HL` -/
  | ex__sp__hl
  /-- `CALL PO,nn` -/
  | call_po_nn (p : IndexByte) (nn : Word)
  /-- `PUSH HL` -/
  | push_hl
  /-- `AND n` -/
  | and_n (p : IndexByte) (n : Byte)
  /-- `RST 20H` -/
  | rst_20h (p : IndexByte)
  /-- `RET PE` -/
  | ret_pe (p : IndexByte)
  /-- `JP (HL)` -/
  | jp__hl
  /-- `JP PE,nn` -/
  | jp_pe_nn (p : IndexByte) (nn : Word)
  /-- `EX DE,HL` -/
  | ex_de_hl (p : IndexByte)
  /-- `CALL PE,nn` -/
  | call_pe_nn (p : IndexByte) (nn : Word)
  /-- `prefix ED` -/
  | prefix_ed
  /-- `XOR n` -/
  | xor_n (p : IndexByte) (n : Byte)
  /-- `RST 28H` -/
  | rst_28h (p : IndexByte)
  /-- `RET P` -/
  | ret_p (p : IndexByte)
  /-- `POP AF` -/
  | pop_af (p : IndexByte)
  /-- `JP P,nn` -/
  | jp_p_nn (p : IndexByte) (nn : Word)
  /-- `DI` -/
  | di (p : IndexByte)
  /-- `CALL P,nn` -/
  | call_p_nn (p : IndexByte) (nn : Word)
  /-- `PUSH AF` -/
  | push_af (p : IndexByte)
  /-- `OR n` -/
  | or_n (p : IndexByte) (n : Byte)
  /-- `RST 30H` -/
  | rst_30h (p : IndexByte)
  /-- `RET M` -/
  | ret_m (p : IndexByte)
  /-- `LD SP,HL` -/
  | ld_sp_hl
  /-- `JP M,nn` -/
  | jp_m_nn (p : IndexByte) (nn : Word)
  /-- `EI` -/
  | ei (p : IndexByte)
  /-- `CALL M,nn` -/
  | call_m_nn (p : IndexByte) (nn : Word)
  /-- `prefix FD` -/
  | prefix_fd
  /-- `CP n` -/
  | cp_n (p : IndexByte) (n : Byte)
  /-- `RST 38H` -/
  | rst_38h (p : IndexByte)
  /-- `RLC B` -/
  | rlc_b
  /-- `RLC C` -/
  | rlc_c
  /-- `RLC D` -/
  | rlc_d
  /-- `RLC E` -/
  | rlc_e
  /-- `RLC H` -/
  | rlc_h
  /-- `RLC L` -/
  | rlc_l
  /-- `RLC (HL)` -/
  | rlc__hl
  /-- `RLC A` -/
  | rlc_a
  /-- `RRC B` -/
  | rrc_b
  /-- `RRC C` -/
  | rrc_c
  /-- `RRC D` -/
  | rrc_d
  /-- `RRC E` -/
  | rrc_e
  /-- `RRC H` -/
  | rrc_h
  /-- `RRC L` -/
  | rrc_l
  /-- `RRC (HL)` -/
  | rrc__hl
  /-- `RRC A` -/
  | rrc_a
  /-- `RL B` -/
  | rl_b
  /-- `RL C` -/
  | rl_c
  /-- `RL D` -/
  | rl_d
  /-- `RL E` -/
  | rl_e
  /-- `RL H` -/
  | rl_h
  /-- `RL L` -/
  | rl_l
  /-- `RL (HL)` -/
  | rl__hl
  /-- `RL A` -/
  | rl_a
  /-- `RR B` -/
  | rr_b
  /-- `RR C` -/
  | rr_c
  /-- `RR D` -/
  | rr_d
  /-- `RR E` -/
  | rr_e
  /-- `RR H` -/
  | rr_h
  /-- `RR L` -/
  | rr_l
  /-- `RR (HL)` -/
  | rr__hl
  /-- `RR A` -/
  | rr_a
  /-- `SLA B` -/
  | sla_b
  /-- `SLA C` -/
  | sla_c
  /-- `SLA D` -/
  | sla_d
  /-- `SLA E` -/
  | sla_e
  /-- `SLA H` -/
  | sla_h
  /-- `SLA L` -/
  | sla_l
  /-- `SLA (HL)` -/
  | sla__hl
  /-- `SLA A` -/
  | sla_a
  /-- `SRA B` -/
  | sra_b
  /-- `SRA C` -/
  | sra_c
  /-- `SRA D` -/
  | sra_d
  /-- `SRA E` -/
  | sra_e
  /-- `SRA H` -/
  | sra_h
  /-- `SRA L` -/
  | sra_l
  /-- `SRA (HL)` -/
  | sra__hl
  /-- `SRA A` -/
  | sra_a
  /-- `SLL B` -/
  | sll_b
  /-- `SLL C` -/
  | sll_c
  /-- `SLL D` -/
  | sll_d
  /-- `SLL E` -/
  | sll_e
  /-- `SLL H` -/
  | sll_h
  /-- `SLL L` -/
  | sll_l
  /-- `SLL (HL)` -/
  | sll__hl
  /-- `SLL A` -/
  | sll_a
  /-- `SRL B` -/
  | srl_b
  /-- `SRL C` -/
  | srl_c
  /-- `SRL D` -/
  | srl_d
  /-- `SRL E` -/
  | srl_e
  /-- `SRL H` -/
  | srl_h
  /-- `SRL L` -/
  | srl_l
  /-- `SRL (HL)` -/
  | srl__hl
  /-- `SRL A` -/
  | srl_a
  /-- `BIT 0,B` -/
  | bit_0_b
  /-- `BIT 0,C` -/
  | bit_0_c
  /-- `BIT 0,D` -/
  | bit_0_d
  /-- `BIT 0,E` -/
  | bit_0_e
  /-- `BIT 0,H` -/
  | bit_0_h
  /-- `BIT 0,L` -/
  | bit_0_l
  /-- `BIT 0,(HL)` -/
  | bit_0__hl
  /-- `BIT 0,A` -/
  | bit_0_a
  /-- `BIT 1,B` -/
  | bit_1_b
  /-- `BIT 1,C` -/
  | bit_1_c
  /-- `BIT 1,D` -/
  | bit_1_d
  /-- `BIT 1,E` -/
  | bit_1_e
  /-- `BIT 1,H` -/
  | bit_1_h
  /-- `BIT 1,L` -/
  | bit_1_l
  /-- `BIT 1,(HL)` -/
  | bit_1__hl
  /-- `BIT 1,A` -/
  | bit_1_a
  /-- `BIT 2,B` -/
  | bit_2_b
  /-- `BIT 2,C` -/
  | bit_2_c
  /-- `BIT 2,D` -/
  | bit_2_d
  /-- `BIT 2,E` -/
  | bit_2_e
  /-- `BIT 2,H` -/
  | bit_2_h
  /-- `BIT 2,L` -/
  | bit_2_l
  /-- `BIT 2,(HL)` -/
  | bit_2__hl
  /-- `BIT 2,A` -/
  | bit_2_a
  /-- `BIT 3,B` -/
  | bit_3_b
  /-- `BIT 3,C` -/
  | bit_3_c
  /-- `BIT 3,D` -/
  | bit_3_d
  /-- `BIT 3,E` -/
  | bit_3_e
  /-- `BIT 3,H` -/
  | bit_3_h
  /-- `BIT 3,L` -/
  | bit_3_l
  /-- `BIT 3,(HL)` -/
  | bit_3__hl
  /-- `BIT 3,A` -/
  | bit_3_a
  /-- `BIT 4,B` -/
  | bit_4_b
  /-- `BIT 4,C` -/
  | bit_4_c
  /-- `BIT 4,D` -/
  | bit_4_d
  /-- `BIT 4,E` -/
  | bit_4_e
  /-- `BIT 4,H` -/
  | bit_4_h
  /-- `BIT 4,L` -/
  | bit_4_l
  /-- `BIT 4,(HL)` -/
  | bit_4__hl
  /-- `BIT 4,A` -/
  | bit_4_a
  /-- `BIT 5,B` -/
  | bit_5_b
  /-- `BIT 5,C` -/
  | bit_5_c
  /-- `BIT 5,D` -/
  | bit_5_d
  /-- `BIT 5,E` -/
  | bit_5_e
  /-- `BIT 5,H` -/
  | bit_5_h
  /-- `BIT 5,L` -/
  | bit_5_l
  /-- `BIT 5,(HL)` -/
  | bit_5__hl
  /-- `BIT 5,A` -/
  | bit_5_a
  /-- `BIT 6,B` -/
  | bit_6_b
  /-- `BIT 6,C` -/
  | bit_6_c
  /-- `BIT 6,D` -/
  | bit_6_d
  /-- `BIT 6,E` -/
  | bit_6_e
  /-- `BIT 6,H` -/
  | bit_6_h
  /-- `BIT 6,L` -/
  | bit_6_l
  /-- `BIT 6,(HL)` -/
  | bit_6__hl
  /-- `BIT 6,A` -/
  | bit_6_a
  /-- `BIT 7,B` -/
  | bit_7_b
  /-- `BIT 7,C` -/
  | bit_7_c
  /-- `BIT 7,D` -/
  | bit_7_d
  /-- `BIT 7,E` -/
  | bit_7_e
  /-- `BIT 7,H` -/
  | bit_7_h
  /-- `BIT 7,L` -/
  | bit_7_l
  /-- `BIT 7,(HL)` -/
  | bit_7__hl
  /-- `BIT 7,A` -/
  | bit_7_a
  /-- `RES 0,B` -/
  | res_0_b
  /-- `RES 0,C` -/
  | res_0_c
  /-- `RES 0,D` -/
  | res_0_d
  /-- `RES 0,E` -/
  | res_0_e
  /-- `RES 0,H` -/
  | res_0_h
  /-- `RES 0,L` -/
  | res_0_l
  /-- `RES 0,(HL)` -/
  | res_0__hl
  /-- `RES 0,A` -/
  | res_0_a
  /-- `RES 1,B` -/
  | res_1_b
  /-- `RES 1,C` -/
  | res_1_c
  /-- `RES 1,D` -/
  | res_1_d
  /-- `RES 1,E` -/
  | res_1_e
  /-- `RES 1,H` -/
  | res_1_h
  /-- `RES 1,L` -/
  | res_1_l
  /-- `RES 1,(HL)` -/
  | res_1__hl
  /-- `RES 1,A` -/
  | res_1_a
  /-- `RES 2,B` -/
  | res_2_b
  /-- `RES 2,C` -/
  | res_2_c
  /-- `RES 2,D` -/
  | res_2_d
  /-- `RES 2,E` -/
  | res_2_e
  /-- `RES 2,H` -/
  | res_2_h
  /-- `RES 2,L` -/
  | res_2_l
  /-- `RES 2,(HL)` -/
  | res_2__hl
  /-- `RES 2,A` -/
  | res_2_a
  /-- `RES 3,B` -/
  | res_3_b
  /-- `RES 3,C` -/
  | res_3_c
  /-- `RES 3,D` -/
  | res_3_d
  /-- `RES 3,E` -/
  | res_3_e
  /-- `RES 3,H` -/
  | res_3_h
  /-- `RES 3,L` -/
  | res_3_l
  /-- `RES 3,(HL)` -/
  | res_3__hl
  /-- `RES 3,A` -/
  | res_3_a
  /-- `RES 4,B` -/
  | res_4_b
  /-- `RES 4,C` -/
  | res_4_c
  /-- `RES 4,D` -/
  | res_4_d
  /-- `RES 4,E` -/
  | res_4_e
  /-- `RES 4,H` -/
  | res_4_h
  /-- `RES 4,L` -/
  | res_4_l
  /-- `RES 4,(HL)` -/
  | res_4__hl
  /-- `RES 4,A` -/
  | res_4_a
  /-- `RES 5,B` -/
  | res_5_b
  /-- `RES 5,C` -/
  | res_5_c
  /-- `RES 5,D` -/
  | res_5_d
  /-- `RES 5,E` -/
  | res_5_e
  /-- `RES 5,H` -/
  | res_5_h
  /-- `RES 5,L` -/
  | res_5_l
  /-- `RES 5,(HL)` -/
  | res_5__hl
  /-- `RES 5,A` -/
  | res_5_a
  /-- `RES 6,B` -/
  | res_6_b
  /-- `RES 6,C` -/
  | res_6_c
  /-- `RES 6,D` -/
  | res_6_d
  /-- `RES 6,E` -/
  | res_6_e
  /-- `RES 6,H` -/
  | res_6_h
  /-- `RES 6,L` -/
  | res_6_l
  /-- `RES 6,(HL)` -/
  | res_6__hl
  /-- `RES 6,A` -/
  | res_6_a
  /-- `RES 7,B` -/
  | res_7_b
  /-- `RES 7,C` -/
  | res_7_c
  /-- `RES 7,D` -/
  | res_7_d
  /-- `RES 7,E` -/
  | res_7_e
  /-- `RES 7,H` -/
  | res_7_h
  /-- `RES 7,L` -/
  | res_7_l
  /-- `RES 7,(HL)` -/
  | res_7__hl
  /-- `RES 7,A` -/
  | res_7_a
  /-- `SET 0,B` -/
  | set_0_b
  /-- `SET 0,C` -/
  | set_0_c
  /-- `SET 0,D` -/
  | set_0_d
  /-- `SET 0,E` -/
  | set_0_e
  /-- `SET 0,H` -/
  | set_0_h
  /-- `SET 0,L` -/
  | set_0_l
  /-- `SET 0,(HL)` -/
  | set_0__hl
  /-- `SET 0,A` -/
  | set_0_a
  /-- `SET 1,B` -/
  | set_1_b
  /-- `SET 1,C` -/
  | set_1_c
  /-- `SET 1,D` -/
  | set_1_d
  /-- `SET 1,E` -/
  | set_1_e
  /-- `SET 1,H` -/
  | set_1_h
  /-- `SET 1,L` -/
  | set_1_l
  /-- `SET 1,(HL)` -/
  | set_1__hl
  /-- `SET 1,A` -/
  | set_1_a
  /-- `SET 2,B` -/
  | set_2_b
  /-- `SET 2,C` -/
  | set_2_c
  /-- `SET 2,D` -/
  | set_2_d
  /-- `SET 2,E` -/
  | set_2_e
  /-- `SET 2,H` -/
  | set_2_h
  /-- `SET 2,L` -/
  | set_2_l
  /-- `SET 2,(HL)` -/
  | set_2__hl
  /-- `SET 2,A` -/
  | set_2_a
  /-- `SET 3,B` -/
  | set_3_b
  /-- `SET 3,C` -/
  | set_3_c
  /-- `SET 3,D` -/
  | set_3_d
  /-- `SET 3,E` -/
  | set_3_e
  /-- `SET 3,H` -/
  | set_3_h
  /-- `SET 3,L` -/
  | set_3_l
  /-- `SET 3,(HL)` -/
  | set_3__hl
  /-- `SET 3,A` -/
  | set_3_a
  /-- `SET 4,B` -/
  | set_4_b
  /-- `SET 4,C` -/
  | set_4_c
  /-- `SET 4,D` -/
  | set_4_d
  /-- `SET 4,E` -/
  | set_4_e
  /-- `SET 4,H` -/
  | set_4_h
  /-- `SET 4,L` -/
  | set_4_l
  /-- `SET 4,(HL)` -/
  | set_4__hl
  /-- `SET 4,A` -/
  | set_4_a
  /-- `SET 5,B` -/
  | set_5_b
  /-- `SET 5,C` -/
  | set_5_c
  /-- `SET 5,D` -/
  | set_5_d
  /-- `SET 5,E` -/
  | set_5_e
  /-- `SET 5,H` -/
  | set_5_h
  /-- `SET 5,L` -/
  | set_5_l
  /-- `SET 5,(HL)` -/
  | set_5__hl
  /-- `SET 5,A` -/
  | set_5_a
  /-- `SET 6,B` -/
  | set_6_b
  /-- `SET 6,C` -/
  | set_6_c
  /-- `SET 6,D` -/
  | set_6_d
  /-- `SET 6,E` -/
  | set_6_e
  /-- `SET 6,H` -/
  | set_6_h
  /-- `SET 6,L` -/
  | set_6_l
  /-- `SET 6,(HL)` -/
  | set_6__hl
  /-- `SET 6,A` -/
  | set_6_a
  /-- `SET 7,B` -/
  | set_7_b
  /-- `SET 7,C` -/
  | set_7_c
  /-- `SET 7,D` -/
  | set_7_d
  /-- `SET 7,E` -/
  | set_7_e
  /-- `SET 7,H` -/
  | set_7_h
  /-- `SET 7,L` -/
  | set_7_l
  /-- `SET 7,(HL)` -/
  | set_7__hl
  /-- `SET 7,A` -/
  | set_7_a
  /-- `NOP (ED)` -/
  | nop__ed (op : Byte)
  /-- `IN B,(C)` -/
  | in_b__c
  /-- `OUT (C),B` -/
  | out__c__b
  /-- `SBC HL,BC` -/
  | sbc_hl_bc
  /-- `LD (nn),BC` -/
  | ld__nn__bc (nn : Word)
  /-- `NEG` -/
  | neg (op : Byte)
  /-- `RETN` -/
  | retn (op : Byte)
  /-- `IM 0` -/
  | im_0 (op : Byte)
  /-- `LD I,A` -/
  | ld_i_a
  /-- `IN C,(C)` -/
  | in_c__c
  /-- `OUT (C),C` -/
  | out__c__c
  /-- `ADC HL,BC` -/
  | adc_hl_bc
  /-- `LD BC,(nn)` -/
  | ld_bc__nn (nn : Word)
  /-- `RETI` -/
  | reti
  /-- `LD R,A` -/
  | ld_r_a
  /-- `IN D,(C)` -/
  | in_d__c
  /-- `OUT (C),D` -/
  | out__c__d
  /-- `SBC HL,DE` -/
  | sbc_hl_de
  /-- `LD (nn),DE` -/
  | ld__nn__de (nn : Word)
  /-- `IM 1` -/
  | im_1 (op : Byte)
  /-- `LD A,I` -/
  | ld_a_i
  /-- `IN E,(C)` -/
  | in_e__c
  /-- `OUT (C),E` -/
  | out__c__e
  /-- `ADC HL,DE` -/
  | adc_hl_de
  /-- `LD DE,(nn)` -/
  | ld_de__nn (nn : Word)
  /-- `IM 2` -/
  | im_2 (op : Byte)
  /-- `LD A,R` -/
  | ld_a_r
  /-- `IN H,(C)` -/
  | in_h__c
  /-- `OUT (C),H` -/
  | out__c__h
  /-- `SBC HL,HL` -/
  | sbc_hl_hl
  /-- `LD (nn),HL` -/
  | ld__nn__hl_ed (nn : Word)
  /-- `RRD` -/
  | rrd
  /-- `IN L,(C)` -/
  | in_l__c
  /-- `OUT (C),L` -/
  | out__c__l
  /-- `ADC HL,HL` -/
  | adc_hl_hl
  /-- `LD HL,(nn)` -/
  | ld_hl__nn_ed (nn : Word)
  /-- `RLD` -/
  | rld
  /-- `IN F,(C)` -/
  | in_f__c
  /-- `OUT (C),0` -/
  | out__c__0
  /-- `SBC HL,SP` -/
  | sbc_hl_sp
  /-- `LD (nn),SP` -/
  | ld__nn__sp (nn : Word)
  /-- `IN A,(C)` -/
  | in_a__c
  /-- `OUT (C),A` -/
  | out__c__a
  /-- `ADC HL,SP` -/
  | adc_hl_sp
  /-- `LD SP,(nn)` -/
  | ld_sp__nn (nn : Word)
  /-- `LDI` -/
  | ldi
  /-- `CPI` -/
  | cpi
  /-- `INI` -/
  | ini
  /-- `OUTI` -/
  | outi
  /-- `LDD` -/
  | ldd
  /-- `CPD` -/
  | cpd
  /-- `IND` -/
  | ind
  /-- `OUTD` -/
  | outd
  /-- `LDIR` -/
  | ldir
  /-- `CPIR` -/
  | cpir
  /-- `INIR` -/
  | inir
  /-- `OTIR` -/
  | otir
  /-- `LDDR` -/
  | lddr
  /-- `CPDR` -/
  | cpdr
  /-- `INDR` -/
  | indr
  /-- `OTDR` -/
  | otdr
  /-- `ADD IX,BC` -/
  | add_ix_bc
  /-- `ADD IX,DE` -/
  | add_ix_de
  /-- `LD IX,nn` -/
  | ld_ix_nn (nn : Word)
  /-- `LD (nn),IX` -/
  | ld__nn__ix (nn : Word)
  /-- `INC IX` -/
  | inc_ix
  /-- `INC IXH` -/
  | inc_ixh
  /-- `DEC IXH` -/
  | dec_ixh
  /-- `LD IXH,n` -/
  | ld_ixh_n (n : Byte)
  /-- `ADD IX,IX` -/
  | add_ix_ix
  /-- `LD IX,(nn)` -/
  | ld_ix__nn (nn : Word)
  /-- `DEC IX` -/
  | dec_ix
  /-- `INC IXL` -/
  | inc_ixl
  /-- `DEC IXL` -/
  | dec_ixl
  /-- `LD IXL,n` -/
  | ld_ixl_n (n : Byte)
  /-- `INC (IX+d)` -/
  | inc__ixd (d : Byte)
  /-- `DEC (IX+d)` -/
  | dec__ixd (d : Byte)
  /-- `LD (IX+d),n` -/
  | ld__ixd__n (d : Byte) (n : Byte)
  /-- `ADD IX,SP` -/
  | add_ix_sp
  /-- `LD B,IXH` -/
  | ld_b_ixh
  /-- `LD B,IXL` -/
  | ld_b_ixl
  /-- `LD B,(IX+d)` -/
  | ld_b__ixd (d : Byte)
  /-- `LD C,IXH` -/
  | ld_c_ixh
  /-- `LD C,IXL` -/
  | ld_c_ixl
  /-- `LD C,(IX+d)` -/
  | ld_c__ixd (d : Byte)
  /-- `LD D,IXH` -/
  | ld_d_ixh
  /-- `LD D,IXL` -/
  | ld_d_ixl
  /-- `LD D,(IX+d)` -/
  | ld_d__ixd (d : Byte)
  /-- `LD E,IXH` -/
  | ld_e_ixh
  /-- `LD E,IXL` -/
  | ld_e_ixl
  /-- `LD E,(IX+d)` -/
  | ld_e__ixd (d : Byte)
  /-- `LD IXH,B` -/
  | ld_ixh_b
  /-- `LD IXH,C` -/
  | ld_ixh_c
  /-- `LD IXH,D` -/
  | ld_ixh_d
  /-- `LD IXH,E` -/
  | ld_ixh_e
  /-- `LD IXH,IXH` -/
  | ld_ixh_ixh
  /-- `LD IXH,IXL` -/
  | ld_ixh_ixl
  /-- `LD H,(IX+d)` -/
  | ld_h__ixd (d : Byte)
  /-- `LD IXH,A` -/
  | ld_ixh_a
  /-- `LD IXL,B` -/
  | ld_ixl_b
  /-- `LD IXL,C` -/
  | ld_ixl_c
  /-- `LD IXL,D` -/
  | ld_ixl_d
  /-- `LD IXL,E` -/
  | ld_ixl_e
  /-- `LD IXL,IXH` -/
  | ld_ixl_ixh
  /-- `LD IXL,IXL` -/
  | ld_ixl_ixl
  /-- `LD L,(IX+d)` -/
  | ld_l__ixd (d : Byte)
  /-- `LD IXL,A` -/
  | ld_ixl_a
  /-- `LD (IX+d),B` -/
  | ld__ixd__b (d : Byte)
  /-- `LD (IX+d),C` -/
  | ld__ixd__c (d : Byte)
  /-- `LD (IX+d),D` -/
  | ld__ixd__d (d : Byte)
  /-- `LD (IX+d),E` -/
  | ld__ixd__e (d : Byte)
  /-- `LD (IX+d),H` -/
  | ld__ixd__h (d : Byte)
  /-- `LD (IX+d),L` -/
  | ld__ixd__l (d : Byte)
  /-- `LD (IX+d),A` -/
  | ld__ixd__a (d : Byte)
  /-- `LD A,IXH` -/
  | ld_a_ixh
  /-- `LD A,IXL` -/
  | ld_a_ixl
  /-- `LD A,(IX+d)` -/
  | ld_a__ixd (d : Byte)
  /-- `ADD A,IXH` -/
  | add_a_ixh
  /-- `ADD A,IXL` -/
  | add_a_ixl
  /-- `ADD A,(IX+d)` -/
  | add_a__ixd (d : Byte)
  /-- `ADC A,IXH` -/
  | adc_a_ixh
  /-- `ADC A,IXL` -/
  | adc_a_ixl
  /-- `ADC A,(IX+d)` -/
  | adc_a__ixd (d : Byte)
  /-- `SUB IXH` -/
  | sub_ixh
  /-- `SUB IXL` -/
  | sub_ixl
  /-- `SUB (IX+d)` -/
  | sub__ixd (d : Byte)
  /-- `SBC A,IXH` -/
  | sbc_a_ixh
  /-- `SBC A,IXL` -/
  | sbc_a_ixl
  /-- `SBC A,(IX+d)` -/
  | sbc_a__ixd (d : Byte)
  /-- `AND IXH` -/
  | and_ixh
  /-- `AND IXL` -/
  | and_ixl
  /-- `AND (IX+d)` -/
  | and__ixd (d : Byte)
  /-- `XOR IXH` -/
  | xor_ixh
  /-- `XOR IXL` -/
  | xor_ixl
  /-- `XOR (IX+d)` -/
  | xor__ixd (d : Byte)
  /-- `OR IXH` -/
  | or_ixh
  /-- `OR IXL` -/
  | or_ixl
  /-- `OR (IX+d)` -/
  | or__ixd (d : Byte)
  /-- `CP IXH` -/
  | cp_ixh
  /-- `CP IXL` -/
  | cp_ixl
  /-- `CP (IX+d)` -/
  | cp__ixd (d : Byte)
  /-- `prefix DDCB` -/
  | prefix_ddcb
  /-- `prefix DD (supersedes)` -/
  | prefix_dd__supersedes (x : IdxReg)
  /-- `POP IX` -/
  | pop_ix
  /-- `EX (SP),IX` -/
  | ex__sp__ix
  /-- `PUSH IX` -/
  | push_ix
  /-- `JP (IX)` -/
  | jp__ix
  /-- `prefix ED (index prefix dropped)` -/
  | prefix_ed__index_prefix_dropped (x : IdxReg)
  /-- `LD SP,IX` -/
  | ld_sp_ix
  /-- `prefix FD (supersedes)` -/
  | prefix_fd__supersedes (x : IdxReg)
  /-- `ADD IY,BC` -/
  | add_iy_bc
  /-- `ADD IY,DE` -/
  | add_iy_de
  /-- `LD IY,nn` -/
  | ld_iy_nn (nn : Word)
  /-- `LD (nn),IY` -/
  | ld__nn__iy (nn : Word)
  /-- `INC IY` -/
  | inc_iy
  /-- `INC IYH` -/
  | inc_iyh
  /-- `DEC IYH` -/
  | dec_iyh
  /-- `LD IYH,n` -/
  | ld_iyh_n (n : Byte)
  /-- `ADD IY,IY` -/
  | add_iy_iy
  /-- `LD IY,(nn)` -/
  | ld_iy__nn (nn : Word)
  /-- `DEC IY` -/
  | dec_iy
  /-- `INC IYL` -/
  | inc_iyl
  /-- `DEC IYL` -/
  | dec_iyl
  /-- `LD IYL,n` -/
  | ld_iyl_n (n : Byte)
  /-- `INC (IY+d)` -/
  | inc__iyd (d : Byte)
  /-- `DEC (IY+d)` -/
  | dec__iyd (d : Byte)
  /-- `LD (IY+d),n` -/
  | ld__iyd__n (d : Byte) (n : Byte)
  /-- `ADD IY,SP` -/
  | add_iy_sp
  /-- `LD B,IYH` -/
  | ld_b_iyh
  /-- `LD B,IYL` -/
  | ld_b_iyl
  /-- `LD B,(IY+d)` -/
  | ld_b__iyd (d : Byte)
  /-- `LD C,IYH` -/
  | ld_c_iyh
  /-- `LD C,IYL` -/
  | ld_c_iyl
  /-- `LD C,(IY+d)` -/
  | ld_c__iyd (d : Byte)
  /-- `LD D,IYH` -/
  | ld_d_iyh
  /-- `LD D,IYL` -/
  | ld_d_iyl
  /-- `LD D,(IY+d)` -/
  | ld_d__iyd (d : Byte)
  /-- `LD E,IYH` -/
  | ld_e_iyh
  /-- `LD E,IYL` -/
  | ld_e_iyl
  /-- `LD E,(IY+d)` -/
  | ld_e__iyd (d : Byte)
  /-- `LD IYH,B` -/
  | ld_iyh_b
  /-- `LD IYH,C` -/
  | ld_iyh_c
  /-- `LD IYH,D` -/
  | ld_iyh_d
  /-- `LD IYH,E` -/
  | ld_iyh_e
  /-- `LD IYH,IYH` -/
  | ld_iyh_iyh
  /-- `LD IYH,IYL` -/
  | ld_iyh_iyl
  /-- `LD H,(IY+d)` -/
  | ld_h__iyd (d : Byte)
  /-- `LD IYH,A` -/
  | ld_iyh_a
  /-- `LD IYL,B` -/
  | ld_iyl_b
  /-- `LD IYL,C` -/
  | ld_iyl_c
  /-- `LD IYL,D` -/
  | ld_iyl_d
  /-- `LD IYL,E` -/
  | ld_iyl_e
  /-- `LD IYL,IYH` -/
  | ld_iyl_iyh
  /-- `LD IYL,IYL` -/
  | ld_iyl_iyl
  /-- `LD L,(IY+d)` -/
  | ld_l__iyd (d : Byte)
  /-- `LD IYL,A` -/
  | ld_iyl_a
  /-- `LD (IY+d),B` -/
  | ld__iyd__b (d : Byte)
  /-- `LD (IY+d),C` -/
  | ld__iyd__c (d : Byte)
  /-- `LD (IY+d),D` -/
  | ld__iyd__d (d : Byte)
  /-- `LD (IY+d),E` -/
  | ld__iyd__e (d : Byte)
  /-- `LD (IY+d),H` -/
  | ld__iyd__h (d : Byte)
  /-- `LD (IY+d),L` -/
  | ld__iyd__l (d : Byte)
  /-- `LD (IY+d),A` -/
  | ld__iyd__a (d : Byte)
  /-- `LD A,IYH` -/
  | ld_a_iyh
  /-- `LD A,IYL` -/
  | ld_a_iyl
  /-- `LD A,(IY+d)` -/
  | ld_a__iyd (d : Byte)
  /-- `ADD A,IYH` -/
  | add_a_iyh
  /-- `ADD A,IYL` -/
  | add_a_iyl
  /-- `ADD A,(IY+d)` -/
  | add_a__iyd (d : Byte)
  /-- `ADC A,IYH` -/
  | adc_a_iyh
  /-- `ADC A,IYL` -/
  | adc_a_iyl
  /-- `ADC A,(IY+d)` -/
  | adc_a__iyd (d : Byte)
  /-- `SUB IYH` -/
  | sub_iyh
  /-- `SUB IYL` -/
  | sub_iyl
  /-- `SUB (IY+d)` -/
  | sub__iyd (d : Byte)
  /-- `SBC A,IYH` -/
  | sbc_a_iyh
  /-- `SBC A,IYL` -/
  | sbc_a_iyl
  /-- `SBC A,(IY+d)` -/
  | sbc_a__iyd (d : Byte)
  /-- `AND IYH` -/
  | and_iyh
  /-- `AND IYL` -/
  | and_iyl
  /-- `AND (IY+d)` -/
  | and__iyd (d : Byte)
  /-- `XOR IYH` -/
  | xor_iyh
  /-- `XOR IYL` -/
  | xor_iyl
  /-- `XOR (IY+d)` -/
  | xor__iyd (d : Byte)
  /-- `OR IYH` -/
  | or_iyh
  /-- `OR IYL` -/
  | or_iyl
  /-- `OR (IY+d)` -/
  | or__iyd (d : Byte)
  /-- `CP IYH` -/
  | cp_iyh
  /-- `CP IYL` -/
  | cp_iyl
  /-- `CP (IY+d)` -/
  | cp__iyd (d : Byte)
  /-- `prefix FDCB` -/
  | prefix_fdcb
  /-- `POP IY` -/
  | pop_iy
  /-- `EX (SP),IY` -/
  | ex__sp__iy
  /-- `PUSH IY` -/
  | push_iy
  /-- `JP (IY)` -/
  | jp__iy
  /-- `LD SP,IY` -/
  | ld_sp_iy
  /-- `RLC (IX+d),B` -/
  | rlc__ixd__b (d : Byte)
  /-- `RLC (IX+d),C` -/
  | rlc__ixd__c (d : Byte)
  /-- `RLC (IX+d),D` -/
  | rlc__ixd__d (d : Byte)
  /-- `RLC (IX+d),E` -/
  | rlc__ixd__e (d : Byte)
  /-- `RLC (IX+d),H` -/
  | rlc__ixd__h (d : Byte)
  /-- `RLC (IX+d),L` -/
  | rlc__ixd__l (d : Byte)
  /-- `RLC (IX+d)` -/
  | rlc__ixd (d : Byte)
  /-- `RLC (IX+d),A` -/
  | rlc__ixd__a (d : Byte)
  /-- `RRC (IX+d),B` -/
  | rrc__ixd__b (d : Byte)
  /-- `RRC (IX+d),C` -/
  | rrc__ixd__c (d : Byte)
  /-- `RRC (IX+d),D` -/
  | rrc__ixd__d (d : Byte)
  /-- `RRC (IX+d),E` -/
  | rrc__ixd__e (d : Byte)
  /-- `RRC (IX+d),H` -/
  | rrc__ixd__h (d : Byte)
  /-- `RRC (IX+d),L` -/
  | rrc__ixd__l (d : Byte)
  /-- `RRC (IX+d)` -/
  | rrc__ixd (d : Byte)
  /-- `RRC (IX+d),A` -/
  | rrc__ixd__a (d : Byte)
  /-- `RL (IX+d),B` -/
  | rl__ixd__b (d : Byte)
  /-- `RL (IX+d),C` -/
  | rl__ixd__c (d : Byte)
  /-- `RL (IX+d),D` -/
  | rl__ixd__d (d : Byte)
  /-- `RL (IX+d),E` -/
  | rl__ixd__e (d : Byte)
  /-- `RL (IX+d),H` -/
  | rl__ixd__h (d : Byte)
  /-- `RL (IX+d),L` -/
  | rl__ixd__l (d : Byte)
  /-- `RL (IX+d)` -/
  | rl__ixd (d : Byte)
  /-- `RL (IX+d),A` -/
  | rl__ixd__a (d : Byte)
  /-- `RR (IX+d),B` -/
  | rr__ixd__b (d : Byte)
  /-- `RR (IX+d),C` -/
  | rr__ixd__c (d : Byte)
  /-- `RR (IX+d),D` -/
  | rr__ixd__d (d : Byte)
  /-- `RR (IX+d),E` -/
  | rr__ixd__e (d : Byte)
  /-- `RR (IX+d),H` -/
  | rr__ixd__h (d : Byte)
  /-- `RR (IX+d),L` -/
  | rr__ixd__l (d : Byte)
  /-- `RR (IX+d)` -/
  | rr__ixd (d : Byte)
  /-- `RR (IX+d),A` -/
  | rr__ixd__a (d : Byte)
  /-- `SLA (IX+d),B` -/
  | sla__ixd__b (d : Byte)
  /-- `SLA (IX+d),C` -/
  | sla__ixd__c (d : Byte)
  /-- `SLA (IX+d),D` -/
  | sla__ixd__d (d : Byte)
  /-- `SLA (IX+d),E` -/
  | sla__ixd__e (d : Byte)
  /-- `SLA (IX+d),H` -/
  | sla__ixd__h (d : Byte)
  /-- `SLA (IX+d),L` -/
  | sla__ixd__l (d : Byte)
  /-- `SLA (IX+d)` -/
  | sla__ixd (d : Byte)
  /-- `SLA (IX+d),A` -/
  | sla__ixd__a (d : Byte)
  /-- `SRA (IX+d),B` -/
  | sra__ixd__b (d : Byte)
  /-- `SRA (IX+d),C` -/
  | sra__ixd__c (d : Byte)
  /-- `SRA (IX+d),D` -/
  | sra__ixd__d (d : Byte)
  /-- `SRA (IX+d),E` -/
  | sra__ixd__e (d : Byte)
  /-- `SRA (IX+d),H` -/
  | sra__ixd__h (d : Byte)
  /-- `SRA (IX+d),L` -/
  | sra__ixd__l (d : Byte)
  /-- `SRA (IX+d)` -/
  | sra__ixd (d : Byte)
  /-- `SRA (IX+d),A` -/
  | sra__ixd__a (d : Byte)
  /-- `SLL (IX+d),B` -/
  | sll__ixd__b (d : Byte)
  /-- `SLL (IX+d),C` -/
  | sll__ixd__c (d : Byte)
  /-- `SLL (IX+d),D` -/
  | sll__ixd__d (d : Byte)
  /-- `SLL (IX+d),E` -/
  | sll__ixd__e (d : Byte)
  /-- `SLL (IX+d),H` -/
  | sll__ixd__h (d : Byte)
  /-- `SLL (IX+d),L` -/
  | sll__ixd__l (d : Byte)
  /-- `SLL (IX+d)` -/
  | sll__ixd (d : Byte)
  /-- `SLL (IX+d),A` -/
  | sll__ixd__a (d : Byte)
  /-- `SRL (IX+d),B` -/
  | srl__ixd__b (d : Byte)
  /-- `SRL (IX+d),C` -/
  | srl__ixd__c (d : Byte)
  /-- `SRL (IX+d),D` -/
  | srl__ixd__d (d : Byte)
  /-- `SRL (IX+d),E` -/
  | srl__ixd__e (d : Byte)
  /-- `SRL (IX+d),H` -/
  | srl__ixd__h (d : Byte)
  /-- `SRL (IX+d),L` -/
  | srl__ixd__l (d : Byte)
  /-- `SRL (IX+d)` -/
  | srl__ixd (d : Byte)
  /-- `SRL (IX+d),A` -/
  | srl__ixd__a (d : Byte)
  /-- `BIT 0,(IX+d)` -/
  | bit_0__ixd (z : BitVec 3) (d : Byte)
  /-- `BIT 1,(IX+d)` -/
  | bit_1__ixd (z : BitVec 3) (d : Byte)
  /-- `BIT 2,(IX+d)` -/
  | bit_2__ixd (z : BitVec 3) (d : Byte)
  /-- `BIT 3,(IX+d)` -/
  | bit_3__ixd (z : BitVec 3) (d : Byte)
  /-- `BIT 4,(IX+d)` -/
  | bit_4__ixd (z : BitVec 3) (d : Byte)
  /-- `BIT 5,(IX+d)` -/
  | bit_5__ixd (z : BitVec 3) (d : Byte)
  /-- `BIT 6,(IX+d)` -/
  | bit_6__ixd (z : BitVec 3) (d : Byte)
  /-- `BIT 7,(IX+d)` -/
  | bit_7__ixd (z : BitVec 3) (d : Byte)
  /-- `RES 0,(IX+d),B` -/
  | res_0__ixd__b (d : Byte)
  /-- `RES 0,(IX+d),C` -/
  | res_0__ixd__c (d : Byte)
  /-- `RES 0,(IX+d),D` -/
  | res_0__ixd__d (d : Byte)
  /-- `RES 0,(IX+d),E` -/
  | res_0__ixd__e (d : Byte)
  /-- `RES 0,(IX+d),H` -/
  | res_0__ixd__h (d : Byte)
  /-- `RES 0,(IX+d),L` -/
  | res_0__ixd__l (d : Byte)
  /-- `RES 0,(IX+d)` -/
  | res_0__ixd (d : Byte)
  /-- `RES 0,(IX+d),A` -/
  | res_0__ixd__a (d : Byte)
  /-- `RES 1,(IX+d),B` -/
  | res_1__ixd__b (d : Byte)
  /-- `RES 1,(IX+d),C` -/
  | res_1__ixd__c (d : Byte)
  /-- `RES 1,(IX+d),D` -/
  | res_1__ixd__d (d : Byte)
  /-- `RES 1,(IX+d),E` -/
  | res_1__ixd__e (d : Byte)
  /-- `RES 1,(IX+d),H` -/
  | res_1__ixd__h (d : Byte)
  /-- `RES 1,(IX+d),L` -/
  | res_1__ixd__l (d : Byte)
  /-- `RES 1,(IX+d)` -/
  | res_1__ixd (d : Byte)
  /-- `RES 1,(IX+d),A` -/
  | res_1__ixd__a (d : Byte)
  /-- `RES 2,(IX+d),B` -/
  | res_2__ixd__b (d : Byte)
  /-- `RES 2,(IX+d),C` -/
  | res_2__ixd__c (d : Byte)
  /-- `RES 2,(IX+d),D` -/
  | res_2__ixd__d (d : Byte)
  /-- `RES 2,(IX+d),E` -/
  | res_2__ixd__e (d : Byte)
  /-- `RES 2,(IX+d),H` -/
  | res_2__ixd__h (d : Byte)
  /-- `RES 2,(IX+d),L` -/
  | res_2__ixd__l (d : Byte)
  /-- `RES 2,(IX+d)` -/
  | res_2__ixd (d : Byte)
  /-- `RES 2,(IX+d),A` -/
  | res_2__ixd__a (d : Byte)
  /-- `RES 3,(IX+d),B` -/
  | res_3__ixd__b (d : Byte)
  /-- `RES 3,(IX+d),C` -/
  | res_3__ixd__c (d : Byte)
  /-- `RES 3,(IX+d),D` -/
  | res_3__ixd__d (d : Byte)
  /-- `RES 3,(IX+d),E` -/
  | res_3__ixd__e (d : Byte)
  /-- `RES 3,(IX+d),H` -/
  | res_3__ixd__h (d : Byte)
  /-- `RES 3,(IX+d),L` -/
  | res_3__ixd__l (d : Byte)
  /-- `RES 3,(IX+d)` -/
  | res_3__ixd (d : Byte)
  /-- `RES 3,(IX+d),A` -/
  | res_3__ixd__a (d : Byte)
  /-- `RES 4,(IX+d),B` -/
  | res_4__ixd__b (d : Byte)
  /-- `RES 4,(IX+d),C` -/
  | res_4__ixd__c (d : Byte)
  /-- `RES 4,(IX+d),D` -/
  | res_4__ixd__d (d : Byte)
  /-- `RES 4,(IX+d),E` -/
  | res_4__ixd__e (d : Byte)
  /-- `RES 4,(IX+d),H` -/
  | res_4__ixd__h (d : Byte)
  /-- `RES 4,(IX+d),L` -/
  | res_4__ixd__l (d : Byte)
  /-- `RES 4,(IX+d)` -/
  | res_4__ixd (d : Byte)
  /-- `RES 4,(IX+d),A` -/
  | res_4__ixd__a (d : Byte)
  /-- `RES 5,(IX+d),B` -/
  | res_5__ixd__b (d : Byte)
  /-- `RES 5,(IX+d),C` -/
  | res_5__ixd__c (d : Byte)
  /-- `RES 5,(IX+d),D` -/
  | res_5__ixd__d (d : Byte)
  /-- `RES 5,(IX+d),E` -/
  | res_5__ixd__e (d : Byte)
  /-- `RES 5,(IX+d),H` -/
  | res_5__ixd__h (d : Byte)
  /-- `RES 5,(IX+d),L` -/
  | res_5__ixd__l (d : Byte)
  /-- `RES 5,(IX+d)` -/
  | res_5__ixd (d : Byte)
  /-- `RES 5,(IX+d),A` -/
  | res_5__ixd__a (d : Byte)
  /-- `RES 6,(IX+d),B` -/
  | res_6__ixd__b (d : Byte)
  /-- `RES 6,(IX+d),C` -/
  | res_6__ixd__c (d : Byte)
  /-- `RES 6,(IX+d),D` -/
  | res_6__ixd__d (d : Byte)
  /-- `RES 6,(IX+d),E` -/
  | res_6__ixd__e (d : Byte)
  /-- `RES 6,(IX+d),H` -/
  | res_6__ixd__h (d : Byte)
  /-- `RES 6,(IX+d),L` -/
  | res_6__ixd__l (d : Byte)
  /-- `RES 6,(IX+d)` -/
  | res_6__ixd (d : Byte)
  /-- `RES 6,(IX+d),A` -/
  | res_6__ixd__a (d : Byte)
  /-- `RES 7,(IX+d),B` -/
  | res_7__ixd__b (d : Byte)
  /-- `RES 7,(IX+d),C` -/
  | res_7__ixd__c (d : Byte)
  /-- `RES 7,(IX+d),D` -/
  | res_7__ixd__d (d : Byte)
  /-- `RES 7,(IX+d),E` -/
  | res_7__ixd__e (d : Byte)
  /-- `RES 7,(IX+d),H` -/
  | res_7__ixd__h (d : Byte)
  /-- `RES 7,(IX+d),L` -/
  | res_7__ixd__l (d : Byte)
  /-- `RES 7,(IX+d)` -/
  | res_7__ixd (d : Byte)
  /-- `RES 7,(IX+d),A` -/
  | res_7__ixd__a (d : Byte)
  /-- `SET 0,(IX+d),B` -/
  | set_0__ixd__b (d : Byte)
  /-- `SET 0,(IX+d),C` -/
  | set_0__ixd__c (d : Byte)
  /-- `SET 0,(IX+d),D` -/
  | set_0__ixd__d (d : Byte)
  /-- `SET 0,(IX+d),E` -/
  | set_0__ixd__e (d : Byte)
  /-- `SET 0,(IX+d),H` -/
  | set_0__ixd__h (d : Byte)
  /-- `SET 0,(IX+d),L` -/
  | set_0__ixd__l (d : Byte)
  /-- `SET 0,(IX+d)` -/
  | set_0__ixd (d : Byte)
  /-- `SET 0,(IX+d),A` -/
  | set_0__ixd__a (d : Byte)
  /-- `SET 1,(IX+d),B` -/
  | set_1__ixd__b (d : Byte)
  /-- `SET 1,(IX+d),C` -/
  | set_1__ixd__c (d : Byte)
  /-- `SET 1,(IX+d),D` -/
  | set_1__ixd__d (d : Byte)
  /-- `SET 1,(IX+d),E` -/
  | set_1__ixd__e (d : Byte)
  /-- `SET 1,(IX+d),H` -/
  | set_1__ixd__h (d : Byte)
  /-- `SET 1,(IX+d),L` -/
  | set_1__ixd__l (d : Byte)
  /-- `SET 1,(IX+d)` -/
  | set_1__ixd (d : Byte)
  /-- `SET 1,(IX+d),A` -/
  | set_1__ixd__a (d : Byte)
  /-- `SET 2,(IX+d),B` -/
  | set_2__ixd__b (d : Byte)
  /-- `SET 2,(IX+d),C` -/
  | set_2__ixd__c (d : Byte)
  /-- `SET 2,(IX+d),D` -/
  | set_2__ixd__d (d : Byte)
  /-- `SET 2,(IX+d),E` -/
  | set_2__ixd__e (d : Byte)
  /-- `SET 2,(IX+d),H` -/
  | set_2__ixd__h (d : Byte)
  /-- `SET 2,(IX+d),L` -/
  | set_2__ixd__l (d : Byte)
  /-- `SET 2,(IX+d)` -/
  | set_2__ixd (d : Byte)
  /-- `SET 2,(IX+d),A` -/
  | set_2__ixd__a (d : Byte)
  /-- `SET 3,(IX+d),B` -/
  | set_3__ixd__b (d : Byte)
  /-- `SET 3,(IX+d),C` -/
  | set_3__ixd__c (d : Byte)
  /-- `SET 3,(IX+d),D` -/
  | set_3__ixd__d (d : Byte)
  /-- `SET 3,(IX+d),E` -/
  | set_3__ixd__e (d : Byte)
  /-- `SET 3,(IX+d),H` -/
  | set_3__ixd__h (d : Byte)
  /-- `SET 3,(IX+d),L` -/
  | set_3__ixd__l (d : Byte)
  /-- `SET 3,(IX+d)` -/
  | set_3__ixd (d : Byte)
  /-- `SET 3,(IX+d),A` -/
  | set_3__ixd__a (d : Byte)
  /-- `SET 4,(IX+d),B` -/
  | set_4__ixd__b (d : Byte)
  /-- `SET 4,(IX+d),C` -/
  | set_4__ixd__c (d : Byte)
  /-- `SET 4,(IX+d),D` -/
  | set_4__ixd__d (d : Byte)
  /-- `SET 4,(IX+d),E` -/
  | set_4__ixd__e (d : Byte)
  /-- `SET 4,(IX+d),H` -/
  | set_4__ixd__h (d : Byte)
  /-- `SET 4,(IX+d),L` -/
  | set_4__ixd__l (d : Byte)
  /-- `SET 4,(IX+d)` -/
  | set_4__ixd (d : Byte)
  /-- `SET 4,(IX+d),A` -/
  | set_4__ixd__a (d : Byte)
  /-- `SET 5,(IX+d),B` -/
  | set_5__ixd__b (d : Byte)
  /-- `SET 5,(IX+d),C` -/
  | set_5__ixd__c (d : Byte)
  /-- `SET 5,(IX+d),D` -/
  | set_5__ixd__d (d : Byte)
  /-- `SET 5,(IX+d),E` -/
  | set_5__ixd__e (d : Byte)
  /-- `SET 5,(IX+d),H` -/
  | set_5__ixd__h (d : Byte)
  /-- `SET 5,(IX+d),L` -/
  | set_5__ixd__l (d : Byte)
  /-- `SET 5,(IX+d)` -/
  | set_5__ixd (d : Byte)
  /-- `SET 5,(IX+d),A` -/
  | set_5__ixd__a (d : Byte)
  /-- `SET 6,(IX+d),B` -/
  | set_6__ixd__b (d : Byte)
  /-- `SET 6,(IX+d),C` -/
  | set_6__ixd__c (d : Byte)
  /-- `SET 6,(IX+d),D` -/
  | set_6__ixd__d (d : Byte)
  /-- `SET 6,(IX+d),E` -/
  | set_6__ixd__e (d : Byte)
  /-- `SET 6,(IX+d),H` -/
  | set_6__ixd__h (d : Byte)
  /-- `SET 6,(IX+d),L` -/
  | set_6__ixd__l (d : Byte)
  /-- `SET 6,(IX+d)` -/
  | set_6__ixd (d : Byte)
  /-- `SET 6,(IX+d),A` -/
  | set_6__ixd__a (d : Byte)
  /-- `SET 7,(IX+d),B` -/
  | set_7__ixd__b (d : Byte)
  /-- `SET 7,(IX+d),C` -/
  | set_7__ixd__c (d : Byte)
  /-- `SET 7,(IX+d),D` -/
  | set_7__ixd__d (d : Byte)
  /-- `SET 7,(IX+d),E` -/
  | set_7__ixd__e (d : Byte)
  /-- `SET 7,(IX+d),H` -/
  | set_7__ixd__h (d : Byte)
  /-- `SET 7,(IX+d),L` -/
  | set_7__ixd__l (d : Byte)
  /-- `SET 7,(IX+d)` -/
  | set_7__ixd (d : Byte)
  /-- `SET 7,(IX+d),A` -/
  | set_7__ixd__a (d : Byte)
  /-- `RLC (IY+d),B` -/
  | rlc__iyd__b (d : Byte)
  /-- `RLC (IY+d),C` -/
  | rlc__iyd__c (d : Byte)
  /-- `RLC (IY+d),D` -/
  | rlc__iyd__d (d : Byte)
  /-- `RLC (IY+d),E` -/
  | rlc__iyd__e (d : Byte)
  /-- `RLC (IY+d),H` -/
  | rlc__iyd__h (d : Byte)
  /-- `RLC (IY+d),L` -/
  | rlc__iyd__l (d : Byte)
  /-- `RLC (IY+d)` -/
  | rlc__iyd (d : Byte)
  /-- `RLC (IY+d),A` -/
  | rlc__iyd__a (d : Byte)
  /-- `RRC (IY+d),B` -/
  | rrc__iyd__b (d : Byte)
  /-- `RRC (IY+d),C` -/
  | rrc__iyd__c (d : Byte)
  /-- `RRC (IY+d),D` -/
  | rrc__iyd__d (d : Byte)
  /-- `RRC (IY+d),E` -/
  | rrc__iyd__e (d : Byte)
  /-- `RRC (IY+d),H` -/
  | rrc__iyd__h (d : Byte)
  /-- `RRC (IY+d),L` -/
  | rrc__iyd__l (d : Byte)
  /-- `RRC (IY+d)` -/
  | rrc__iyd (d : Byte)
  /-- `RRC (IY+d),A` -/
  | rrc__iyd__a (d : Byte)
  /-- `RL (IY+d),B` -/
  | rl__iyd__b (d : Byte)
  /-- `RL (IY+d),C` -/
  | rl__iyd__c (d : Byte)
  /-- `RL (IY+d),D` -/
  | rl__iyd__d (d : Byte)
  /-- `RL (IY+d),E` -/
  | rl__iyd__e (d : Byte)
  /-- `RL (IY+d),H` -/
  | rl__iyd__h (d : Byte)
  /-- `RL (IY+d),L` -/
  | rl__iyd__l (d : Byte)
  /-- `RL (IY+d)` -/
  | rl__iyd (d : Byte)
  /-- `RL (IY+d),A` -/
  | rl__iyd__a (d : Byte)
  /-- `RR (IY+d),B` -/
  | rr__iyd__b (d : Byte)
  /-- `RR (IY+d),C` -/
  | rr__iyd__c (d : Byte)
  /-- `RR (IY+d),D` -/
  | rr__iyd__d (d : Byte)
  /-- `RR (IY+d),E` -/
  | rr__iyd__e (d : Byte)
  /-- `RR (IY+d),H` -/
  | rr__iyd__h (d : Byte)
  /-- `RR (IY+d),L` -/
  | rr__iyd__l (d : Byte)
  /-- `RR (IY+d)` -/
  | rr__iyd (d : Byte)
  /-- `RR (IY+d),A` -/
  | rr__iyd__a (d : Byte)
  /-- `SLA (IY+d),B` -/
  | sla__iyd__b (d : Byte)
  /-- `SLA (IY+d),C` -/
  | sla__iyd__c (d : Byte)
  /-- `SLA (IY+d),D` -/
  | sla__iyd__d (d : Byte)
  /-- `SLA (IY+d),E` -/
  | sla__iyd__e (d : Byte)
  /-- `SLA (IY+d),H` -/
  | sla__iyd__h (d : Byte)
  /-- `SLA (IY+d),L` -/
  | sla__iyd__l (d : Byte)
  /-- `SLA (IY+d)` -/
  | sla__iyd (d : Byte)
  /-- `SLA (IY+d),A` -/
  | sla__iyd__a (d : Byte)
  /-- `SRA (IY+d),B` -/
  | sra__iyd__b (d : Byte)
  /-- `SRA (IY+d),C` -/
  | sra__iyd__c (d : Byte)
  /-- `SRA (IY+d),D` -/
  | sra__iyd__d (d : Byte)
  /-- `SRA (IY+d),E` -/
  | sra__iyd__e (d : Byte)
  /-- `SRA (IY+d),H` -/
  | sra__iyd__h (d : Byte)
  /-- `SRA (IY+d),L` -/
  | sra__iyd__l (d : Byte)
  /-- `SRA (IY+d)` -/
  | sra__iyd (d : Byte)
  /-- `SRA (IY+d),A` -/
  | sra__iyd__a (d : Byte)
  /-- `SLL (IY+d),B` -/
  | sll__iyd__b (d : Byte)
  /-- `SLL (IY+d),C` -/
  | sll__iyd__c (d : Byte)
  /-- `SLL (IY+d),D` -/
  | sll__iyd__d (d : Byte)
  /-- `SLL (IY+d),E` -/
  | sll__iyd__e (d : Byte)
  /-- `SLL (IY+d),H` -/
  | sll__iyd__h (d : Byte)
  /-- `SLL (IY+d),L` -/
  | sll__iyd__l (d : Byte)
  /-- `SLL (IY+d)` -/
  | sll__iyd (d : Byte)
  /-- `SLL (IY+d),A` -/
  | sll__iyd__a (d : Byte)
  /-- `SRL (IY+d),B` -/
  | srl__iyd__b (d : Byte)
  /-- `SRL (IY+d),C` -/
  | srl__iyd__c (d : Byte)
  /-- `SRL (IY+d),D` -/
  | srl__iyd__d (d : Byte)
  /-- `SRL (IY+d),E` -/
  | srl__iyd__e (d : Byte)
  /-- `SRL (IY+d),H` -/
  | srl__iyd__h (d : Byte)
  /-- `SRL (IY+d),L` -/
  | srl__iyd__l (d : Byte)
  /-- `SRL (IY+d)` -/
  | srl__iyd (d : Byte)
  /-- `SRL (IY+d),A` -/
  | srl__iyd__a (d : Byte)
  /-- `BIT 0,(IY+d)` -/
  | bit_0__iyd (z : BitVec 3) (d : Byte)
  /-- `BIT 1,(IY+d)` -/
  | bit_1__iyd (z : BitVec 3) (d : Byte)
  /-- `BIT 2,(IY+d)` -/
  | bit_2__iyd (z : BitVec 3) (d : Byte)
  /-- `BIT 3,(IY+d)` -/
  | bit_3__iyd (z : BitVec 3) (d : Byte)
  /-- `BIT 4,(IY+d)` -/
  | bit_4__iyd (z : BitVec 3) (d : Byte)
  /-- `BIT 5,(IY+d)` -/
  | bit_5__iyd (z : BitVec 3) (d : Byte)
  /-- `BIT 6,(IY+d)` -/
  | bit_6__iyd (z : BitVec 3) (d : Byte)
  /-- `BIT 7,(IY+d)` -/
  | bit_7__iyd (z : BitVec 3) (d : Byte)
  /-- `RES 0,(IY+d),B` -/
  | res_0__iyd__b (d : Byte)
  /-- `RES 0,(IY+d),C` -/
  | res_0__iyd__c (d : Byte)
  /-- `RES 0,(IY+d),D` -/
  | res_0__iyd__d (d : Byte)
  /-- `RES 0,(IY+d),E` -/
  | res_0__iyd__e (d : Byte)
  /-- `RES 0,(IY+d),H` -/
  | res_0__iyd__h (d : Byte)
  /-- `RES 0,(IY+d),L` -/
  | res_0__iyd__l (d : Byte)
  /-- `RES 0,(IY+d)` -/
  | res_0__iyd (d : Byte)
  /-- `RES 0,(IY+d),A` -/
  | res_0__iyd__a (d : Byte)
  /-- `RES 1,(IY+d),B` -/
  | res_1__iyd__b (d : Byte)
  /-- `RES 1,(IY+d),C` -/
  | res_1__iyd__c (d : Byte)
  /-- `RES 1,(IY+d),D` -/
  | res_1__iyd__d (d : Byte)
  /-- `RES 1,(IY+d),E` -/
  | res_1__iyd__e (d : Byte)
  /-- `RES 1,(IY+d),H` -/
  | res_1__iyd__h (d : Byte)
  /-- `RES 1,(IY+d),L` -/
  | res_1__iyd__l (d : Byte)
  /-- `RES 1,(IY+d)` -/
  | res_1__iyd (d : Byte)
  /-- `RES 1,(IY+d),A` -/
  | res_1__iyd__a (d : Byte)
  /-- `RES 2,(IY+d),B` -/
  | res_2__iyd__b (d : Byte)
  /-- `RES 2,(IY+d),C` -/
  | res_2__iyd__c (d : Byte)
  /-- `RES 2,(IY+d),D` -/
  | res_2__iyd__d (d : Byte)
  /-- `RES 2,(IY+d),E` -/
  | res_2__iyd__e (d : Byte)
  /-- `RES 2,(IY+d),H` -/
  | res_2__iyd__h (d : Byte)
  /-- `RES 2,(IY+d),L` -/
  | res_2__iyd__l (d : Byte)
  /-- `RES 2,(IY+d)` -/
  | res_2__iyd (d : Byte)
  /-- `RES 2,(IY+d),A` -/
  | res_2__iyd__a (d : Byte)
  /-- `RES 3,(IY+d),B` -/
  | res_3__iyd__b (d : Byte)
  /-- `RES 3,(IY+d),C` -/
  | res_3__iyd__c (d : Byte)
  /-- `RES 3,(IY+d),D` -/
  | res_3__iyd__d (d : Byte)
  /-- `RES 3,(IY+d),E` -/
  | res_3__iyd__e (d : Byte)
  /-- `RES 3,(IY+d),H` -/
  | res_3__iyd__h (d : Byte)
  /-- `RES 3,(IY+d),L` -/
  | res_3__iyd__l (d : Byte)
  /-- `RES 3,(IY+d)` -/
  | res_3__iyd (d : Byte)
  /-- `RES 3,(IY+d),A` -/
  | res_3__iyd__a (d : Byte)
  /-- `RES 4,(IY+d),B` -/
  | res_4__iyd__b (d : Byte)
  /-- `RES 4,(IY+d),C` -/
  | res_4__iyd__c (d : Byte)
  /-- `RES 4,(IY+d),D` -/
  | res_4__iyd__d (d : Byte)
  /-- `RES 4,(IY+d),E` -/
  | res_4__iyd__e (d : Byte)
  /-- `RES 4,(IY+d),H` -/
  | res_4__iyd__h (d : Byte)
  /-- `RES 4,(IY+d),L` -/
  | res_4__iyd__l (d : Byte)
  /-- `RES 4,(IY+d)` -/
  | res_4__iyd (d : Byte)
  /-- `RES 4,(IY+d),A` -/
  | res_4__iyd__a (d : Byte)
  /-- `RES 5,(IY+d),B` -/
  | res_5__iyd__b (d : Byte)
  /-- `RES 5,(IY+d),C` -/
  | res_5__iyd__c (d : Byte)
  /-- `RES 5,(IY+d),D` -/
  | res_5__iyd__d (d : Byte)
  /-- `RES 5,(IY+d),E` -/
  | res_5__iyd__e (d : Byte)
  /-- `RES 5,(IY+d),H` -/
  | res_5__iyd__h (d : Byte)
  /-- `RES 5,(IY+d),L` -/
  | res_5__iyd__l (d : Byte)
  /-- `RES 5,(IY+d)` -/
  | res_5__iyd (d : Byte)
  /-- `RES 5,(IY+d),A` -/
  | res_5__iyd__a (d : Byte)
  /-- `RES 6,(IY+d),B` -/
  | res_6__iyd__b (d : Byte)
  /-- `RES 6,(IY+d),C` -/
  | res_6__iyd__c (d : Byte)
  /-- `RES 6,(IY+d),D` -/
  | res_6__iyd__d (d : Byte)
  /-- `RES 6,(IY+d),E` -/
  | res_6__iyd__e (d : Byte)
  /-- `RES 6,(IY+d),H` -/
  | res_6__iyd__h (d : Byte)
  /-- `RES 6,(IY+d),L` -/
  | res_6__iyd__l (d : Byte)
  /-- `RES 6,(IY+d)` -/
  | res_6__iyd (d : Byte)
  /-- `RES 6,(IY+d),A` -/
  | res_6__iyd__a (d : Byte)
  /-- `RES 7,(IY+d),B` -/
  | res_7__iyd__b (d : Byte)
  /-- `RES 7,(IY+d),C` -/
  | res_7__iyd__c (d : Byte)
  /-- `RES 7,(IY+d),D` -/
  | res_7__iyd__d (d : Byte)
  /-- `RES 7,(IY+d),E` -/
  | res_7__iyd__e (d : Byte)
  /-- `RES 7,(IY+d),H` -/
  | res_7__iyd__h (d : Byte)
  /-- `RES 7,(IY+d),L` -/
  | res_7__iyd__l (d : Byte)
  /-- `RES 7,(IY+d)` -/
  | res_7__iyd (d : Byte)
  /-- `RES 7,(IY+d),A` -/
  | res_7__iyd__a (d : Byte)
  /-- `SET 0,(IY+d),B` -/
  | set_0__iyd__b (d : Byte)
  /-- `SET 0,(IY+d),C` -/
  | set_0__iyd__c (d : Byte)
  /-- `SET 0,(IY+d),D` -/
  | set_0__iyd__d (d : Byte)
  /-- `SET 0,(IY+d),E` -/
  | set_0__iyd__e (d : Byte)
  /-- `SET 0,(IY+d),H` -/
  | set_0__iyd__h (d : Byte)
  /-- `SET 0,(IY+d),L` -/
  | set_0__iyd__l (d : Byte)
  /-- `SET 0,(IY+d)` -/
  | set_0__iyd (d : Byte)
  /-- `SET 0,(IY+d),A` -/
  | set_0__iyd__a (d : Byte)
  /-- `SET 1,(IY+d),B` -/
  | set_1__iyd__b (d : Byte)
  /-- `SET 1,(IY+d),C` -/
  | set_1__iyd__c (d : Byte)
  /-- `SET 1,(IY+d),D` -/
  | set_1__iyd__d (d : Byte)
  /-- `SET 1,(IY+d),E` -/
  | set_1__iyd__e (d : Byte)
  /-- `SET 1,(IY+d),H` -/
  | set_1__iyd__h (d : Byte)
  /-- `SET 1,(IY+d),L` -/
  | set_1__iyd__l (d : Byte)
  /-- `SET 1,(IY+d)` -/
  | set_1__iyd (d : Byte)
  /-- `SET 1,(IY+d),A` -/
  | set_1__iyd__a (d : Byte)
  /-- `SET 2,(IY+d),B` -/
  | set_2__iyd__b (d : Byte)
  /-- `SET 2,(IY+d),C` -/
  | set_2__iyd__c (d : Byte)
  /-- `SET 2,(IY+d),D` -/
  | set_2__iyd__d (d : Byte)
  /-- `SET 2,(IY+d),E` -/
  | set_2__iyd__e (d : Byte)
  /-- `SET 2,(IY+d),H` -/
  | set_2__iyd__h (d : Byte)
  /-- `SET 2,(IY+d),L` -/
  | set_2__iyd__l (d : Byte)
  /-- `SET 2,(IY+d)` -/
  | set_2__iyd (d : Byte)
  /-- `SET 2,(IY+d),A` -/
  | set_2__iyd__a (d : Byte)
  /-- `SET 3,(IY+d),B` -/
  | set_3__iyd__b (d : Byte)
  /-- `SET 3,(IY+d),C` -/
  | set_3__iyd__c (d : Byte)
  /-- `SET 3,(IY+d),D` -/
  | set_3__iyd__d (d : Byte)
  /-- `SET 3,(IY+d),E` -/
  | set_3__iyd__e (d : Byte)
  /-- `SET 3,(IY+d),H` -/
  | set_3__iyd__h (d : Byte)
  /-- `SET 3,(IY+d),L` -/
  | set_3__iyd__l (d : Byte)
  /-- `SET 3,(IY+d)` -/
  | set_3__iyd (d : Byte)
  /-- `SET 3,(IY+d),A` -/
  | set_3__iyd__a (d : Byte)
  /-- `SET 4,(IY+d),B` -/
  | set_4__iyd__b (d : Byte)
  /-- `SET 4,(IY+d),C` -/
  | set_4__iyd__c (d : Byte)
  /-- `SET 4,(IY+d),D` -/
  | set_4__iyd__d (d : Byte)
  /-- `SET 4,(IY+d),E` -/
  | set_4__iyd__e (d : Byte)
  /-- `SET 4,(IY+d),H` -/
  | set_4__iyd__h (d : Byte)
  /-- `SET 4,(IY+d),L` -/
  | set_4__iyd__l (d : Byte)
  /-- `SET 4,(IY+d)` -/
  | set_4__iyd (d : Byte)
  /-- `SET 4,(IY+d),A` -/
  | set_4__iyd__a (d : Byte)
  /-- `SET 5,(IY+d),B` -/
  | set_5__iyd__b (d : Byte)
  /-- `SET 5,(IY+d),C` -/
  | set_5__iyd__c (d : Byte)
  /-- `SET 5,(IY+d),D` -/
  | set_5__iyd__d (d : Byte)
  /-- `SET 5,(IY+d),E` -/
  | set_5__iyd__e (d : Byte)
  /-- `SET 5,(IY+d),H` -/
  | set_5__iyd__h (d : Byte)
  /-- `SET 5,(IY+d),L` -/
  | set_5__iyd__l (d : Byte)
  /-- `SET 5,(IY+d)` -/
  | set_5__iyd (d : Byte)
  /-- `SET 5,(IY+d),A` -/
  | set_5__iyd__a (d : Byte)
  /-- `SET 6,(IY+d),B` -/
  | set_6__iyd__b (d : Byte)
  /-- `SET 6,(IY+d),C` -/
  | set_6__iyd__c (d : Byte)
  /-- `SET 6,(IY+d),D` -/
  | set_6__iyd__d (d : Byte)
  /-- `SET 6,(IY+d),E` -/
  | set_6__iyd__e (d : Byte)
  /-- `SET 6,(IY+d),H` -/
  | set_6__iyd__h (d : Byte)
  /-- `SET 6,(IY+d),L` -/
  | set_6__iyd__l (d : Byte)
  /-- `SET 6,(IY+d)` -/
  | set_6__iyd (d : Byte)
  /-- `SET 6,(IY+d),A` -/
  | set_6__iyd__a (d : Byte)
  /-- `SET 7,(IY+d),B` -/
  | set_7__iyd__b (d : Byte)
  /-- `SET 7,(IY+d),C` -/
  | set_7__iyd__c (d : Byte)
  /-- `SET 7,(IY+d),D` -/
  | set_7__iyd__d (d : Byte)
  /-- `SET 7,(IY+d),E` -/
  | set_7__iyd__e (d : Byte)
  /-- `SET 7,(IY+d),H` -/
  | set_7__iyd__h (d : Byte)
  /-- `SET 7,(IY+d),L` -/
  | set_7__iyd__l (d : Byte)
  /-- `SET 7,(IY+d)` -/
  | set_7__iyd (d : Byte)
  /-- `SET 7,(IY+d),A` -/
  | set_7__iyd__a (d : Byte)
deriving DecidableEq, Repr

end Sys2Proof
end

