-- ==== Sys2Proof/WellFormed.lean ====
section
/-! DEFINITION. Well-formed instructions. Every operand of `Instr` may take every value of its type,
but for the opcode byte of the six mnemonics that have duplicate ED encodings: the byte must be one
of theirs (R214, R261, R371, R667). -/

namespace Sys2Proof

/-- The ED opcodes of NEG (R667). -/
def negCodes : List Byte := [0x44#8, 0x4C#8, 0x54#8, 0x5C#8, 0x64#8, 0x6C#8, 0x74#8, 0x7C#8]
/-- The ED opcodes of RETN (R371). -/
def retnCodes : List Byte := [0x45#8, 0x55#8, 0x5D#8, 0x65#8, 0x6D#8, 0x75#8, 0x7D#8]
/-- The ED opcodes of IM 0 (R605). -/
def im0Codes : List Byte := [0x46#8, 0x4E#8, 0x66#8, 0x6E#8]
/-- The ED opcodes of IM 1 (R606). -/
def im1Codes : List Byte := [0x56#8, 0x76#8]
/-- The ED opcodes of IM 2 (R607). -/
def im2Codes : List Byte := [0x5E#8, 0x7E#8]
/-- Whether an ED opcode is one of the no-operations: 0x00 to 0x3F, 0x77, 0x7F, 0x80 to 0x9F, 0xA4
to 0xA7, 0xAC to 0xAF, 0xB4 to 0xB7, 0xBC to 0xFF (R608). -/
def nopCode (op : Byte) : Bool :=
  decide (op.toNat < 0x40) || op == 0x77#8 || op == 0x7F#8
    || (decide (0x80 ≤ op.toNat) && decide (op.toNat < 0xA0))
    || (decide (0xA4 ≤ op.toNat) && decide (op.toNat < 0xA8))
    || (decide (0xAC ≤ op.toNat) && decide (op.toNat < 0xB0))
    || (decide (0xB4 ≤ op.toNat) && decide (op.toNat < 0xB8))
    || decide (0xBC ≤ op.toNat)

/-- An instruction that some bytes encode. The last arm is every instruction whose operands are
free. -/
def Instr.wellFormed : Instr → Bool
  | .neg op => negCodes.contains op
  | .retn op => retnCodes.contains op
  | .im_0 op => im0Codes.contains op
  | .im_1 op => im1Codes.contains op
  | .im_2 op => im2Codes.contains op
  | .nop__ed op => nopCode op
  | _ => true

end Sys2Proof
end

