-- ==== Sys2Proof/Decode.lean ====
section
/-! DEFINITION. Decoding (30_encoding.md): the seven 256-entry tables of R201, laid out as the
opcode maps of R250 to R256 are, and the encoder that goes the other way. Decoding is total on any
bytes; the only thing it refuses is an instruction that is cut off. Lean's compiler builds no object
of a constructor beyond the 245th, so what makes an `Instr` is marked noncomputable; the kernel
evaluates all of it, and a step runs through the tables of Machine/RunTable.lean, which build no
`Instr` (log entry 20). -/

namespace Sys2Proof

/-! ## Words and bytes -/

/-- `hi:lo` from two operand bytes, low byte first (R205). -/
def wordOf (lo hi : Byte) : Word := hi ++ lo
/-- The low byte of an operand word. -/
def loByte (w : Word) : Byte := w.extractLsb' 0 8
/-- The high byte of an operand word. -/
def hiByte (w : Word) : Byte := w.extractLsb' 8 8

/-! ## The seven tables

A cell holds the length of the instruction (R203) and the instruction its operand bytes give. The
cells of the entries that go on with the dispatch (R232 to R236) give the row's own constructor. -/

/-- One entry of a table: its length, and the instruction as a function of the first two operand
bytes. -/
abbrev Cell := Nat × (Byte → Byte → Instr)

/-- An entry with no operand byte. -/
def imm0 (len : Nat) (i : Instr) : Cell := (len, fun _ _ => i)
/-- An entry with one operand byte: n, e or d (R204, R206, R207). -/
def imm1 (len : Nat) (f : Byte → Instr) : Cell := (len, fun a _ => f a)
/-- An entry with two operand bytes, d and then n (R408). -/
def imm2 (len : Nat) (f : Byte → Byte → Instr) : Cell := (len, f)
/-- An entry with an operand word, low byte first (R205). -/
def immW (len : Nat) (f : Word → Instr) : Cell := (len, fun a b => f (wordOf a b))

/-- Opcodes 0x00 to 0x0F of the base table (R250). -/
noncomputable def baseRow0 : List Cell :=
  [imm0 1 (.nop .none), immW 3 (.ld_bc_nn .none), imm0 1 (.ld__bc__a .none), imm0 1 (.inc_bc .none),
   imm0 1 (.inc_b .none), imm0 1 (.dec_b .none), imm1 2 (.ld_b_n .none), imm0 1 (.rlca .none),
   imm0 1 (.ex_af_af .none), imm0 1 .add_hl_bc, imm0 1 (.ld_a__bc .none), imm0 1 (.dec_bc .none),
   imm0 1 (.inc_c .none), imm0 1 (.dec_c .none), imm1 2 (.ld_c_n .none), imm0 1 (.rrca .none)]

/-- Opcodes 0x10 to 0x1F of the base table (R250). -/
noncomputable def baseRow1 : List Cell :=
  [imm1 2 (.djnz_e .none), immW 3 (.ld_de_nn .none), imm0 1 (.ld__de__a .none),
   imm0 1 (.inc_de .none), imm0 1 (.inc_d .none), imm0 1 (.dec_d .none), imm1 2 (.ld_d_n .none),
   imm0 1 (.rla .none), imm1 2 (.jr_e .none), imm0 1 .add_hl_de, imm0 1 (.ld_a__de .none),
   imm0 1 (.dec_de .none), imm0 1 (.inc_e .none), imm0 1 (.dec_e .none), imm1 2 (.ld_e_n .none),
   imm0 1 (.rra .none)]

/-- Opcodes 0x20 to 0x2F of the base table (R250). -/
noncomputable def baseRow2 : List Cell :=
  [imm1 2 (.jr_nz_e .none), immW 3 .ld_hl_nn, immW 3 .ld__nn__hl, imm0 1 .inc_hl, imm0 1 .inc_h,
   imm0 1 .dec_h, imm1 2 .ld_h_n, imm0 1 (.daa .none), imm1 2 (.jr_z_e .none), imm0 1 .add_hl_hl,
   immW 3 .ld_hl__nn, imm0 1 .dec_hl, imm0 1 .inc_l, imm0 1 .dec_l, imm1 2 .ld_l_n,
   imm0 1 (.cpl .none)]

/-- Opcodes 0x30 to 0x3F of the base table (R250). -/
noncomputable def baseRow3 : List Cell :=
  [imm1 2 (.jr_nc_e .none), immW 3 (.ld_sp_nn .none), immW 3 (.ld__nn__a .none),
   imm0 1 (.inc_sp .none), imm0 1 .inc__hl, imm0 1 .dec__hl, imm1 2 .ld__hl__n, imm0 1 (.scf .none),
   imm1 2 (.jr_c_e .none), imm0 1 .add_hl_sp, immW 3 (.ld_a__nn .none), imm0 1 (.dec_sp .none),
   imm0 1 (.inc_a .none), imm0 1 (.dec_a .none), imm1 2 (.ld_a_n .none), imm0 1 (.ccf .none)]

/-- Opcodes 0x40 to 0x4F of the base table (R250). -/
noncomputable def baseRow4 : List Cell :=
  [imm0 1 (.ld_b_b .none), imm0 1 (.ld_b_c .none), imm0 1 (.ld_b_d .none), imm0 1 (.ld_b_e .none),
   imm0 1 .ld_b_h, imm0 1 .ld_b_l, imm0 1 .ld_b__hl, imm0 1 (.ld_b_a .none), imm0 1 (.ld_c_b .none),
   imm0 1 (.ld_c_c .none), imm0 1 (.ld_c_d .none), imm0 1 (.ld_c_e .none), imm0 1 .ld_c_h,
   imm0 1 .ld_c_l, imm0 1 .ld_c__hl, imm0 1 (.ld_c_a .none)]

/-- Opcodes 0x50 to 0x5F of the base table (R250). -/
noncomputable def baseRow5 : List Cell :=
  [imm0 1 (.ld_d_b .none), imm0 1 (.ld_d_c .none), imm0 1 (.ld_d_d .none), imm0 1 (.ld_d_e .none),
   imm0 1 .ld_d_h, imm0 1 .ld_d_l, imm0 1 .ld_d__hl, imm0 1 (.ld_d_a .none), imm0 1 (.ld_e_b .none),
   imm0 1 (.ld_e_c .none), imm0 1 (.ld_e_d .none), imm0 1 (.ld_e_e .none), imm0 1 .ld_e_h,
   imm0 1 .ld_e_l, imm0 1 .ld_e__hl, imm0 1 (.ld_e_a .none)]

/-- Opcodes 0x60 to 0x6F of the base table (R250). -/
noncomputable def baseRow6 : List Cell :=
  [imm0 1 .ld_h_b, imm0 1 .ld_h_c, imm0 1 .ld_h_d, imm0 1 .ld_h_e, imm0 1 .ld_h_h, imm0 1 .ld_h_l,
   imm0 1 .ld_h__hl, imm0 1 .ld_h_a, imm0 1 .ld_l_b, imm0 1 .ld_l_c, imm0 1 .ld_l_d, imm0 1 .ld_l_e,
   imm0 1 .ld_l_h, imm0 1 .ld_l_l, imm0 1 .ld_l__hl, imm0 1 .ld_l_a]

/-- Opcodes 0x70 to 0x7F of the base table (R250). -/
noncomputable def baseRow7 : List Cell :=
  [imm0 1 .ld__hl__b, imm0 1 .ld__hl__c, imm0 1 .ld__hl__d, imm0 1 .ld__hl__e, imm0 1 .ld__hl__h,
   imm0 1 .ld__hl__l, imm0 1 (.halt .none), imm0 1 .ld__hl__a, imm0 1 (.ld_a_b .none),
   imm0 1 (.ld_a_c .none), imm0 1 (.ld_a_d .none), imm0 1 (.ld_a_e .none), imm0 1 .ld_a_h,
   imm0 1 .ld_a_l, imm0 1 .ld_a__hl, imm0 1 (.ld_a_a .none)]

/-- Opcodes 0x80 to 0x8F of the base table (R250). -/
noncomputable def baseRow8 : List Cell :=
  [imm0 1 (.add_a_b .none), imm0 1 (.add_a_c .none), imm0 1 (.add_a_d .none),
   imm0 1 (.add_a_e .none), imm0 1 .add_a_h, imm0 1 .add_a_l, imm0 1 .add_a__hl,
   imm0 1 (.add_a_a .none), imm0 1 (.adc_a_b .none), imm0 1 (.adc_a_c .none),
   imm0 1 (.adc_a_d .none), imm0 1 (.adc_a_e .none), imm0 1 .adc_a_h, imm0 1 .adc_a_l,
   imm0 1 .adc_a__hl, imm0 1 (.adc_a_a .none)]

/-- Opcodes 0x90 to 0x9F of the base table (R250). -/
noncomputable def baseRow9 : List Cell :=
  [imm0 1 (.sub_b .none), imm0 1 (.sub_c .none), imm0 1 (.sub_d .none), imm0 1 (.sub_e .none),
   imm0 1 .sub_h, imm0 1 .sub_l, imm0 1 .sub__hl, imm0 1 (.sub_a .none), imm0 1 (.sbc_a_b .none),
   imm0 1 (.sbc_a_c .none), imm0 1 (.sbc_a_d .none), imm0 1 (.sbc_a_e .none), imm0 1 .sbc_a_h,
   imm0 1 .sbc_a_l, imm0 1 .sbc_a__hl, imm0 1 (.sbc_a_a .none)]

/-- Opcodes 0xA0 to 0xAF of the base table (R250). -/
noncomputable def baseRowA : List Cell :=
  [imm0 1 (.and_b .none), imm0 1 (.and_c .none), imm0 1 (.and_d .none), imm0 1 (.and_e .none),
   imm0 1 .and_h, imm0 1 .and_l, imm0 1 .and__hl, imm0 1 (.and_a .none), imm0 1 (.xor_b .none),
   imm0 1 (.xor_c .none), imm0 1 (.xor_d .none), imm0 1 (.xor_e .none), imm0 1 .xor_h,
   imm0 1 .xor_l, imm0 1 .xor__hl, imm0 1 (.xor_a .none)]

/-- Opcodes 0xB0 to 0xBF of the base table (R250). -/
noncomputable def baseRowB : List Cell :=
  [imm0 1 (.or_b .none), imm0 1 (.or_c .none), imm0 1 (.or_d .none), imm0 1 (.or_e .none),
   imm0 1 .or_h, imm0 1 .or_l, imm0 1 .or__hl, imm0 1 (.or_a .none), imm0 1 (.cp_b .none),
   imm0 1 (.cp_c .none), imm0 1 (.cp_d .none), imm0 1 (.cp_e .none), imm0 1 .cp_h, imm0 1 .cp_l,
   imm0 1 .cp__hl, imm0 1 (.cp_a .none)]

/-- Opcodes 0xC0 to 0xCF of the base table (R250). -/
noncomputable def baseRowC : List Cell :=
  [imm0 1 (.ret_nz .none), imm0 1 (.pop_bc .none), immW 3 (.jp_nz_nn .none), immW 3 (.jp_nn .none),
   immW 3 (.call_nz_nn .none), imm0 1 (.push_bc .none), imm1 2 (.add_a_n .none),
   imm0 1 (.rst_00h .none), imm0 1 (.ret_z .none), imm0 1 (.ret .none), immW 3 (.jp_z_nn .none),
   imm0 1 .prefix_cb, immW 3 (.call_z_nn .none), immW 3 (.call_nn .none), imm1 2 (.adc_a_n .none),
   imm0 1 (.rst_08h .none)]

/-- Opcodes 0xD0 to 0xDF of the base table (R250). -/
noncomputable def baseRowD : List Cell :=
  [imm0 1 (.ret_nc .none), imm0 1 (.pop_de .none), immW 3 (.jp_nc_nn .none),
   imm1 2 (.out__n__a .none), immW 3 (.call_nc_nn .none), imm0 1 (.push_de .none),
   imm1 2 (.sub_n .none), imm0 1 (.rst_10h .none), imm0 1 (.ret_c .none), imm0 1 (.exx .none),
   immW 3 (.jp_c_nn .none), imm1 2 (.in_a__n .none), immW 3 (.call_c_nn .none), imm0 1 .prefix_dd,
   imm1 2 (.sbc_a_n .none), imm0 1 (.rst_18h .none)]

/-- Opcodes 0xE0 to 0xEF of the base table (R250). -/
noncomputable def baseRowE : List Cell :=
  [imm0 1 (.ret_po .none), imm0 1 .pop_hl, immW 3 (.jp_po_nn .none), imm0 1 .ex__sp__hl,
   immW 3 (.call_po_nn .none), imm0 1 .push_hl, imm1 2 (.and_n .none), imm0 1 (.rst_20h .none),
   imm0 1 (.ret_pe .none), imm0 1 .jp__hl, immW 3 (.jp_pe_nn .none), imm0 1 (.ex_de_hl .none),
   immW 3 (.call_pe_nn .none), imm0 1 .prefix_ed, imm1 2 (.xor_n .none), imm0 1 (.rst_28h .none)]

/-- Opcodes 0xF0 to 0xFF of the base table (R250). -/
noncomputable def baseRowF : List Cell :=
  [imm0 1 (.ret_p .none), imm0 1 (.pop_af .none), immW 3 (.jp_p_nn .none), imm0 1 (.di .none),
   immW 3 (.call_p_nn .none), imm0 1 (.push_af .none), imm1 2 (.or_n .none),
   imm0 1 (.rst_30h .none), imm0 1 (.ret_m .none), imm0 1 .ld_sp_hl, immW 3 (.jp_m_nn .none),
   imm0 1 (.ei .none), immW 3 (.call_m_nn .none), imm0 1 .prefix_fd, imm1 2 (.cp_n .none),
   imm0 1 (.rst_38h .none)]

/-- The base table (R201, R250). -/
noncomputable def baseTable : List (List Cell) :=
  [baseRow0, baseRow1, baseRow2, baseRow3, baseRow4, baseRow5, baseRow6, baseRow7,
   baseRow8, baseRow9, baseRowA, baseRowB, baseRowC, baseRowD, baseRowE, baseRowF]

/-- Opcodes 0x00 to 0x0F of the CB table (R251). -/
noncomputable def cbRow0 : List Cell :=
  [imm0 2 .rlc_b, imm0 2 .rlc_c, imm0 2 .rlc_d, imm0 2 .rlc_e, imm0 2 .rlc_h, imm0 2 .rlc_l,
   imm0 2 .rlc__hl, imm0 2 .rlc_a, imm0 2 .rrc_b, imm0 2 .rrc_c, imm0 2 .rrc_d, imm0 2 .rrc_e,
   imm0 2 .rrc_h, imm0 2 .rrc_l, imm0 2 .rrc__hl, imm0 2 .rrc_a]

/-- Opcodes 0x10 to 0x1F of the CB table (R251). -/
noncomputable def cbRow1 : List Cell :=
  [imm0 2 .rl_b, imm0 2 .rl_c, imm0 2 .rl_d, imm0 2 .rl_e, imm0 2 .rl_h, imm0 2 .rl_l,
   imm0 2 .rl__hl, imm0 2 .rl_a, imm0 2 .rr_b, imm0 2 .rr_c, imm0 2 .rr_d, imm0 2 .rr_e,
   imm0 2 .rr_h, imm0 2 .rr_l, imm0 2 .rr__hl, imm0 2 .rr_a]

/-- Opcodes 0x20 to 0x2F of the CB table (R251). -/
noncomputable def cbRow2 : List Cell :=
  [imm0 2 .sla_b, imm0 2 .sla_c, imm0 2 .sla_d, imm0 2 .sla_e, imm0 2 .sla_h, imm0 2 .sla_l,
   imm0 2 .sla__hl, imm0 2 .sla_a, imm0 2 .sra_b, imm0 2 .sra_c, imm0 2 .sra_d, imm0 2 .sra_e,
   imm0 2 .sra_h, imm0 2 .sra_l, imm0 2 .sra__hl, imm0 2 .sra_a]

/-- Opcodes 0x30 to 0x3F of the CB table (R251). -/
noncomputable def cbRow3 : List Cell :=
  [imm0 2 .sll_b, imm0 2 .sll_c, imm0 2 .sll_d, imm0 2 .sll_e, imm0 2 .sll_h, imm0 2 .sll_l,
   imm0 2 .sll__hl, imm0 2 .sll_a, imm0 2 .srl_b, imm0 2 .srl_c, imm0 2 .srl_d, imm0 2 .srl_e,
   imm0 2 .srl_h, imm0 2 .srl_l, imm0 2 .srl__hl, imm0 2 .srl_a]

/-- Opcodes 0x40 to 0x4F of the CB table (R251). -/
noncomputable def cbRow4 : List Cell :=
  [imm0 2 .bit_0_b, imm0 2 .bit_0_c, imm0 2 .bit_0_d, imm0 2 .bit_0_e, imm0 2 .bit_0_h,
   imm0 2 .bit_0_l, imm0 2 .bit_0__hl, imm0 2 .bit_0_a, imm0 2 .bit_1_b, imm0 2 .bit_1_c,
   imm0 2 .bit_1_d, imm0 2 .bit_1_e, imm0 2 .bit_1_h, imm0 2 .bit_1_l, imm0 2 .bit_1__hl,
   imm0 2 .bit_1_a]

/-- Opcodes 0x50 to 0x5F of the CB table (R251). -/
noncomputable def cbRow5 : List Cell :=
  [imm0 2 .bit_2_b, imm0 2 .bit_2_c, imm0 2 .bit_2_d, imm0 2 .bit_2_e, imm0 2 .bit_2_h,
   imm0 2 .bit_2_l, imm0 2 .bit_2__hl, imm0 2 .bit_2_a, imm0 2 .bit_3_b, imm0 2 .bit_3_c,
   imm0 2 .bit_3_d, imm0 2 .bit_3_e, imm0 2 .bit_3_h, imm0 2 .bit_3_l, imm0 2 .bit_3__hl,
   imm0 2 .bit_3_a]

/-- Opcodes 0x60 to 0x6F of the CB table (R251). -/
noncomputable def cbRow6 : List Cell :=
  [imm0 2 .bit_4_b, imm0 2 .bit_4_c, imm0 2 .bit_4_d, imm0 2 .bit_4_e, imm0 2 .bit_4_h,
   imm0 2 .bit_4_l, imm0 2 .bit_4__hl, imm0 2 .bit_4_a, imm0 2 .bit_5_b, imm0 2 .bit_5_c,
   imm0 2 .bit_5_d, imm0 2 .bit_5_e, imm0 2 .bit_5_h, imm0 2 .bit_5_l, imm0 2 .bit_5__hl,
   imm0 2 .bit_5_a]

/-- Opcodes 0x70 to 0x7F of the CB table (R251). -/
noncomputable def cbRow7 : List Cell :=
  [imm0 2 .bit_6_b, imm0 2 .bit_6_c, imm0 2 .bit_6_d, imm0 2 .bit_6_e, imm0 2 .bit_6_h,
   imm0 2 .bit_6_l, imm0 2 .bit_6__hl, imm0 2 .bit_6_a, imm0 2 .bit_7_b, imm0 2 .bit_7_c,
   imm0 2 .bit_7_d, imm0 2 .bit_7_e, imm0 2 .bit_7_h, imm0 2 .bit_7_l, imm0 2 .bit_7__hl,
   imm0 2 .bit_7_a]

/-- Opcodes 0x80 to 0x8F of the CB table (R251). -/
noncomputable def cbRow8 : List Cell :=
  [imm0 2 .res_0_b, imm0 2 .res_0_c, imm0 2 .res_0_d, imm0 2 .res_0_e, imm0 2 .res_0_h,
   imm0 2 .res_0_l, imm0 2 .res_0__hl, imm0 2 .res_0_a, imm0 2 .res_1_b, imm0 2 .res_1_c,
   imm0 2 .res_1_d, imm0 2 .res_1_e, imm0 2 .res_1_h, imm0 2 .res_1_l, imm0 2 .res_1__hl,
   imm0 2 .res_1_a]

/-- Opcodes 0x90 to 0x9F of the CB table (R251). -/
noncomputable def cbRow9 : List Cell :=
  [imm0 2 .res_2_b, imm0 2 .res_2_c, imm0 2 .res_2_d, imm0 2 .res_2_e, imm0 2 .res_2_h,
   imm0 2 .res_2_l, imm0 2 .res_2__hl, imm0 2 .res_2_a, imm0 2 .res_3_b, imm0 2 .res_3_c,
   imm0 2 .res_3_d, imm0 2 .res_3_e, imm0 2 .res_3_h, imm0 2 .res_3_l, imm0 2 .res_3__hl,
   imm0 2 .res_3_a]

/-- Opcodes 0xA0 to 0xAF of the CB table (R251). -/
noncomputable def cbRowA : List Cell :=
  [imm0 2 .res_4_b, imm0 2 .res_4_c, imm0 2 .res_4_d, imm0 2 .res_4_e, imm0 2 .res_4_h,
   imm0 2 .res_4_l, imm0 2 .res_4__hl, imm0 2 .res_4_a, imm0 2 .res_5_b, imm0 2 .res_5_c,
   imm0 2 .res_5_d, imm0 2 .res_5_e, imm0 2 .res_5_h, imm0 2 .res_5_l, imm0 2 .res_5__hl,
   imm0 2 .res_5_a]

/-- Opcodes 0xB0 to 0xBF of the CB table (R251). -/
noncomputable def cbRowB : List Cell :=
  [imm0 2 .res_6_b, imm0 2 .res_6_c, imm0 2 .res_6_d, imm0 2 .res_6_e, imm0 2 .res_6_h,
   imm0 2 .res_6_l, imm0 2 .res_6__hl, imm0 2 .res_6_a, imm0 2 .res_7_b, imm0 2 .res_7_c,
   imm0 2 .res_7_d, imm0 2 .res_7_e, imm0 2 .res_7_h, imm0 2 .res_7_l, imm0 2 .res_7__hl,
   imm0 2 .res_7_a]

/-- Opcodes 0xC0 to 0xCF of the CB table (R251). -/
noncomputable def cbRowC : List Cell :=
  [imm0 2 .set_0_b, imm0 2 .set_0_c, imm0 2 .set_0_d, imm0 2 .set_0_e, imm0 2 .set_0_h,
   imm0 2 .set_0_l, imm0 2 .set_0__hl, imm0 2 .set_0_a, imm0 2 .set_1_b, imm0 2 .set_1_c,
   imm0 2 .set_1_d, imm0 2 .set_1_e, imm0 2 .set_1_h, imm0 2 .set_1_l, imm0 2 .set_1__hl,
   imm0 2 .set_1_a]

/-- Opcodes 0xD0 to 0xDF of the CB table (R251). -/
noncomputable def cbRowD : List Cell :=
  [imm0 2 .set_2_b, imm0 2 .set_2_c, imm0 2 .set_2_d, imm0 2 .set_2_e, imm0 2 .set_2_h,
   imm0 2 .set_2_l, imm0 2 .set_2__hl, imm0 2 .set_2_a, imm0 2 .set_3_b, imm0 2 .set_3_c,
   imm0 2 .set_3_d, imm0 2 .set_3_e, imm0 2 .set_3_h, imm0 2 .set_3_l, imm0 2 .set_3__hl,
   imm0 2 .set_3_a]

/-- Opcodes 0xE0 to 0xEF of the CB table (R251). -/
noncomputable def cbRowE : List Cell :=
  [imm0 2 .set_4_b, imm0 2 .set_4_c, imm0 2 .set_4_d, imm0 2 .set_4_e, imm0 2 .set_4_h,
   imm0 2 .set_4_l, imm0 2 .set_4__hl, imm0 2 .set_4_a, imm0 2 .set_5_b, imm0 2 .set_5_c,
   imm0 2 .set_5_d, imm0 2 .set_5_e, imm0 2 .set_5_h, imm0 2 .set_5_l, imm0 2 .set_5__hl,
   imm0 2 .set_5_a]

/-- Opcodes 0xF0 to 0xFF of the CB table (R251). -/
noncomputable def cbRowF : List Cell :=
  [imm0 2 .set_6_b, imm0 2 .set_6_c, imm0 2 .set_6_d, imm0 2 .set_6_e, imm0 2 .set_6_h,
   imm0 2 .set_6_l, imm0 2 .set_6__hl, imm0 2 .set_6_a, imm0 2 .set_7_b, imm0 2 .set_7_c,
   imm0 2 .set_7_d, imm0 2 .set_7_e, imm0 2 .set_7_h, imm0 2 .set_7_l, imm0 2 .set_7__hl,
   imm0 2 .set_7_a]

/-- The CB table (R201, R251). -/
noncomputable def cbTable : List (List Cell) :=
  [cbRow0, cbRow1, cbRow2, cbRow3, cbRow4, cbRow5, cbRow6, cbRow7,
   cbRow8, cbRow9, cbRowA, cbRowB, cbRowC, cbRowD, cbRowE, cbRowF]

/-- Opcodes 0x00 to 0x0F of the ED table (R252). -/
noncomputable def edRow0 : List Cell :=
  [imm0 2 (.nop__ed 0x00#8), imm0 2 (.nop__ed 0x01#8), imm0 2 (.nop__ed 0x02#8),
   imm0 2 (.nop__ed 0x03#8), imm0 2 (.nop__ed 0x04#8), imm0 2 (.nop__ed 0x05#8),
   imm0 2 (.nop__ed 0x06#8), imm0 2 (.nop__ed 0x07#8), imm0 2 (.nop__ed 0x08#8),
   imm0 2 (.nop__ed 0x09#8), imm0 2 (.nop__ed 0x0A#8), imm0 2 (.nop__ed 0x0B#8),
   imm0 2 (.nop__ed 0x0C#8), imm0 2 (.nop__ed 0x0D#8), imm0 2 (.nop__ed 0x0E#8),
   imm0 2 (.nop__ed 0x0F#8)]

/-- Opcodes 0x10 to 0x1F of the ED table (R252). -/
noncomputable def edRow1 : List Cell :=
  [imm0 2 (.nop__ed 0x10#8), imm0 2 (.nop__ed 0x11#8), imm0 2 (.nop__ed 0x12#8),
   imm0 2 (.nop__ed 0x13#8), imm0 2 (.nop__ed 0x14#8), imm0 2 (.nop__ed 0x15#8),
   imm0 2 (.nop__ed 0x16#8), imm0 2 (.nop__ed 0x17#8), imm0 2 (.nop__ed 0x18#8),
   imm0 2 (.nop__ed 0x19#8), imm0 2 (.nop__ed 0x1A#8), imm0 2 (.nop__ed 0x1B#8),
   imm0 2 (.nop__ed 0x1C#8), imm0 2 (.nop__ed 0x1D#8), imm0 2 (.nop__ed 0x1E#8),
   imm0 2 (.nop__ed 0x1F#8)]

/-- Opcodes 0x20 to 0x2F of the ED table (R252). -/
noncomputable def edRow2 : List Cell :=
  [imm0 2 (.nop__ed 0x20#8), imm0 2 (.nop__ed 0x21#8), imm0 2 (.nop__ed 0x22#8),
   imm0 2 (.nop__ed 0x23#8), imm0 2 (.nop__ed 0x24#8), imm0 2 (.nop__ed 0x25#8),
   imm0 2 (.nop__ed 0x26#8), imm0 2 (.nop__ed 0x27#8), imm0 2 (.nop__ed 0x28#8),
   imm0 2 (.nop__ed 0x29#8), imm0 2 (.nop__ed 0x2A#8), imm0 2 (.nop__ed 0x2B#8),
   imm0 2 (.nop__ed 0x2C#8), imm0 2 (.nop__ed 0x2D#8), imm0 2 (.nop__ed 0x2E#8),
   imm0 2 (.nop__ed 0x2F#8)]

/-- Opcodes 0x30 to 0x3F of the ED table (R252). -/
noncomputable def edRow3 : List Cell :=
  [imm0 2 (.nop__ed 0x30#8), imm0 2 (.nop__ed 0x31#8), imm0 2 (.nop__ed 0x32#8),
   imm0 2 (.nop__ed 0x33#8), imm0 2 (.nop__ed 0x34#8), imm0 2 (.nop__ed 0x35#8),
   imm0 2 (.nop__ed 0x36#8), imm0 2 (.nop__ed 0x37#8), imm0 2 (.nop__ed 0x38#8),
   imm0 2 (.nop__ed 0x39#8), imm0 2 (.nop__ed 0x3A#8), imm0 2 (.nop__ed 0x3B#8),
   imm0 2 (.nop__ed 0x3C#8), imm0 2 (.nop__ed 0x3D#8), imm0 2 (.nop__ed 0x3E#8),
   imm0 2 (.nop__ed 0x3F#8)]

/-- Opcodes 0x40 to 0x4F of the ED table (R252). -/
noncomputable def edRow4 : List Cell :=
  [imm0 2 .in_b__c, imm0 2 .out__c__b, imm0 2 .sbc_hl_bc, immW 4 .ld__nn__bc, imm0 2 (.neg 0x44#8),
   imm0 2 (.retn 0x45#8), imm0 2 (.im_0 0x46#8), imm0 2 .ld_i_a, imm0 2 .in_c__c, imm0 2 .out__c__c,
   imm0 2 .adc_hl_bc, immW 4 .ld_bc__nn, imm0 2 (.neg 0x4C#8), imm0 2 .reti, imm0 2 (.im_0 0x4E#8),
   imm0 2 .ld_r_a]

/-- Opcodes 0x50 to 0x5F of the ED table (R252). -/
noncomputable def edRow5 : List Cell :=
  [imm0 2 .in_d__c, imm0 2 .out__c__d, imm0 2 .sbc_hl_de, immW 4 .ld__nn__de, imm0 2 (.neg 0x54#8),
   imm0 2 (.retn 0x55#8), imm0 2 (.im_1 0x56#8), imm0 2 .ld_a_i, imm0 2 .in_e__c, imm0 2 .out__c__e,
   imm0 2 .adc_hl_de, immW 4 .ld_de__nn, imm0 2 (.neg 0x5C#8), imm0 2 (.retn 0x5D#8),
   imm0 2 (.im_2 0x5E#8), imm0 2 .ld_a_r]

/-- Opcodes 0x60 to 0x6F of the ED table (R252). -/
noncomputable def edRow6 : List Cell :=
  [imm0 2 .in_h__c, imm0 2 .out__c__h, imm0 2 .sbc_hl_hl, immW 4 .ld__nn__hl_ed,
   imm0 2 (.neg 0x64#8), imm0 2 (.retn 0x65#8), imm0 2 (.im_0 0x66#8), imm0 2 .rrd, imm0 2 .in_l__c,
   imm0 2 .out__c__l, imm0 2 .adc_hl_hl, immW 4 .ld_hl__nn_ed, imm0 2 (.neg 0x6C#8),
   imm0 2 (.retn 0x6D#8), imm0 2 (.im_0 0x6E#8), imm0 2 .rld]

/-- Opcodes 0x70 to 0x7F of the ED table (R252). -/
noncomputable def edRow7 : List Cell :=
  [imm0 2 .in_f__c, imm0 2 .out__c__0, imm0 2 .sbc_hl_sp, immW 4 .ld__nn__sp, imm0 2 (.neg 0x74#8),
   imm0 2 (.retn 0x75#8), imm0 2 (.im_1 0x76#8), imm0 2 (.nop__ed 0x77#8), imm0 2 .in_a__c,
   imm0 2 .out__c__a, imm0 2 .adc_hl_sp, immW 4 .ld_sp__nn, imm0 2 (.neg 0x7C#8),
   imm0 2 (.retn 0x7D#8), imm0 2 (.im_2 0x7E#8), imm0 2 (.nop__ed 0x7F#8)]

/-- Opcodes 0x80 to 0x8F of the ED table (R252). -/
noncomputable def edRow8 : List Cell :=
  [imm0 2 (.nop__ed 0x80#8), imm0 2 (.nop__ed 0x81#8), imm0 2 (.nop__ed 0x82#8),
   imm0 2 (.nop__ed 0x83#8), imm0 2 (.nop__ed 0x84#8), imm0 2 (.nop__ed 0x85#8),
   imm0 2 (.nop__ed 0x86#8), imm0 2 (.nop__ed 0x87#8), imm0 2 (.nop__ed 0x88#8),
   imm0 2 (.nop__ed 0x89#8), imm0 2 (.nop__ed 0x8A#8), imm0 2 (.nop__ed 0x8B#8),
   imm0 2 (.nop__ed 0x8C#8), imm0 2 (.nop__ed 0x8D#8), imm0 2 (.nop__ed 0x8E#8),
   imm0 2 (.nop__ed 0x8F#8)]

/-- Opcodes 0x90 to 0x9F of the ED table (R252). -/
noncomputable def edRow9 : List Cell :=
  [imm0 2 (.nop__ed 0x90#8), imm0 2 (.nop__ed 0x91#8), imm0 2 (.nop__ed 0x92#8),
   imm0 2 (.nop__ed 0x93#8), imm0 2 (.nop__ed 0x94#8), imm0 2 (.nop__ed 0x95#8),
   imm0 2 (.nop__ed 0x96#8), imm0 2 (.nop__ed 0x97#8), imm0 2 (.nop__ed 0x98#8),
   imm0 2 (.nop__ed 0x99#8), imm0 2 (.nop__ed 0x9A#8), imm0 2 (.nop__ed 0x9B#8),
   imm0 2 (.nop__ed 0x9C#8), imm0 2 (.nop__ed 0x9D#8), imm0 2 (.nop__ed 0x9E#8),
   imm0 2 (.nop__ed 0x9F#8)]

/-- Opcodes 0xA0 to 0xAF of the ED table (R252). -/
noncomputable def edRowA : List Cell :=
  [imm0 2 .ldi, imm0 2 .cpi, imm0 2 .ini, imm0 2 .outi, imm0 2 (.nop__ed 0xA4#8),
   imm0 2 (.nop__ed 0xA5#8), imm0 2 (.nop__ed 0xA6#8), imm0 2 (.nop__ed 0xA7#8), imm0 2 .ldd,
   imm0 2 .cpd, imm0 2 .ind, imm0 2 .outd, imm0 2 (.nop__ed 0xAC#8), imm0 2 (.nop__ed 0xAD#8),
   imm0 2 (.nop__ed 0xAE#8), imm0 2 (.nop__ed 0xAF#8)]

/-- Opcodes 0xB0 to 0xBF of the ED table (R252). -/
noncomputable def edRowB : List Cell :=
  [imm0 2 .ldir, imm0 2 .cpir, imm0 2 .inir, imm0 2 .otir, imm0 2 (.nop__ed 0xB4#8),
   imm0 2 (.nop__ed 0xB5#8), imm0 2 (.nop__ed 0xB6#8), imm0 2 (.nop__ed 0xB7#8), imm0 2 .lddr,
   imm0 2 .cpdr, imm0 2 .indr, imm0 2 .otdr, imm0 2 (.nop__ed 0xBC#8), imm0 2 (.nop__ed 0xBD#8),
   imm0 2 (.nop__ed 0xBE#8), imm0 2 (.nop__ed 0xBF#8)]

/-- Opcodes 0xC0 to 0xCF of the ED table (R252). -/
noncomputable def edRowC : List Cell :=
  [imm0 2 (.nop__ed 0xC0#8), imm0 2 (.nop__ed 0xC1#8), imm0 2 (.nop__ed 0xC2#8),
   imm0 2 (.nop__ed 0xC3#8), imm0 2 (.nop__ed 0xC4#8), imm0 2 (.nop__ed 0xC5#8),
   imm0 2 (.nop__ed 0xC6#8), imm0 2 (.nop__ed 0xC7#8), imm0 2 (.nop__ed 0xC8#8),
   imm0 2 (.nop__ed 0xC9#8), imm0 2 (.nop__ed 0xCA#8), imm0 2 (.nop__ed 0xCB#8),
   imm0 2 (.nop__ed 0xCC#8), imm0 2 (.nop__ed 0xCD#8), imm0 2 (.nop__ed 0xCE#8),
   imm0 2 (.nop__ed 0xCF#8)]

/-- Opcodes 0xD0 to 0xDF of the ED table (R252). -/
noncomputable def edRowD : List Cell :=
  [imm0 2 (.nop__ed 0xD0#8), imm0 2 (.nop__ed 0xD1#8), imm0 2 (.nop__ed 0xD2#8),
   imm0 2 (.nop__ed 0xD3#8), imm0 2 (.nop__ed 0xD4#8), imm0 2 (.nop__ed 0xD5#8),
   imm0 2 (.nop__ed 0xD6#8), imm0 2 (.nop__ed 0xD7#8), imm0 2 (.nop__ed 0xD8#8),
   imm0 2 (.nop__ed 0xD9#8), imm0 2 (.nop__ed 0xDA#8), imm0 2 (.nop__ed 0xDB#8),
   imm0 2 (.nop__ed 0xDC#8), imm0 2 (.nop__ed 0xDD#8), imm0 2 (.nop__ed 0xDE#8),
   imm0 2 (.nop__ed 0xDF#8)]

/-- Opcodes 0xE0 to 0xEF of the ED table (R252). -/
noncomputable def edRowE : List Cell :=
  [imm0 2 (.nop__ed 0xE0#8), imm0 2 (.nop__ed 0xE1#8), imm0 2 (.nop__ed 0xE2#8),
   imm0 2 (.nop__ed 0xE3#8), imm0 2 (.nop__ed 0xE4#8), imm0 2 (.nop__ed 0xE5#8),
   imm0 2 (.nop__ed 0xE6#8), imm0 2 (.nop__ed 0xE7#8), imm0 2 (.nop__ed 0xE8#8),
   imm0 2 (.nop__ed 0xE9#8), imm0 2 (.nop__ed 0xEA#8), imm0 2 (.nop__ed 0xEB#8),
   imm0 2 (.nop__ed 0xEC#8), imm0 2 (.nop__ed 0xED#8), imm0 2 (.nop__ed 0xEE#8),
   imm0 2 (.nop__ed 0xEF#8)]

/-- Opcodes 0xF0 to 0xFF of the ED table (R252). -/
noncomputable def edRowF : List Cell :=
  [imm0 2 (.nop__ed 0xF0#8), imm0 2 (.nop__ed 0xF1#8), imm0 2 (.nop__ed 0xF2#8),
   imm0 2 (.nop__ed 0xF3#8), imm0 2 (.nop__ed 0xF4#8), imm0 2 (.nop__ed 0xF5#8),
   imm0 2 (.nop__ed 0xF6#8), imm0 2 (.nop__ed 0xF7#8), imm0 2 (.nop__ed 0xF8#8),
   imm0 2 (.nop__ed 0xF9#8), imm0 2 (.nop__ed 0xFA#8), imm0 2 (.nop__ed 0xFB#8),
   imm0 2 (.nop__ed 0xFC#8), imm0 2 (.nop__ed 0xFD#8), imm0 2 (.nop__ed 0xFE#8),
   imm0 2 (.nop__ed 0xFF#8)]

/-- The ED table (R201, R252). -/
noncomputable def edTable : List (List Cell) :=
  [edRow0, edRow1, edRow2, edRow3, edRow4, edRow5, edRow6, edRow7,
   edRow8, edRow9, edRowA, edRowB, edRowC, edRowD, edRowE, edRowF]

/-- Opcodes 0x00 to 0x0F of the DD table (R253). -/
noncomputable def ddRow0 : List Cell :=
  [imm0 2 (.nop .dd), immW 4 (.ld_bc_nn .dd), imm0 2 (.ld__bc__a .dd), imm0 2 (.inc_bc .dd),
   imm0 2 (.inc_b .dd), imm0 2 (.dec_b .dd), imm1 3 (.ld_b_n .dd), imm0 2 (.rlca .dd),
   imm0 2 (.ex_af_af .dd), imm0 2 .add_ix_bc, imm0 2 (.ld_a__bc .dd), imm0 2 (.dec_bc .dd),
   imm0 2 (.inc_c .dd), imm0 2 (.dec_c .dd), imm1 3 (.ld_c_n .dd), imm0 2 (.rrca .dd)]

/-- Opcodes 0x10 to 0x1F of the DD table (R253). -/
noncomputable def ddRow1 : List Cell :=
  [imm1 3 (.djnz_e .dd), immW 4 (.ld_de_nn .dd), imm0 2 (.ld__de__a .dd), imm0 2 (.inc_de .dd),
   imm0 2 (.inc_d .dd), imm0 2 (.dec_d .dd), imm1 3 (.ld_d_n .dd), imm0 2 (.rla .dd),
   imm1 3 (.jr_e .dd), imm0 2 .add_ix_de, imm0 2 (.ld_a__de .dd), imm0 2 (.dec_de .dd),
   imm0 2 (.inc_e .dd), imm0 2 (.dec_e .dd), imm1 3 (.ld_e_n .dd), imm0 2 (.rra .dd)]

/-- Opcodes 0x20 to 0x2F of the DD table (R253). -/
noncomputable def ddRow2 : List Cell :=
  [imm1 3 (.jr_nz_e .dd), immW 4 .ld_ix_nn, immW 4 .ld__nn__ix, imm0 2 .inc_ix, imm0 2 .inc_ixh,
   imm0 2 .dec_ixh, imm1 3 .ld_ixh_n, imm0 2 (.daa .dd), imm1 3 (.jr_z_e .dd), imm0 2 .add_ix_ix,
   immW 4 .ld_ix__nn, imm0 2 .dec_ix, imm0 2 .inc_ixl, imm0 2 .dec_ixl, imm1 3 .ld_ixl_n,
   imm0 2 (.cpl .dd)]

/-- Opcodes 0x30 to 0x3F of the DD table (R253). -/
noncomputable def ddRow3 : List Cell :=
  [imm1 3 (.jr_nc_e .dd), immW 4 (.ld_sp_nn .dd), immW 4 (.ld__nn__a .dd), imm0 2 (.inc_sp .dd),
   imm1 3 .inc__ixd, imm1 3 .dec__ixd, imm2 4 .ld__ixd__n, imm0 2 (.scf .dd), imm1 3 (.jr_c_e .dd),
   imm0 2 .add_ix_sp, immW 4 (.ld_a__nn .dd), imm0 2 (.dec_sp .dd), imm0 2 (.inc_a .dd),
   imm0 2 (.dec_a .dd), imm1 3 (.ld_a_n .dd), imm0 2 (.ccf .dd)]

/-- Opcodes 0x40 to 0x4F of the DD table (R253). -/
noncomputable def ddRow4 : List Cell :=
  [imm0 2 (.ld_b_b .dd), imm0 2 (.ld_b_c .dd), imm0 2 (.ld_b_d .dd), imm0 2 (.ld_b_e .dd),
   imm0 2 .ld_b_ixh, imm0 2 .ld_b_ixl, imm1 3 .ld_b__ixd, imm0 2 (.ld_b_a .dd),
   imm0 2 (.ld_c_b .dd), imm0 2 (.ld_c_c .dd), imm0 2 (.ld_c_d .dd), imm0 2 (.ld_c_e .dd),
   imm0 2 .ld_c_ixh, imm0 2 .ld_c_ixl, imm1 3 .ld_c__ixd, imm0 2 (.ld_c_a .dd)]

/-- Opcodes 0x50 to 0x5F of the DD table (R253). -/
noncomputable def ddRow5 : List Cell :=
  [imm0 2 (.ld_d_b .dd), imm0 2 (.ld_d_c .dd), imm0 2 (.ld_d_d .dd), imm0 2 (.ld_d_e .dd),
   imm0 2 .ld_d_ixh, imm0 2 .ld_d_ixl, imm1 3 .ld_d__ixd, imm0 2 (.ld_d_a .dd),
   imm0 2 (.ld_e_b .dd), imm0 2 (.ld_e_c .dd), imm0 2 (.ld_e_d .dd), imm0 2 (.ld_e_e .dd),
   imm0 2 .ld_e_ixh, imm0 2 .ld_e_ixl, imm1 3 .ld_e__ixd, imm0 2 (.ld_e_a .dd)]

/-- Opcodes 0x60 to 0x6F of the DD table (R253). -/
noncomputable def ddRow6 : List Cell :=
  [imm0 2 .ld_ixh_b, imm0 2 .ld_ixh_c, imm0 2 .ld_ixh_d, imm0 2 .ld_ixh_e, imm0 2 .ld_ixh_ixh,
   imm0 2 .ld_ixh_ixl, imm1 3 .ld_h__ixd, imm0 2 .ld_ixh_a, imm0 2 .ld_ixl_b, imm0 2 .ld_ixl_c,
   imm0 2 .ld_ixl_d, imm0 2 .ld_ixl_e, imm0 2 .ld_ixl_ixh, imm0 2 .ld_ixl_ixl, imm1 3 .ld_l__ixd,
   imm0 2 .ld_ixl_a]

/-- Opcodes 0x70 to 0x7F of the DD table (R253). -/
noncomputable def ddRow7 : List Cell :=
  [imm1 3 .ld__ixd__b, imm1 3 .ld__ixd__c, imm1 3 .ld__ixd__d, imm1 3 .ld__ixd__e,
   imm1 3 .ld__ixd__h, imm1 3 .ld__ixd__l, imm0 2 (.halt .dd), imm1 3 .ld__ixd__a,
   imm0 2 (.ld_a_b .dd), imm0 2 (.ld_a_c .dd), imm0 2 (.ld_a_d .dd), imm0 2 (.ld_a_e .dd),
   imm0 2 .ld_a_ixh, imm0 2 .ld_a_ixl, imm1 3 .ld_a__ixd, imm0 2 (.ld_a_a .dd)]

/-- Opcodes 0x80 to 0x8F of the DD table (R253). -/
noncomputable def ddRow8 : List Cell :=
  [imm0 2 (.add_a_b .dd), imm0 2 (.add_a_c .dd), imm0 2 (.add_a_d .dd), imm0 2 (.add_a_e .dd),
   imm0 2 .add_a_ixh, imm0 2 .add_a_ixl, imm1 3 .add_a__ixd, imm0 2 (.add_a_a .dd),
   imm0 2 (.adc_a_b .dd), imm0 2 (.adc_a_c .dd), imm0 2 (.adc_a_d .dd), imm0 2 (.adc_a_e .dd),
   imm0 2 .adc_a_ixh, imm0 2 .adc_a_ixl, imm1 3 .adc_a__ixd, imm0 2 (.adc_a_a .dd)]

/-- Opcodes 0x90 to 0x9F of the DD table (R253). -/
noncomputable def ddRow9 : List Cell :=
  [imm0 2 (.sub_b .dd), imm0 2 (.sub_c .dd), imm0 2 (.sub_d .dd), imm0 2 (.sub_e .dd),
   imm0 2 .sub_ixh, imm0 2 .sub_ixl, imm1 3 .sub__ixd, imm0 2 (.sub_a .dd), imm0 2 (.sbc_a_b .dd),
   imm0 2 (.sbc_a_c .dd), imm0 2 (.sbc_a_d .dd), imm0 2 (.sbc_a_e .dd), imm0 2 .sbc_a_ixh,
   imm0 2 .sbc_a_ixl, imm1 3 .sbc_a__ixd, imm0 2 (.sbc_a_a .dd)]

/-- Opcodes 0xA0 to 0xAF of the DD table (R253). -/
noncomputable def ddRowA : List Cell :=
  [imm0 2 (.and_b .dd), imm0 2 (.and_c .dd), imm0 2 (.and_d .dd), imm0 2 (.and_e .dd),
   imm0 2 .and_ixh, imm0 2 .and_ixl, imm1 3 .and__ixd, imm0 2 (.and_a .dd), imm0 2 (.xor_b .dd),
   imm0 2 (.xor_c .dd), imm0 2 (.xor_d .dd), imm0 2 (.xor_e .dd), imm0 2 .xor_ixh, imm0 2 .xor_ixl,
   imm1 3 .xor__ixd, imm0 2 (.xor_a .dd)]

/-- Opcodes 0xB0 to 0xBF of the DD table (R253). -/
noncomputable def ddRowB : List Cell :=
  [imm0 2 (.or_b .dd), imm0 2 (.or_c .dd), imm0 2 (.or_d .dd), imm0 2 (.or_e .dd), imm0 2 .or_ixh,
   imm0 2 .or_ixl, imm1 3 .or__ixd, imm0 2 (.or_a .dd), imm0 2 (.cp_b .dd), imm0 2 (.cp_c .dd),
   imm0 2 (.cp_d .dd), imm0 2 (.cp_e .dd), imm0 2 .cp_ixh, imm0 2 .cp_ixl, imm1 3 .cp__ixd,
   imm0 2 (.cp_a .dd)]

/-- Opcodes 0xC0 to 0xCF of the DD table (R253). -/
noncomputable def ddRowC : List Cell :=
  [imm0 2 (.ret_nz .dd), imm0 2 (.pop_bc .dd), immW 4 (.jp_nz_nn .dd), immW 4 (.jp_nn .dd),
   immW 4 (.call_nz_nn .dd), imm0 2 (.push_bc .dd), imm1 3 (.add_a_n .dd), imm0 2 (.rst_00h .dd),
   imm0 2 (.ret_z .dd), imm0 2 (.ret .dd), immW 4 (.jp_z_nn .dd), imm0 2 .prefix_ddcb,
   immW 4 (.call_z_nn .dd), immW 4 (.call_nn .dd), imm1 3 (.adc_a_n .dd), imm0 2 (.rst_08h .dd)]

/-- Opcodes 0xD0 to 0xDF of the DD table (R253). -/
noncomputable def ddRowD : List Cell :=
  [imm0 2 (.ret_nc .dd), imm0 2 (.pop_de .dd), immW 4 (.jp_nc_nn .dd), imm1 3 (.out__n__a .dd),
   immW 4 (.call_nc_nn .dd), imm0 2 (.push_de .dd), imm1 3 (.sub_n .dd), imm0 2 (.rst_10h .dd),
   imm0 2 (.ret_c .dd), imm0 2 (.exx .dd), immW 4 (.jp_c_nn .dd), imm1 3 (.in_a__n .dd),
   immW 4 (.call_c_nn .dd), imm0 2 (.prefix_dd__supersedes .ix), imm1 3 (.sbc_a_n .dd),
   imm0 2 (.rst_18h .dd)]

/-- Opcodes 0xE0 to 0xEF of the DD table (R253). -/
noncomputable def ddRowE : List Cell :=
  [imm0 2 (.ret_po .dd), imm0 2 .pop_ix, immW 4 (.jp_po_nn .dd), imm0 2 .ex__sp__ix,
   immW 4 (.call_po_nn .dd), imm0 2 .push_ix, imm1 3 (.and_n .dd), imm0 2 (.rst_20h .dd),
   imm0 2 (.ret_pe .dd), imm0 2 .jp__ix, immW 4 (.jp_pe_nn .dd), imm0 2 (.ex_de_hl .dd),
   immW 4 (.call_pe_nn .dd), imm0 2 (.prefix_ed__index_prefix_dropped .ix), imm1 3 (.xor_n .dd),
   imm0 2 (.rst_28h .dd)]

/-- Opcodes 0xF0 to 0xFF of the DD table (R253). -/
noncomputable def ddRowF : List Cell :=
  [imm0 2 (.ret_p .dd), imm0 2 (.pop_af .dd), immW 4 (.jp_p_nn .dd), imm0 2 (.di .dd),
   immW 4 (.call_p_nn .dd), imm0 2 (.push_af .dd), imm1 3 (.or_n .dd), imm0 2 (.rst_30h .dd),
   imm0 2 (.ret_m .dd), imm0 2 .ld_sp_ix, immW 4 (.jp_m_nn .dd), imm0 2 (.ei .dd),
   immW 4 (.call_m_nn .dd), imm0 2 (.prefix_fd__supersedes .ix), imm1 3 (.cp_n .dd),
   imm0 2 (.rst_38h .dd)]

/-- The DD table (R201, R253). -/
noncomputable def ddTable : List (List Cell) :=
  [ddRow0, ddRow1, ddRow2, ddRow3, ddRow4, ddRow5, ddRow6, ddRow7,
   ddRow8, ddRow9, ddRowA, ddRowB, ddRowC, ddRowD, ddRowE, ddRowF]

/-- Opcodes 0x00 to 0x0F of the FD table (R253). -/
noncomputable def fdRow0 : List Cell :=
  [imm0 2 (.nop .fd), immW 4 (.ld_bc_nn .fd), imm0 2 (.ld__bc__a .fd), imm0 2 (.inc_bc .fd),
   imm0 2 (.inc_b .fd), imm0 2 (.dec_b .fd), imm1 3 (.ld_b_n .fd), imm0 2 (.rlca .fd),
   imm0 2 (.ex_af_af .fd), imm0 2 .add_iy_bc, imm0 2 (.ld_a__bc .fd), imm0 2 (.dec_bc .fd),
   imm0 2 (.inc_c .fd), imm0 2 (.dec_c .fd), imm1 3 (.ld_c_n .fd), imm0 2 (.rrca .fd)]

/-- Opcodes 0x10 to 0x1F of the FD table (R253). -/
noncomputable def fdRow1 : List Cell :=
  [imm1 3 (.djnz_e .fd), immW 4 (.ld_de_nn .fd), imm0 2 (.ld__de__a .fd), imm0 2 (.inc_de .fd),
   imm0 2 (.inc_d .fd), imm0 2 (.dec_d .fd), imm1 3 (.ld_d_n .fd), imm0 2 (.rla .fd),
   imm1 3 (.jr_e .fd), imm0 2 .add_iy_de, imm0 2 (.ld_a__de .fd), imm0 2 (.dec_de .fd),
   imm0 2 (.inc_e .fd), imm0 2 (.dec_e .fd), imm1 3 (.ld_e_n .fd), imm0 2 (.rra .fd)]

/-- Opcodes 0x20 to 0x2F of the FD table (R253). -/
noncomputable def fdRow2 : List Cell :=
  [imm1 3 (.jr_nz_e .fd), immW 4 .ld_iy_nn, immW 4 .ld__nn__iy, imm0 2 .inc_iy, imm0 2 .inc_iyh,
   imm0 2 .dec_iyh, imm1 3 .ld_iyh_n, imm0 2 (.daa .fd), imm1 3 (.jr_z_e .fd), imm0 2 .add_iy_iy,
   immW 4 .ld_iy__nn, imm0 2 .dec_iy, imm0 2 .inc_iyl, imm0 2 .dec_iyl, imm1 3 .ld_iyl_n,
   imm0 2 (.cpl .fd)]

/-- Opcodes 0x30 to 0x3F of the FD table (R253). -/
noncomputable def fdRow3 : List Cell :=
  [imm1 3 (.jr_nc_e .fd), immW 4 (.ld_sp_nn .fd), immW 4 (.ld__nn__a .fd), imm0 2 (.inc_sp .fd),
   imm1 3 .inc__iyd, imm1 3 .dec__iyd, imm2 4 .ld__iyd__n, imm0 2 (.scf .fd), imm1 3 (.jr_c_e .fd),
   imm0 2 .add_iy_sp, immW 4 (.ld_a__nn .fd), imm0 2 (.dec_sp .fd), imm0 2 (.inc_a .fd),
   imm0 2 (.dec_a .fd), imm1 3 (.ld_a_n .fd), imm0 2 (.ccf .fd)]

/-- Opcodes 0x40 to 0x4F of the FD table (R253). -/
noncomputable def fdRow4 : List Cell :=
  [imm0 2 (.ld_b_b .fd), imm0 2 (.ld_b_c .fd), imm0 2 (.ld_b_d .fd), imm0 2 (.ld_b_e .fd),
   imm0 2 .ld_b_iyh, imm0 2 .ld_b_iyl, imm1 3 .ld_b__iyd, imm0 2 (.ld_b_a .fd),
   imm0 2 (.ld_c_b .fd), imm0 2 (.ld_c_c .fd), imm0 2 (.ld_c_d .fd), imm0 2 (.ld_c_e .fd),
   imm0 2 .ld_c_iyh, imm0 2 .ld_c_iyl, imm1 3 .ld_c__iyd, imm0 2 (.ld_c_a .fd)]

/-- Opcodes 0x50 to 0x5F of the FD table (R253). -/
noncomputable def fdRow5 : List Cell :=
  [imm0 2 (.ld_d_b .fd), imm0 2 (.ld_d_c .fd), imm0 2 (.ld_d_d .fd), imm0 2 (.ld_d_e .fd),
   imm0 2 .ld_d_iyh, imm0 2 .ld_d_iyl, imm1 3 .ld_d__iyd, imm0 2 (.ld_d_a .fd),
   imm0 2 (.ld_e_b .fd), imm0 2 (.ld_e_c .fd), imm0 2 (.ld_e_d .fd), imm0 2 (.ld_e_e .fd),
   imm0 2 .ld_e_iyh, imm0 2 .ld_e_iyl, imm1 3 .ld_e__iyd, imm0 2 (.ld_e_a .fd)]

/-- Opcodes 0x60 to 0x6F of the FD table (R253). -/
noncomputable def fdRow6 : List Cell :=
  [imm0 2 .ld_iyh_b, imm0 2 .ld_iyh_c, imm0 2 .ld_iyh_d, imm0 2 .ld_iyh_e, imm0 2 .ld_iyh_iyh,
   imm0 2 .ld_iyh_iyl, imm1 3 .ld_h__iyd, imm0 2 .ld_iyh_a, imm0 2 .ld_iyl_b, imm0 2 .ld_iyl_c,
   imm0 2 .ld_iyl_d, imm0 2 .ld_iyl_e, imm0 2 .ld_iyl_iyh, imm0 2 .ld_iyl_iyl, imm1 3 .ld_l__iyd,
   imm0 2 .ld_iyl_a]

/-- Opcodes 0x70 to 0x7F of the FD table (R253). -/
noncomputable def fdRow7 : List Cell :=
  [imm1 3 .ld__iyd__b, imm1 3 .ld__iyd__c, imm1 3 .ld__iyd__d, imm1 3 .ld__iyd__e,
   imm1 3 .ld__iyd__h, imm1 3 .ld__iyd__l, imm0 2 (.halt .fd), imm1 3 .ld__iyd__a,
   imm0 2 (.ld_a_b .fd), imm0 2 (.ld_a_c .fd), imm0 2 (.ld_a_d .fd), imm0 2 (.ld_a_e .fd),
   imm0 2 .ld_a_iyh, imm0 2 .ld_a_iyl, imm1 3 .ld_a__iyd, imm0 2 (.ld_a_a .fd)]

/-- Opcodes 0x80 to 0x8F of the FD table (R253). -/
noncomputable def fdRow8 : List Cell :=
  [imm0 2 (.add_a_b .fd), imm0 2 (.add_a_c .fd), imm0 2 (.add_a_d .fd), imm0 2 (.add_a_e .fd),
   imm0 2 .add_a_iyh, imm0 2 .add_a_iyl, imm1 3 .add_a__iyd, imm0 2 (.add_a_a .fd),
   imm0 2 (.adc_a_b .fd), imm0 2 (.adc_a_c .fd), imm0 2 (.adc_a_d .fd), imm0 2 (.adc_a_e .fd),
   imm0 2 .adc_a_iyh, imm0 2 .adc_a_iyl, imm1 3 .adc_a__iyd, imm0 2 (.adc_a_a .fd)]

/-- Opcodes 0x90 to 0x9F of the FD table (R253). -/
noncomputable def fdRow9 : List Cell :=
  [imm0 2 (.sub_b .fd), imm0 2 (.sub_c .fd), imm0 2 (.sub_d .fd), imm0 2 (.sub_e .fd),
   imm0 2 .sub_iyh, imm0 2 .sub_iyl, imm1 3 .sub__iyd, imm0 2 (.sub_a .fd), imm0 2 (.sbc_a_b .fd),
   imm0 2 (.sbc_a_c .fd), imm0 2 (.sbc_a_d .fd), imm0 2 (.sbc_a_e .fd), imm0 2 .sbc_a_iyh,
   imm0 2 .sbc_a_iyl, imm1 3 .sbc_a__iyd, imm0 2 (.sbc_a_a .fd)]

/-- Opcodes 0xA0 to 0xAF of the FD table (R253). -/
noncomputable def fdRowA : List Cell :=
  [imm0 2 (.and_b .fd), imm0 2 (.and_c .fd), imm0 2 (.and_d .fd), imm0 2 (.and_e .fd),
   imm0 2 .and_iyh, imm0 2 .and_iyl, imm1 3 .and__iyd, imm0 2 (.and_a .fd), imm0 2 (.xor_b .fd),
   imm0 2 (.xor_c .fd), imm0 2 (.xor_d .fd), imm0 2 (.xor_e .fd), imm0 2 .xor_iyh, imm0 2 .xor_iyl,
   imm1 3 .xor__iyd, imm0 2 (.xor_a .fd)]

/-- Opcodes 0xB0 to 0xBF of the FD table (R253). -/
noncomputable def fdRowB : List Cell :=
  [imm0 2 (.or_b .fd), imm0 2 (.or_c .fd), imm0 2 (.or_d .fd), imm0 2 (.or_e .fd), imm0 2 .or_iyh,
   imm0 2 .or_iyl, imm1 3 .or__iyd, imm0 2 (.or_a .fd), imm0 2 (.cp_b .fd), imm0 2 (.cp_c .fd),
   imm0 2 (.cp_d .fd), imm0 2 (.cp_e .fd), imm0 2 .cp_iyh, imm0 2 .cp_iyl, imm1 3 .cp__iyd,
   imm0 2 (.cp_a .fd)]

/-- Opcodes 0xC0 to 0xCF of the FD table (R253). -/
noncomputable def fdRowC : List Cell :=
  [imm0 2 (.ret_nz .fd), imm0 2 (.pop_bc .fd), immW 4 (.jp_nz_nn .fd), immW 4 (.jp_nn .fd),
   immW 4 (.call_nz_nn .fd), imm0 2 (.push_bc .fd), imm1 3 (.add_a_n .fd), imm0 2 (.rst_00h .fd),
   imm0 2 (.ret_z .fd), imm0 2 (.ret .fd), immW 4 (.jp_z_nn .fd), imm0 2 .prefix_fdcb,
   immW 4 (.call_z_nn .fd), immW 4 (.call_nn .fd), imm1 3 (.adc_a_n .fd), imm0 2 (.rst_08h .fd)]

/-- Opcodes 0xD0 to 0xDF of the FD table (R253). -/
noncomputable def fdRowD : List Cell :=
  [imm0 2 (.ret_nc .fd), imm0 2 (.pop_de .fd), immW 4 (.jp_nc_nn .fd), imm1 3 (.out__n__a .fd),
   immW 4 (.call_nc_nn .fd), imm0 2 (.push_de .fd), imm1 3 (.sub_n .fd), imm0 2 (.rst_10h .fd),
   imm0 2 (.ret_c .fd), imm0 2 (.exx .fd), immW 4 (.jp_c_nn .fd), imm1 3 (.in_a__n .fd),
   immW 4 (.call_c_nn .fd), imm0 2 (.prefix_dd__supersedes .iy), imm1 3 (.sbc_a_n .fd),
   imm0 2 (.rst_18h .fd)]

/-- Opcodes 0xE0 to 0xEF of the FD table (R253). -/
noncomputable def fdRowE : List Cell :=
  [imm0 2 (.ret_po .fd), imm0 2 .pop_iy, immW 4 (.jp_po_nn .fd), imm0 2 .ex__sp__iy,
   immW 4 (.call_po_nn .fd), imm0 2 .push_iy, imm1 3 (.and_n .fd), imm0 2 (.rst_20h .fd),
   imm0 2 (.ret_pe .fd), imm0 2 .jp__iy, immW 4 (.jp_pe_nn .fd), imm0 2 (.ex_de_hl .fd),
   immW 4 (.call_pe_nn .fd), imm0 2 (.prefix_ed__index_prefix_dropped .iy), imm1 3 (.xor_n .fd),
   imm0 2 (.rst_28h .fd)]

/-- Opcodes 0xF0 to 0xFF of the FD table (R253). -/
noncomputable def fdRowF : List Cell :=
  [imm0 2 (.ret_p .fd), imm0 2 (.pop_af .fd), immW 4 (.jp_p_nn .fd), imm0 2 (.di .fd),
   immW 4 (.call_p_nn .fd), imm0 2 (.push_af .fd), imm1 3 (.or_n .fd), imm0 2 (.rst_30h .fd),
   imm0 2 (.ret_m .fd), imm0 2 .ld_sp_iy, immW 4 (.jp_m_nn .fd), imm0 2 (.ei .fd),
   immW 4 (.call_m_nn .fd), imm0 2 (.prefix_fd__supersedes .iy), imm1 3 (.cp_n .fd),
   imm0 2 (.rst_38h .fd)]

/-- The FD table (R201, R253). -/
noncomputable def fdTable : List (List Cell) :=
  [fdRow0, fdRow1, fdRow2, fdRow3, fdRow4, fdRow5, fdRow6, fdRow7,
   fdRow8, fdRow9, fdRowA, fdRowB, fdRowC, fdRowD, fdRowE, fdRowF]

/-- Opcodes 0x00 to 0x0F of the DDCB table (R254). -/
noncomputable def ddcbRow0 : List Cell :=
  [imm1 4 .rlc__ixd__b, imm1 4 .rlc__ixd__c, imm1 4 .rlc__ixd__d, imm1 4 .rlc__ixd__e,
   imm1 4 .rlc__ixd__h, imm1 4 .rlc__ixd__l, imm1 4 .rlc__ixd, imm1 4 .rlc__ixd__a,
   imm1 4 .rrc__ixd__b, imm1 4 .rrc__ixd__c, imm1 4 .rrc__ixd__d, imm1 4 .rrc__ixd__e,
   imm1 4 .rrc__ixd__h, imm1 4 .rrc__ixd__l, imm1 4 .rrc__ixd, imm1 4 .rrc__ixd__a]

/-- Opcodes 0x10 to 0x1F of the DDCB table (R254). -/
noncomputable def ddcbRow1 : List Cell :=
  [imm1 4 .rl__ixd__b, imm1 4 .rl__ixd__c, imm1 4 .rl__ixd__d, imm1 4 .rl__ixd__e,
   imm1 4 .rl__ixd__h, imm1 4 .rl__ixd__l, imm1 4 .rl__ixd, imm1 4 .rl__ixd__a, imm1 4 .rr__ixd__b,
   imm1 4 .rr__ixd__c, imm1 4 .rr__ixd__d, imm1 4 .rr__ixd__e, imm1 4 .rr__ixd__h,
   imm1 4 .rr__ixd__l, imm1 4 .rr__ixd, imm1 4 .rr__ixd__a]

/-- Opcodes 0x20 to 0x2F of the DDCB table (R254). -/
noncomputable def ddcbRow2 : List Cell :=
  [imm1 4 .sla__ixd__b, imm1 4 .sla__ixd__c, imm1 4 .sla__ixd__d, imm1 4 .sla__ixd__e,
   imm1 4 .sla__ixd__h, imm1 4 .sla__ixd__l, imm1 4 .sla__ixd, imm1 4 .sla__ixd__a,
   imm1 4 .sra__ixd__b, imm1 4 .sra__ixd__c, imm1 4 .sra__ixd__d, imm1 4 .sra__ixd__e,
   imm1 4 .sra__ixd__h, imm1 4 .sra__ixd__l, imm1 4 .sra__ixd, imm1 4 .sra__ixd__a]

/-- Opcodes 0x30 to 0x3F of the DDCB table (R254). -/
noncomputable def ddcbRow3 : List Cell :=
  [imm1 4 .sll__ixd__b, imm1 4 .sll__ixd__c, imm1 4 .sll__ixd__d, imm1 4 .sll__ixd__e,
   imm1 4 .sll__ixd__h, imm1 4 .sll__ixd__l, imm1 4 .sll__ixd, imm1 4 .sll__ixd__a,
   imm1 4 .srl__ixd__b, imm1 4 .srl__ixd__c, imm1 4 .srl__ixd__d, imm1 4 .srl__ixd__e,
   imm1 4 .srl__ixd__h, imm1 4 .srl__ixd__l, imm1 4 .srl__ixd, imm1 4 .srl__ixd__a]

/-- Opcodes 0x40 to 0x4F of the DDCB table (R254). -/
noncomputable def ddcbRow4 : List Cell :=
  [imm1 4 (.bit_0__ixd 0#3), imm1 4 (.bit_0__ixd 1#3), imm1 4 (.bit_0__ixd 2#3),
   imm1 4 (.bit_0__ixd 3#3), imm1 4 (.bit_0__ixd 4#3), imm1 4 (.bit_0__ixd 5#3),
   imm1 4 (.bit_0__ixd 6#3), imm1 4 (.bit_0__ixd 7#3), imm1 4 (.bit_1__ixd 0#3),
   imm1 4 (.bit_1__ixd 1#3), imm1 4 (.bit_1__ixd 2#3), imm1 4 (.bit_1__ixd 3#3),
   imm1 4 (.bit_1__ixd 4#3), imm1 4 (.bit_1__ixd 5#3), imm1 4 (.bit_1__ixd 6#3),
   imm1 4 (.bit_1__ixd 7#3)]

/-- Opcodes 0x50 to 0x5F of the DDCB table (R254). -/
noncomputable def ddcbRow5 : List Cell :=
  [imm1 4 (.bit_2__ixd 0#3), imm1 4 (.bit_2__ixd 1#3), imm1 4 (.bit_2__ixd 2#3),
   imm1 4 (.bit_2__ixd 3#3), imm1 4 (.bit_2__ixd 4#3), imm1 4 (.bit_2__ixd 5#3),
   imm1 4 (.bit_2__ixd 6#3), imm1 4 (.bit_2__ixd 7#3), imm1 4 (.bit_3__ixd 0#3),
   imm1 4 (.bit_3__ixd 1#3), imm1 4 (.bit_3__ixd 2#3), imm1 4 (.bit_3__ixd 3#3),
   imm1 4 (.bit_3__ixd 4#3), imm1 4 (.bit_3__ixd 5#3), imm1 4 (.bit_3__ixd 6#3),
   imm1 4 (.bit_3__ixd 7#3)]

/-- Opcodes 0x60 to 0x6F of the DDCB table (R254). -/
noncomputable def ddcbRow6 : List Cell :=
  [imm1 4 (.bit_4__ixd 0#3), imm1 4 (.bit_4__ixd 1#3), imm1 4 (.bit_4__ixd 2#3),
   imm1 4 (.bit_4__ixd 3#3), imm1 4 (.bit_4__ixd 4#3), imm1 4 (.bit_4__ixd 5#3),
   imm1 4 (.bit_4__ixd 6#3), imm1 4 (.bit_4__ixd 7#3), imm1 4 (.bit_5__ixd 0#3),
   imm1 4 (.bit_5__ixd 1#3), imm1 4 (.bit_5__ixd 2#3), imm1 4 (.bit_5__ixd 3#3),
   imm1 4 (.bit_5__ixd 4#3), imm1 4 (.bit_5__ixd 5#3), imm1 4 (.bit_5__ixd 6#3),
   imm1 4 (.bit_5__ixd 7#3)]

/-- Opcodes 0x70 to 0x7F of the DDCB table (R254). -/
noncomputable def ddcbRow7 : List Cell :=
  [imm1 4 (.bit_6__ixd 0#3), imm1 4 (.bit_6__ixd 1#3), imm1 4 (.bit_6__ixd 2#3),
   imm1 4 (.bit_6__ixd 3#3), imm1 4 (.bit_6__ixd 4#3), imm1 4 (.bit_6__ixd 5#3),
   imm1 4 (.bit_6__ixd 6#3), imm1 4 (.bit_6__ixd 7#3), imm1 4 (.bit_7__ixd 0#3),
   imm1 4 (.bit_7__ixd 1#3), imm1 4 (.bit_7__ixd 2#3), imm1 4 (.bit_7__ixd 3#3),
   imm1 4 (.bit_7__ixd 4#3), imm1 4 (.bit_7__ixd 5#3), imm1 4 (.bit_7__ixd 6#3),
   imm1 4 (.bit_7__ixd 7#3)]

/-- Opcodes 0x80 to 0x8F of the DDCB table (R254). -/
noncomputable def ddcbRow8 : List Cell :=
  [imm1 4 .res_0__ixd__b, imm1 4 .res_0__ixd__c, imm1 4 .res_0__ixd__d, imm1 4 .res_0__ixd__e,
   imm1 4 .res_0__ixd__h, imm1 4 .res_0__ixd__l, imm1 4 .res_0__ixd, imm1 4 .res_0__ixd__a,
   imm1 4 .res_1__ixd__b, imm1 4 .res_1__ixd__c, imm1 4 .res_1__ixd__d, imm1 4 .res_1__ixd__e,
   imm1 4 .res_1__ixd__h, imm1 4 .res_1__ixd__l, imm1 4 .res_1__ixd, imm1 4 .res_1__ixd__a]

/-- Opcodes 0x90 to 0x9F of the DDCB table (R254). -/
noncomputable def ddcbRow9 : List Cell :=
  [imm1 4 .res_2__ixd__b, imm1 4 .res_2__ixd__c, imm1 4 .res_2__ixd__d, imm1 4 .res_2__ixd__e,
   imm1 4 .res_2__ixd__h, imm1 4 .res_2__ixd__l, imm1 4 .res_2__ixd, imm1 4 .res_2__ixd__a,
   imm1 4 .res_3__ixd__b, imm1 4 .res_3__ixd__c, imm1 4 .res_3__ixd__d, imm1 4 .res_3__ixd__e,
   imm1 4 .res_3__ixd__h, imm1 4 .res_3__ixd__l, imm1 4 .res_3__ixd, imm1 4 .res_3__ixd__a]

/-- Opcodes 0xA0 to 0xAF of the DDCB table (R254). -/
noncomputable def ddcbRowA : List Cell :=
  [imm1 4 .res_4__ixd__b, imm1 4 .res_4__ixd__c, imm1 4 .res_4__ixd__d, imm1 4 .res_4__ixd__e,
   imm1 4 .res_4__ixd__h, imm1 4 .res_4__ixd__l, imm1 4 .res_4__ixd, imm1 4 .res_4__ixd__a,
   imm1 4 .res_5__ixd__b, imm1 4 .res_5__ixd__c, imm1 4 .res_5__ixd__d, imm1 4 .res_5__ixd__e,
   imm1 4 .res_5__ixd__h, imm1 4 .res_5__ixd__l, imm1 4 .res_5__ixd, imm1 4 .res_5__ixd__a]

/-- Opcodes 0xB0 to 0xBF of the DDCB table (R254). -/
noncomputable def ddcbRowB : List Cell :=
  [imm1 4 .res_6__ixd__b, imm1 4 .res_6__ixd__c, imm1 4 .res_6__ixd__d, imm1 4 .res_6__ixd__e,
   imm1 4 .res_6__ixd__h, imm1 4 .res_6__ixd__l, imm1 4 .res_6__ixd, imm1 4 .res_6__ixd__a,
   imm1 4 .res_7__ixd__b, imm1 4 .res_7__ixd__c, imm1 4 .res_7__ixd__d, imm1 4 .res_7__ixd__e,
   imm1 4 .res_7__ixd__h, imm1 4 .res_7__ixd__l, imm1 4 .res_7__ixd, imm1 4 .res_7__ixd__a]

/-- Opcodes 0xC0 to 0xCF of the DDCB table (R254). -/
noncomputable def ddcbRowC : List Cell :=
  [imm1 4 .set_0__ixd__b, imm1 4 .set_0__ixd__c, imm1 4 .set_0__ixd__d, imm1 4 .set_0__ixd__e,
   imm1 4 .set_0__ixd__h, imm1 4 .set_0__ixd__l, imm1 4 .set_0__ixd, imm1 4 .set_0__ixd__a,
   imm1 4 .set_1__ixd__b, imm1 4 .set_1__ixd__c, imm1 4 .set_1__ixd__d, imm1 4 .set_1__ixd__e,
   imm1 4 .set_1__ixd__h, imm1 4 .set_1__ixd__l, imm1 4 .set_1__ixd, imm1 4 .set_1__ixd__a]

/-- Opcodes 0xD0 to 0xDF of the DDCB table (R254). -/
noncomputable def ddcbRowD : List Cell :=
  [imm1 4 .set_2__ixd__b, imm1 4 .set_2__ixd__c, imm1 4 .set_2__ixd__d, imm1 4 .set_2__ixd__e,
   imm1 4 .set_2__ixd__h, imm1 4 .set_2__ixd__l, imm1 4 .set_2__ixd, imm1 4 .set_2__ixd__a,
   imm1 4 .set_3__ixd__b, imm1 4 .set_3__ixd__c, imm1 4 .set_3__ixd__d, imm1 4 .set_3__ixd__e,
   imm1 4 .set_3__ixd__h, imm1 4 .set_3__ixd__l, imm1 4 .set_3__ixd, imm1 4 .set_3__ixd__a]

/-- Opcodes 0xE0 to 0xEF of the DDCB table (R254). -/
noncomputable def ddcbRowE : List Cell :=
  [imm1 4 .set_4__ixd__b, imm1 4 .set_4__ixd__c, imm1 4 .set_4__ixd__d, imm1 4 .set_4__ixd__e,
   imm1 4 .set_4__ixd__h, imm1 4 .set_4__ixd__l, imm1 4 .set_4__ixd, imm1 4 .set_4__ixd__a,
   imm1 4 .set_5__ixd__b, imm1 4 .set_5__ixd__c, imm1 4 .set_5__ixd__d, imm1 4 .set_5__ixd__e,
   imm1 4 .set_5__ixd__h, imm1 4 .set_5__ixd__l, imm1 4 .set_5__ixd, imm1 4 .set_5__ixd__a]

/-- Opcodes 0xF0 to 0xFF of the DDCB table (R254). -/
noncomputable def ddcbRowF : List Cell :=
  [imm1 4 .set_6__ixd__b, imm1 4 .set_6__ixd__c, imm1 4 .set_6__ixd__d, imm1 4 .set_6__ixd__e,
   imm1 4 .set_6__ixd__h, imm1 4 .set_6__ixd__l, imm1 4 .set_6__ixd, imm1 4 .set_6__ixd__a,
   imm1 4 .set_7__ixd__b, imm1 4 .set_7__ixd__c, imm1 4 .set_7__ixd__d, imm1 4 .set_7__ixd__e,
   imm1 4 .set_7__ixd__h, imm1 4 .set_7__ixd__l, imm1 4 .set_7__ixd, imm1 4 .set_7__ixd__a]

/-- The DDCB table (R201, R254). -/
noncomputable def ddcbTable : List (List Cell) :=
  [ddcbRow0, ddcbRow1, ddcbRow2, ddcbRow3, ddcbRow4, ddcbRow5, ddcbRow6, ddcbRow7,
   ddcbRow8, ddcbRow9, ddcbRowA, ddcbRowB, ddcbRowC, ddcbRowD, ddcbRowE, ddcbRowF]

/-- Opcodes 0x00 to 0x0F of the FDCB table (R254). -/
noncomputable def fdcbRow0 : List Cell :=
  [imm1 4 .rlc__iyd__b, imm1 4 .rlc__iyd__c, imm1 4 .rlc__iyd__d, imm1 4 .rlc__iyd__e,
   imm1 4 .rlc__iyd__h, imm1 4 .rlc__iyd__l, imm1 4 .rlc__iyd, imm1 4 .rlc__iyd__a,
   imm1 4 .rrc__iyd__b, imm1 4 .rrc__iyd__c, imm1 4 .rrc__iyd__d, imm1 4 .rrc__iyd__e,
   imm1 4 .rrc__iyd__h, imm1 4 .rrc__iyd__l, imm1 4 .rrc__iyd, imm1 4 .rrc__iyd__a]

/-- Opcodes 0x10 to 0x1F of the FDCB table (R254). -/
noncomputable def fdcbRow1 : List Cell :=
  [imm1 4 .rl__iyd__b, imm1 4 .rl__iyd__c, imm1 4 .rl__iyd__d, imm1 4 .rl__iyd__e,
   imm1 4 .rl__iyd__h, imm1 4 .rl__iyd__l, imm1 4 .rl__iyd, imm1 4 .rl__iyd__a, imm1 4 .rr__iyd__b,
   imm1 4 .rr__iyd__c, imm1 4 .rr__iyd__d, imm1 4 .rr__iyd__e, imm1 4 .rr__iyd__h,
   imm1 4 .rr__iyd__l, imm1 4 .rr__iyd, imm1 4 .rr__iyd__a]

/-- Opcodes 0x20 to 0x2F of the FDCB table (R254). -/
noncomputable def fdcbRow2 : List Cell :=
  [imm1 4 .sla__iyd__b, imm1 4 .sla__iyd__c, imm1 4 .sla__iyd__d, imm1 4 .sla__iyd__e,
   imm1 4 .sla__iyd__h, imm1 4 .sla__iyd__l, imm1 4 .sla__iyd, imm1 4 .sla__iyd__a,
   imm1 4 .sra__iyd__b, imm1 4 .sra__iyd__c, imm1 4 .sra__iyd__d, imm1 4 .sra__iyd__e,
   imm1 4 .sra__iyd__h, imm1 4 .sra__iyd__l, imm1 4 .sra__iyd, imm1 4 .sra__iyd__a]

/-- Opcodes 0x30 to 0x3F of the FDCB table (R254). -/
noncomputable def fdcbRow3 : List Cell :=
  [imm1 4 .sll__iyd__b, imm1 4 .sll__iyd__c, imm1 4 .sll__iyd__d, imm1 4 .sll__iyd__e,
   imm1 4 .sll__iyd__h, imm1 4 .sll__iyd__l, imm1 4 .sll__iyd, imm1 4 .sll__iyd__a,
   imm1 4 .srl__iyd__b, imm1 4 .srl__iyd__c, imm1 4 .srl__iyd__d, imm1 4 .srl__iyd__e,
   imm1 4 .srl__iyd__h, imm1 4 .srl__iyd__l, imm1 4 .srl__iyd, imm1 4 .srl__iyd__a]

/-- Opcodes 0x40 to 0x4F of the FDCB table (R254). -/
noncomputable def fdcbRow4 : List Cell :=
  [imm1 4 (.bit_0__iyd 0#3), imm1 4 (.bit_0__iyd 1#3), imm1 4 (.bit_0__iyd 2#3),
   imm1 4 (.bit_0__iyd 3#3), imm1 4 (.bit_0__iyd 4#3), imm1 4 (.bit_0__iyd 5#3),
   imm1 4 (.bit_0__iyd 6#3), imm1 4 (.bit_0__iyd 7#3), imm1 4 (.bit_1__iyd 0#3),
   imm1 4 (.bit_1__iyd 1#3), imm1 4 (.bit_1__iyd 2#3), imm1 4 (.bit_1__iyd 3#3),
   imm1 4 (.bit_1__iyd 4#3), imm1 4 (.bit_1__iyd 5#3), imm1 4 (.bit_1__iyd 6#3),
   imm1 4 (.bit_1__iyd 7#3)]

/-- Opcodes 0x50 to 0x5F of the FDCB table (R254). -/
noncomputable def fdcbRow5 : List Cell :=
  [imm1 4 (.bit_2__iyd 0#3), imm1 4 (.bit_2__iyd 1#3), imm1 4 (.bit_2__iyd 2#3),
   imm1 4 (.bit_2__iyd 3#3), imm1 4 (.bit_2__iyd 4#3), imm1 4 (.bit_2__iyd 5#3),
   imm1 4 (.bit_2__iyd 6#3), imm1 4 (.bit_2__iyd 7#3), imm1 4 (.bit_3__iyd 0#3),
   imm1 4 (.bit_3__iyd 1#3), imm1 4 (.bit_3__iyd 2#3), imm1 4 (.bit_3__iyd 3#3),
   imm1 4 (.bit_3__iyd 4#3), imm1 4 (.bit_3__iyd 5#3), imm1 4 (.bit_3__iyd 6#3),
   imm1 4 (.bit_3__iyd 7#3)]

/-- Opcodes 0x60 to 0x6F of the FDCB table (R254). -/
noncomputable def fdcbRow6 : List Cell :=
  [imm1 4 (.bit_4__iyd 0#3), imm1 4 (.bit_4__iyd 1#3), imm1 4 (.bit_4__iyd 2#3),
   imm1 4 (.bit_4__iyd 3#3), imm1 4 (.bit_4__iyd 4#3), imm1 4 (.bit_4__iyd 5#3),
   imm1 4 (.bit_4__iyd 6#3), imm1 4 (.bit_4__iyd 7#3), imm1 4 (.bit_5__iyd 0#3),
   imm1 4 (.bit_5__iyd 1#3), imm1 4 (.bit_5__iyd 2#3), imm1 4 (.bit_5__iyd 3#3),
   imm1 4 (.bit_5__iyd 4#3), imm1 4 (.bit_5__iyd 5#3), imm1 4 (.bit_5__iyd 6#3),
   imm1 4 (.bit_5__iyd 7#3)]

/-- Opcodes 0x70 to 0x7F of the FDCB table (R254). -/
noncomputable def fdcbRow7 : List Cell :=
  [imm1 4 (.bit_6__iyd 0#3), imm1 4 (.bit_6__iyd 1#3), imm1 4 (.bit_6__iyd 2#3),
   imm1 4 (.bit_6__iyd 3#3), imm1 4 (.bit_6__iyd 4#3), imm1 4 (.bit_6__iyd 5#3),
   imm1 4 (.bit_6__iyd 6#3), imm1 4 (.bit_6__iyd 7#3), imm1 4 (.bit_7__iyd 0#3),
   imm1 4 (.bit_7__iyd 1#3), imm1 4 (.bit_7__iyd 2#3), imm1 4 (.bit_7__iyd 3#3),
   imm1 4 (.bit_7__iyd 4#3), imm1 4 (.bit_7__iyd 5#3), imm1 4 (.bit_7__iyd 6#3),
   imm1 4 (.bit_7__iyd 7#3)]

/-- Opcodes 0x80 to 0x8F of the FDCB table (R254). -/
noncomputable def fdcbRow8 : List Cell :=
  [imm1 4 .res_0__iyd__b, imm1 4 .res_0__iyd__c, imm1 4 .res_0__iyd__d, imm1 4 .res_0__iyd__e,
   imm1 4 .res_0__iyd__h, imm1 4 .res_0__iyd__l, imm1 4 .res_0__iyd, imm1 4 .res_0__iyd__a,
   imm1 4 .res_1__iyd__b, imm1 4 .res_1__iyd__c, imm1 4 .res_1__iyd__d, imm1 4 .res_1__iyd__e,
   imm1 4 .res_1__iyd__h, imm1 4 .res_1__iyd__l, imm1 4 .res_1__iyd, imm1 4 .res_1__iyd__a]

/-- Opcodes 0x90 to 0x9F of the FDCB table (R254). -/
noncomputable def fdcbRow9 : List Cell :=
  [imm1 4 .res_2__iyd__b, imm1 4 .res_2__iyd__c, imm1 4 .res_2__iyd__d, imm1 4 .res_2__iyd__e,
   imm1 4 .res_2__iyd__h, imm1 4 .res_2__iyd__l, imm1 4 .res_2__iyd, imm1 4 .res_2__iyd__a,
   imm1 4 .res_3__iyd__b, imm1 4 .res_3__iyd__c, imm1 4 .res_3__iyd__d, imm1 4 .res_3__iyd__e,
   imm1 4 .res_3__iyd__h, imm1 4 .res_3__iyd__l, imm1 4 .res_3__iyd, imm1 4 .res_3__iyd__a]

/-- Opcodes 0xA0 to 0xAF of the FDCB table (R254). -/
noncomputable def fdcbRowA : List Cell :=
  [imm1 4 .res_4__iyd__b, imm1 4 .res_4__iyd__c, imm1 4 .res_4__iyd__d, imm1 4 .res_4__iyd__e,
   imm1 4 .res_4__iyd__h, imm1 4 .res_4__iyd__l, imm1 4 .res_4__iyd, imm1 4 .res_4__iyd__a,
   imm1 4 .res_5__iyd__b, imm1 4 .res_5__iyd__c, imm1 4 .res_5__iyd__d, imm1 4 .res_5__iyd__e,
   imm1 4 .res_5__iyd__h, imm1 4 .res_5__iyd__l, imm1 4 .res_5__iyd, imm1 4 .res_5__iyd__a]

/-- Opcodes 0xB0 to 0xBF of the FDCB table (R254). -/
noncomputable def fdcbRowB : List Cell :=
  [imm1 4 .res_6__iyd__b, imm1 4 .res_6__iyd__c, imm1 4 .res_6__iyd__d, imm1 4 .res_6__iyd__e,
   imm1 4 .res_6__iyd__h, imm1 4 .res_6__iyd__l, imm1 4 .res_6__iyd, imm1 4 .res_6__iyd__a,
   imm1 4 .res_7__iyd__b, imm1 4 .res_7__iyd__c, imm1 4 .res_7__iyd__d, imm1 4 .res_7__iyd__e,
   imm1 4 .res_7__iyd__h, imm1 4 .res_7__iyd__l, imm1 4 .res_7__iyd, imm1 4 .res_7__iyd__a]

/-- Opcodes 0xC0 to 0xCF of the FDCB table (R254). -/
noncomputable def fdcbRowC : List Cell :=
  [imm1 4 .set_0__iyd__b, imm1 4 .set_0__iyd__c, imm1 4 .set_0__iyd__d, imm1 4 .set_0__iyd__e,
   imm1 4 .set_0__iyd__h, imm1 4 .set_0__iyd__l, imm1 4 .set_0__iyd, imm1 4 .set_0__iyd__a,
   imm1 4 .set_1__iyd__b, imm1 4 .set_1__iyd__c, imm1 4 .set_1__iyd__d, imm1 4 .set_1__iyd__e,
   imm1 4 .set_1__iyd__h, imm1 4 .set_1__iyd__l, imm1 4 .set_1__iyd, imm1 4 .set_1__iyd__a]

/-- Opcodes 0xD0 to 0xDF of the FDCB table (R254). -/
noncomputable def fdcbRowD : List Cell :=
  [imm1 4 .set_2__iyd__b, imm1 4 .set_2__iyd__c, imm1 4 .set_2__iyd__d, imm1 4 .set_2__iyd__e,
   imm1 4 .set_2__iyd__h, imm1 4 .set_2__iyd__l, imm1 4 .set_2__iyd, imm1 4 .set_2__iyd__a,
   imm1 4 .set_3__iyd__b, imm1 4 .set_3__iyd__c, imm1 4 .set_3__iyd__d, imm1 4 .set_3__iyd__e,
   imm1 4 .set_3__iyd__h, imm1 4 .set_3__iyd__l, imm1 4 .set_3__iyd, imm1 4 .set_3__iyd__a]

/-- Opcodes 0xE0 to 0xEF of the FDCB table (R254). -/
noncomputable def fdcbRowE : List Cell :=
  [imm1 4 .set_4__iyd__b, imm1 4 .set_4__iyd__c, imm1 4 .set_4__iyd__d, imm1 4 .set_4__iyd__e,
   imm1 4 .set_4__iyd__h, imm1 4 .set_4__iyd__l, imm1 4 .set_4__iyd, imm1 4 .set_4__iyd__a,
   imm1 4 .set_5__iyd__b, imm1 4 .set_5__iyd__c, imm1 4 .set_5__iyd__d, imm1 4 .set_5__iyd__e,
   imm1 4 .set_5__iyd__h, imm1 4 .set_5__iyd__l, imm1 4 .set_5__iyd, imm1 4 .set_5__iyd__a]

/-- Opcodes 0xF0 to 0xFF of the FDCB table (R254). -/
noncomputable def fdcbRowF : List Cell :=
  [imm1 4 .set_6__iyd__b, imm1 4 .set_6__iyd__c, imm1 4 .set_6__iyd__d, imm1 4 .set_6__iyd__e,
   imm1 4 .set_6__iyd__h, imm1 4 .set_6__iyd__l, imm1 4 .set_6__iyd, imm1 4 .set_6__iyd__a,
   imm1 4 .set_7__iyd__b, imm1 4 .set_7__iyd__c, imm1 4 .set_7__iyd__d, imm1 4 .set_7__iyd__e,
   imm1 4 .set_7__iyd__h, imm1 4 .set_7__iyd__l, imm1 4 .set_7__iyd, imm1 4 .set_7__iyd__a]

/-- The FDCB table (R201, R254). -/
noncomputable def fdcbTable : List (List Cell) :=
  [fdcbRow0, fdcbRow1, fdcbRow2, fdcbRow3, fdcbRow4, fdcbRow5, fdcbRow6, fdcbRow7,
   fdcbRow8, fdcbRow9, fdcbRowA, fdcbRowB, fdcbRowC, fdcbRowD, fdcbRowE, fdcbRowF]

/-- The entry of a table for an opcode byte. -/
def entry (table : List (List Cell)) (op : Byte) : Cell :=
  (table.getD (op >>> 4).toNat []).getD (op &&& 0x0F#8).toNat (imm0 1 (.nop .none))

/-- The length and the instruction of an entry with its operand bytes. -/
def entryWith (table : List (List Cell)) (op a b : Byte) : Nat × Instr :=
  ((entry table op).1, (entry table op).2 a b)

/-! ## Decoding -/

/-- The instruction that four bytes begin with, and its length. CB, ED, DD and FD lead to their
tables; after DD CB and FD CB the displacement stands before the opcode byte (R201, R202, R231). -/
noncomputable def decode4 (b0 b1 b2 b3 : Byte) : Nat × Instr :=
  if b0 = 0xCB#8 then entryWith cbTable b1 b2 b3
  else if b0 = 0xED#8 then entryWith edTable b1 b2 b3
  else if b0 = 0xDD#8 then
    if b1 = 0xCB#8 then entryWith ddcbTable b3 b2 0#8 else entryWith ddTable b1 b2 b3
  else if b0 = 0xFD#8 then
    if b1 = 0xCB#8 then entryWith fdcbTable b3 b2 0#8 else entryWith fdTable b1 b2 b3
  else entryWith baseTable b0 b1 b2

/-- Whether a byte only leads to another table (R200). -/
def leads (b : Byte) : Bool := b == 0xCB#8 || b == 0xDD#8 || b == 0xED#8 || b == 0xFD#8

/-- The row that bytes which are only leading bytes stand for: CB, DD, ED, FD, DD CB and FD CB.
Log entry 16. -/
noncomputable def loneRow : List Byte → Option Instr
  | [b0] => if leads b0 then some (entryWith baseTable b0 0#8 0#8).2 else none
  | [b0, b1] =>
    if b1 = 0xCB#8 then
      if b0 = 0xDD#8 then some .prefix_ddcb
      else if b0 = 0xFD#8 then some .prefix_fdcb
      else none
    else none
  | _ => none

/-- Why bytes do not decode. -/
inductive DecodeError where
  /-- The bytes end before the instruction does. -/
  | truncated
deriving DecidableEq, Repr

/-- The instruction at the head of a list of bytes, and the bytes after it. -/
noncomputable def decode (bs : List Byte) : Except DecodeError (Instr × List Byte) :=
  match loneRow bs with
  | some i => .ok (i, [])
  | none =>
    let r := decode4 (bs.getD 0 0#8) (bs.getD 1 0#8) (bs.getD 2 0#8) (bs.getD 3 0#8)
    if r.1 ≤ bs.length then .ok (r.2, bs.drop r.1) else .error .truncated

/-! ## Encoding -/

/-- The ignored index byte of R222, where there is one. -/
def IndexByte.bytes : IndexByte → List Byte
  | .none => []
  | .dd => [0xDD#8]
  | .fd => [0xFD#8]

/-- The index byte that names an index register (R23, R216). -/
def IdxReg.byte : IdxReg → Byte
  | .ix => 0xDD#8
  | .iy => 0xFD#8

/-- The opcode byte of `BIT b,(XR+d)`: 01 bbb zzz (R782). -/
def bitCode (op : Byte) (z : BitVec 3) : Byte := op ||| z.setWidth 8

/-- The bytes of an instruction, from the formats of R202 and the encodings of its rule. -/
def encode : Instr → List Byte
  | .nop p => p.bytes ++ [0x00#8]
  | .ld_bc_nn p nn => p.bytes ++ [0x01#8, loByte nn, hiByte nn]
  | .ld__bc__a p => p.bytes ++ [0x02#8]
  | .inc_bc p => p.bytes ++ [0x03#8]
  | .inc_b p => p.bytes ++ [0x04#8]
  | .dec_b p => p.bytes ++ [0x05#8]
  | .ld_b_n p n => p.bytes ++ [0x06#8, n]
  | .rlca p => p.bytes ++ [0x07#8]
  | .ex_af_af p => p.bytes ++ [0x08#8]
  | .add_hl_bc => [0x09#8]
  | .ld_a__bc p => p.bytes ++ [0x0A#8]
  | .dec_bc p => p.bytes ++ [0x0B#8]
  | .inc_c p => p.bytes ++ [0x0C#8]
  | .dec_c p => p.bytes ++ [0x0D#8]
  | .ld_c_n p n => p.bytes ++ [0x0E#8, n]
  | .rrca p => p.bytes ++ [0x0F#8]
  | .djnz_e p e => p.bytes ++ [0x10#8, e]
  | .ld_de_nn p nn => p.bytes ++ [0x11#8, loByte nn, hiByte nn]
  | .ld__de__a p => p.bytes ++ [0x12#8]
  | .inc_de p => p.bytes ++ [0x13#8]
  | .inc_d p => p.bytes ++ [0x14#8]
  | .dec_d p => p.bytes ++ [0x15#8]
  | .ld_d_n p n => p.bytes ++ [0x16#8, n]
  | .rla p => p.bytes ++ [0x17#8]
  | .jr_e p e => p.bytes ++ [0x18#8, e]
  | .add_hl_de => [0x19#8]
  | .ld_a__de p => p.bytes ++ [0x1A#8]
  | .dec_de p => p.bytes ++ [0x1B#8]
  | .inc_e p => p.bytes ++ [0x1C#8]
  | .dec_e p => p.bytes ++ [0x1D#8]
  | .ld_e_n p n => p.bytes ++ [0x1E#8, n]
  | .rra p => p.bytes ++ [0x1F#8]
  | .jr_nz_e p e => p.bytes ++ [0x20#8, e]
  | .ld_hl_nn nn => [0x21#8, loByte nn, hiByte nn]
  | .ld__nn__hl nn => [0x22#8, loByte nn, hiByte nn]
  | .inc_hl => [0x23#8]
  | .inc_h => [0x24#8]
  | .dec_h => [0x25#8]
  | .ld_h_n n => [0x26#8, n]
  | .daa p => p.bytes ++ [0x27#8]
  | .jr_z_e p e => p.bytes ++ [0x28#8, e]
  | .add_hl_hl => [0x29#8]
  | .ld_hl__nn nn => [0x2A#8, loByte nn, hiByte nn]
  | .dec_hl => [0x2B#8]
  | .inc_l => [0x2C#8]
  | .dec_l => [0x2D#8]
  | .ld_l_n n => [0x2E#8, n]
  | .cpl p => p.bytes ++ [0x2F#8]
  | .jr_nc_e p e => p.bytes ++ [0x30#8, e]
  | .ld_sp_nn p nn => p.bytes ++ [0x31#8, loByte nn, hiByte nn]
  | .ld__nn__a p nn => p.bytes ++ [0x32#8, loByte nn, hiByte nn]
  | .inc_sp p => p.bytes ++ [0x33#8]
  | .inc__hl => [0x34#8]
  | .dec__hl => [0x35#8]
  | .ld__hl__n n => [0x36#8, n]
  | .scf p => p.bytes ++ [0x37#8]
  | .jr_c_e p e => p.bytes ++ [0x38#8, e]
  | .add_hl_sp => [0x39#8]
  | .ld_a__nn p nn => p.bytes ++ [0x3A#8, loByte nn, hiByte nn]
  | .dec_sp p => p.bytes ++ [0x3B#8]
  | .inc_a p => p.bytes ++ [0x3C#8]
  | .dec_a p => p.bytes ++ [0x3D#8]
  | .ld_a_n p n => p.bytes ++ [0x3E#8, n]
  | .ccf p => p.bytes ++ [0x3F#8]
  | .ld_b_b p => p.bytes ++ [0x40#8]
  | .ld_b_c p => p.bytes ++ [0x41#8]
  | .ld_b_d p => p.bytes ++ [0x42#8]
  | .ld_b_e p => p.bytes ++ [0x43#8]
  | .ld_b_h => [0x44#8]
  | .ld_b_l => [0x45#8]
  | .ld_b__hl => [0x46#8]
  | .ld_b_a p => p.bytes ++ [0x47#8]
  | .ld_c_b p => p.bytes ++ [0x48#8]
  | .ld_c_c p => p.bytes ++ [0x49#8]
  | .ld_c_d p => p.bytes ++ [0x4A#8]
  | .ld_c_e p => p.bytes ++ [0x4B#8]
  | .ld_c_h => [0x4C#8]
  | .ld_c_l => [0x4D#8]
  | .ld_c__hl => [0x4E#8]
  | .ld_c_a p => p.bytes ++ [0x4F#8]
  | .ld_d_b p => p.bytes ++ [0x50#8]
  | .ld_d_c p => p.bytes ++ [0x51#8]
  | .ld_d_d p => p.bytes ++ [0x52#8]
  | .ld_d_e p => p.bytes ++ [0x53#8]
  | .ld_d_h => [0x54#8]
  | .ld_d_l => [0x55#8]
  | .ld_d__hl => [0x56#8]
  | .ld_d_a p => p.bytes ++ [0x57#8]
  | .ld_e_b p => p.bytes ++ [0x58#8]
  | .ld_e_c p => p.bytes ++ [0x59#8]
  | .ld_e_d p => p.bytes ++ [0x5A#8]
  | .ld_e_e p => p.bytes ++ [0x5B#8]
  | .ld_e_h => [0x5C#8]
  | .ld_e_l => [0x5D#8]
  | .ld_e__hl => [0x5E#8]
  | .ld_e_a p => p.bytes ++ [0x5F#8]
  | .ld_h_b => [0x60#8]
  | .ld_h_c => [0x61#8]
  | .ld_h_d => [0x62#8]
  | .ld_h_e => [0x63#8]
  | .ld_h_h => [0x64#8]
  | .ld_h_l => [0x65#8]
  | .ld_h__hl => [0x66#8]
  | .ld_h_a => [0x67#8]
  | .ld_l_b => [0x68#8]
  | .ld_l_c => [0x69#8]
  | .ld_l_d => [0x6A#8]
  | .ld_l_e => [0x6B#8]
  | .ld_l_h => [0x6C#8]
  | .ld_l_l => [0x6D#8]
  | .ld_l__hl => [0x6E#8]
  | .ld_l_a => [0x6F#8]
  | .ld__hl__b => [0x70#8]
  | .ld__hl__c => [0x71#8]
  | .ld__hl__d => [0x72#8]
  | .ld__hl__e => [0x73#8]
  | .ld__hl__h => [0x74#8]
  | .ld__hl__l => [0x75#8]
  | .halt p => p.bytes ++ [0x76#8]
  | .ld__hl__a => [0x77#8]
  | .ld_a_b p => p.bytes ++ [0x78#8]
  | .ld_a_c p => p.bytes ++ [0x79#8]
  | .ld_a_d p => p.bytes ++ [0x7A#8]
  | .ld_a_e p => p.bytes ++ [0x7B#8]
  | .ld_a_h => [0x7C#8]
  | .ld_a_l => [0x7D#8]
  | .ld_a__hl => [0x7E#8]
  | .ld_a_a p => p.bytes ++ [0x7F#8]
  | .add_a_b p => p.bytes ++ [0x80#8]
  | .add_a_c p => p.bytes ++ [0x81#8]
  | .add_a_d p => p.bytes ++ [0x82#8]
  | .add_a_e p => p.bytes ++ [0x83#8]
  | .add_a_h => [0x84#8]
  | .add_a_l => [0x85#8]
  | .add_a__hl => [0x86#8]
  | .add_a_a p => p.bytes ++ [0x87#8]
  | .adc_a_b p => p.bytes ++ [0x88#8]
  | .adc_a_c p => p.bytes ++ [0x89#8]
  | .adc_a_d p => p.bytes ++ [0x8A#8]
  | .adc_a_e p => p.bytes ++ [0x8B#8]
  | .adc_a_h => [0x8C#8]
  | .adc_a_l => [0x8D#8]
  | .adc_a__hl => [0x8E#8]
  | .adc_a_a p => p.bytes ++ [0x8F#8]
  | .sub_b p => p.bytes ++ [0x90#8]
  | .sub_c p => p.bytes ++ [0x91#8]
  | .sub_d p => p.bytes ++ [0x92#8]
  | .sub_e p => p.bytes ++ [0x93#8]
  | .sub_h => [0x94#8]
  | .sub_l => [0x95#8]
  | .sub__hl => [0x96#8]
  | .sub_a p => p.bytes ++ [0x97#8]
  | .sbc_a_b p => p.bytes ++ [0x98#8]
  | .sbc_a_c p => p.bytes ++ [0x99#8]
  | .sbc_a_d p => p.bytes ++ [0x9A#8]
  | .sbc_a_e p => p.bytes ++ [0x9B#8]
  | .sbc_a_h => [0x9C#8]
  | .sbc_a_l => [0x9D#8]
  | .sbc_a__hl => [0x9E#8]
  | .sbc_a_a p => p.bytes ++ [0x9F#8]
  | .and_b p => p.bytes ++ [0xA0#8]
  | .and_c p => p.bytes ++ [0xA1#8]
  | .and_d p => p.bytes ++ [0xA2#8]
  | .and_e p => p.bytes ++ [0xA3#8]
  | .and_h => [0xA4#8]
  | .and_l => [0xA5#8]
  | .and__hl => [0xA6#8]
  | .and_a p => p.bytes ++ [0xA7#8]
  | .xor_b p => p.bytes ++ [0xA8#8]
  | .xor_c p => p.bytes ++ [0xA9#8]
  | .xor_d p => p.bytes ++ [0xAA#8]
  | .xor_e p => p.bytes ++ [0xAB#8]
  | .xor_h => [0xAC#8]
  | .xor_l => [0xAD#8]
  | .xor__hl => [0xAE#8]
  | .xor_a p => p.bytes ++ [0xAF#8]
  | .or_b p => p.bytes ++ [0xB0#8]
  | .or_c p => p.bytes ++ [0xB1#8]
  | .or_d p => p.bytes ++ [0xB2#8]
  | .or_e p => p.bytes ++ [0xB3#8]
  | .or_h => [0xB4#8]
  | .or_l => [0xB5#8]
  | .or__hl => [0xB6#8]
  | .or_a p => p.bytes ++ [0xB7#8]
  | .cp_b p => p.bytes ++ [0xB8#8]
  | .cp_c p => p.bytes ++ [0xB9#8]
  | .cp_d p => p.bytes ++ [0xBA#8]
  | .cp_e p => p.bytes ++ [0xBB#8]
  | .cp_h => [0xBC#8]
  | .cp_l => [0xBD#8]
  | .cp__hl => [0xBE#8]
  | .cp_a p => p.bytes ++ [0xBF#8]
  | .ret_nz p => p.bytes ++ [0xC0#8]
  | .pop_bc p => p.bytes ++ [0xC1#8]
  | .jp_nz_nn p nn => p.bytes ++ [0xC2#8, loByte nn, hiByte nn]
  | .jp_nn p nn => p.bytes ++ [0xC3#8, loByte nn, hiByte nn]
  | .call_nz_nn p nn => p.bytes ++ [0xC4#8, loByte nn, hiByte nn]
  | .push_bc p => p.bytes ++ [0xC5#8]
  | .add_a_n p n => p.bytes ++ [0xC6#8, n]
  | .rst_00h p => p.bytes ++ [0xC7#8]
  | .ret_z p => p.bytes ++ [0xC8#8]
  | .ret p => p.bytes ++ [0xC9#8]
  | .jp_z_nn p nn => p.bytes ++ [0xCA#8, loByte nn, hiByte nn]
  | .prefix_cb => [0xCB#8]
  | .call_z_nn p nn => p.bytes ++ [0xCC#8, loByte nn, hiByte nn]
  | .call_nn p nn => p.bytes ++ [0xCD#8, loByte nn, hiByte nn]
  | .adc_a_n p n => p.bytes ++ [0xCE#8, n]
  | .rst_08h p => p.bytes ++ [0xCF#8]
  | .ret_nc p => p.bytes ++ [0xD0#8]
  | .pop_de p => p.bytes ++ [0xD1#8]
  | .jp_nc_nn p nn => p.bytes ++ [0xD2#8, loByte nn, hiByte nn]
  | .out__n__a p n => p.bytes ++ [0xD3#8, n]
  | .call_nc_nn p nn => p.bytes ++ [0xD4#8, loByte nn, hiByte nn]
  | .push_de p => p.bytes ++ [0xD5#8]
  | .sub_n p n => p.bytes ++ [0xD6#8, n]
  | .rst_10h p => p.bytes ++ [0xD7#8]
  | .ret_c p => p.bytes ++ [0xD8#8]
  | .exx p => p.bytes ++ [0xD9#8]
  | .jp_c_nn p nn => p.bytes ++ [0xDA#8, loByte nn, hiByte nn]
  | .in_a__n p n => p.bytes ++ [0xDB#8, n]
  | .call_c_nn p nn => p.bytes ++ [0xDC#8, loByte nn, hiByte nn]
  | .prefix_dd => [0xDD#8]
  | .sbc_a_n p n => p.bytes ++ [0xDE#8, n]
  | .rst_18h p => p.bytes ++ [0xDF#8]
  | .ret_po p => p.bytes ++ [0xE0#8]
  | .pop_hl => [0xE1#8]
  | .jp_po_nn p nn => p.bytes ++ [0xE2#8, loByte nn, hiByte nn]
  | .ex__sp__hl => [0xE3#8]
  | .call_po_nn p nn => p.bytes ++ [0xE4#8, loByte nn, hiByte nn]
  | .push_hl => [0xE5#8]
  | .and_n p n => p.bytes ++ [0xE6#8, n]
  | .rst_20h p => p.bytes ++ [0xE7#8]
  | .ret_pe p => p.bytes ++ [0xE8#8]
  | .jp__hl => [0xE9#8]
  | .jp_pe_nn p nn => p.bytes ++ [0xEA#8, loByte nn, hiByte nn]
  | .ex_de_hl p => p.bytes ++ [0xEB#8]
  | .call_pe_nn p nn => p.bytes ++ [0xEC#8, loByte nn, hiByte nn]
  | .prefix_ed => [0xED#8]
  | .xor_n p n => p.bytes ++ [0xEE#8, n]
  | .rst_28h p => p.bytes ++ [0xEF#8]
  | .ret_p p => p.bytes ++ [0xF0#8]
  | .pop_af p => p.bytes ++ [0xF1#8]
  | .jp_p_nn p nn => p.bytes ++ [0xF2#8, loByte nn, hiByte nn]
  | .di p => p.bytes ++ [0xF3#8]
  | .call_p_nn p nn => p.bytes ++ [0xF4#8, loByte nn, hiByte nn]
  | .push_af p => p.bytes ++ [0xF5#8]
  | .or_n p n => p.bytes ++ [0xF6#8, n]
  | .rst_30h p => p.bytes ++ [0xF7#8]
  | .ret_m p => p.bytes ++ [0xF8#8]
  | .ld_sp_hl => [0xF9#8]
  | .jp_m_nn p nn => p.bytes ++ [0xFA#8, loByte nn, hiByte nn]
  | .ei p => p.bytes ++ [0xFB#8]
  | .call_m_nn p nn => p.bytes ++ [0xFC#8, loByte nn, hiByte nn]
  | .prefix_fd => [0xFD#8]
  | .cp_n p n => p.bytes ++ [0xFE#8, n]
  | .rst_38h p => p.bytes ++ [0xFF#8]
  | .rlc_b => [0xCB#8, 0x00#8]
  | .rlc_c => [0xCB#8, 0x01#8]
  | .rlc_d => [0xCB#8, 0x02#8]
  | .rlc_e => [0xCB#8, 0x03#8]
  | .rlc_h => [0xCB#8, 0x04#8]
  | .rlc_l => [0xCB#8, 0x05#8]
  | .rlc__hl => [0xCB#8, 0x06#8]
  | .rlc_a => [0xCB#8, 0x07#8]
  | .rrc_b => [0xCB#8, 0x08#8]
  | .rrc_c => [0xCB#8, 0x09#8]
  | .rrc_d => [0xCB#8, 0x0A#8]
  | .rrc_e => [0xCB#8, 0x0B#8]
  | .rrc_h => [0xCB#8, 0x0C#8]
  | .rrc_l => [0xCB#8, 0x0D#8]
  | .rrc__hl => [0xCB#8, 0x0E#8]
  | .rrc_a => [0xCB#8, 0x0F#8]
  | .rl_b => [0xCB#8, 0x10#8]
  | .rl_c => [0xCB#8, 0x11#8]
  | .rl_d => [0xCB#8, 0x12#8]
  | .rl_e => [0xCB#8, 0x13#8]
  | .rl_h => [0xCB#8, 0x14#8]
  | .rl_l => [0xCB#8, 0x15#8]
  | .rl__hl => [0xCB#8, 0x16#8]
  | .rl_a => [0xCB#8, 0x17#8]
  | .rr_b => [0xCB#8, 0x18#8]
  | .rr_c => [0xCB#8, 0x19#8]
  | .rr_d => [0xCB#8, 0x1A#8]
  | .rr_e => [0xCB#8, 0x1B#8]
  | .rr_h => [0xCB#8, 0x1C#8]
  | .rr_l => [0xCB#8, 0x1D#8]
  | .rr__hl => [0xCB#8, 0x1E#8]
  | .rr_a => [0xCB#8, 0x1F#8]
  | .sla_b => [0xCB#8, 0x20#8]
  | .sla_c => [0xCB#8, 0x21#8]
  | .sla_d => [0xCB#8, 0x22#8]
  | .sla_e => [0xCB#8, 0x23#8]
  | .sla_h => [0xCB#8, 0x24#8]
  | .sla_l => [0xCB#8, 0x25#8]
  | .sla__hl => [0xCB#8, 0x26#8]
  | .sla_a => [0xCB#8, 0x27#8]
  | .sra_b => [0xCB#8, 0x28#8]
  | .sra_c => [0xCB#8, 0x29#8]
  | .sra_d => [0xCB#8, 0x2A#8]
  | .sra_e => [0xCB#8, 0x2B#8]
  | .sra_h => [0xCB#8, 0x2C#8]
  | .sra_l => [0xCB#8, 0x2D#8]
  | .sra__hl => [0xCB#8, 0x2E#8]
  | .sra_a => [0xCB#8, 0x2F#8]
  | .sll_b => [0xCB#8, 0x30#8]
  | .sll_c => [0xCB#8, 0x31#8]
  | .sll_d => [0xCB#8, 0x32#8]
  | .sll_e => [0xCB#8, 0x33#8]
  | .sll_h => [0xCB#8, 0x34#8]
  | .sll_l => [0xCB#8, 0x35#8]
  | .sll__hl => [0xCB#8, 0x36#8]
  | .sll_a => [0xCB#8, 0x37#8]
  | .srl_b => [0xCB#8, 0x38#8]
  | .srl_c => [0xCB#8, 0x39#8]
  | .srl_d => [0xCB#8, 0x3A#8]
  | .srl_e => [0xCB#8, 0x3B#8]
  | .srl_h => [0xCB#8, 0x3C#8]
  | .srl_l => [0xCB#8, 0x3D#8]
  | .srl__hl => [0xCB#8, 0x3E#8]
  | .srl_a => [0xCB#8, 0x3F#8]
  | .bit_0_b => [0xCB#8, 0x40#8]
  | .bit_0_c => [0xCB#8, 0x41#8]
  | .bit_0_d => [0xCB#8, 0x42#8]
  | .bit_0_e => [0xCB#8, 0x43#8]
  | .bit_0_h => [0xCB#8, 0x44#8]
  | .bit_0_l => [0xCB#8, 0x45#8]
  | .bit_0__hl => [0xCB#8, 0x46#8]
  | .bit_0_a => [0xCB#8, 0x47#8]
  | .bit_1_b => [0xCB#8, 0x48#8]
  | .bit_1_c => [0xCB#8, 0x49#8]
  | .bit_1_d => [0xCB#8, 0x4A#8]
  | .bit_1_e => [0xCB#8, 0x4B#8]
  | .bit_1_h => [0xCB#8, 0x4C#8]
  | .bit_1_l => [0xCB#8, 0x4D#8]
  | .bit_1__hl => [0xCB#8, 0x4E#8]
  | .bit_1_a => [0xCB#8, 0x4F#8]
  | .bit_2_b => [0xCB#8, 0x50#8]
  | .bit_2_c => [0xCB#8, 0x51#8]
  | .bit_2_d => [0xCB#8, 0x52#8]
  | .bit_2_e => [0xCB#8, 0x53#8]
  | .bit_2_h => [0xCB#8, 0x54#8]
  | .bit_2_l => [0xCB#8, 0x55#8]
  | .bit_2__hl => [0xCB#8, 0x56#8]
  | .bit_2_a => [0xCB#8, 0x57#8]
  | .bit_3_b => [0xCB#8, 0x58#8]
  | .bit_3_c => [0xCB#8, 0x59#8]
  | .bit_3_d => [0xCB#8, 0x5A#8]
  | .bit_3_e => [0xCB#8, 0x5B#8]
  | .bit_3_h => [0xCB#8, 0x5C#8]
  | .bit_3_l => [0xCB#8, 0x5D#8]
  | .bit_3__hl => [0xCB#8, 0x5E#8]
  | .bit_3_a => [0xCB#8, 0x5F#8]
  | .bit_4_b => [0xCB#8, 0x60#8]
  | .bit_4_c => [0xCB#8, 0x61#8]
  | .bit_4_d => [0xCB#8, 0x62#8]
  | .bit_4_e => [0xCB#8, 0x63#8]
  | .bit_4_h => [0xCB#8, 0x64#8]
  | .bit_4_l => [0xCB#8, 0x65#8]
  | .bit_4__hl => [0xCB#8, 0x66#8]
  | .bit_4_a => [0xCB#8, 0x67#8]
  | .bit_5_b => [0xCB#8, 0x68#8]
  | .bit_5_c => [0xCB#8, 0x69#8]
  | .bit_5_d => [0xCB#8, 0x6A#8]
  | .bit_5_e => [0xCB#8, 0x6B#8]
  | .bit_5_h => [0xCB#8, 0x6C#8]
  | .bit_5_l => [0xCB#8, 0x6D#8]
  | .bit_5__hl => [0xCB#8, 0x6E#8]
  | .bit_5_a => [0xCB#8, 0x6F#8]
  | .bit_6_b => [0xCB#8, 0x70#8]
  | .bit_6_c => [0xCB#8, 0x71#8]
  | .bit_6_d => [0xCB#8, 0x72#8]
  | .bit_6_e => [0xCB#8, 0x73#8]
  | .bit_6_h => [0xCB#8, 0x74#8]
  | .bit_6_l => [0xCB#8, 0x75#8]
  | .bit_6__hl => [0xCB#8, 0x76#8]
  | .bit_6_a => [0xCB#8, 0x77#8]
  | .bit_7_b => [0xCB#8, 0x78#8]
  | .bit_7_c => [0xCB#8, 0x79#8]
  | .bit_7_d => [0xCB#8, 0x7A#8]
  | .bit_7_e => [0xCB#8, 0x7B#8]
  | .bit_7_h => [0xCB#8, 0x7C#8]
  | .bit_7_l => [0xCB#8, 0x7D#8]
  | .bit_7__hl => [0xCB#8, 0x7E#8]
  | .bit_7_a => [0xCB#8, 0x7F#8]
  | .res_0_b => [0xCB#8, 0x80#8]
  | .res_0_c => [0xCB#8, 0x81#8]
  | .res_0_d => [0xCB#8, 0x82#8]
  | .res_0_e => [0xCB#8, 0x83#8]
  | .res_0_h => [0xCB#8, 0x84#8]
  | .res_0_l => [0xCB#8, 0x85#8]
  | .res_0__hl => [0xCB#8, 0x86#8]
  | .res_0_a => [0xCB#8, 0x87#8]
  | .res_1_b => [0xCB#8, 0x88#8]
  | .res_1_c => [0xCB#8, 0x89#8]
  | .res_1_d => [0xCB#8, 0x8A#8]
  | .res_1_e => [0xCB#8, 0x8B#8]
  | .res_1_h => [0xCB#8, 0x8C#8]
  | .res_1_l => [0xCB#8, 0x8D#8]
  | .res_1__hl => [0xCB#8, 0x8E#8]
  | .res_1_a => [0xCB#8, 0x8F#8]
  | .res_2_b => [0xCB#8, 0x90#8]
  | .res_2_c => [0xCB#8, 0x91#8]
  | .res_2_d => [0xCB#8, 0x92#8]
  | .res_2_e => [0xCB#8, 0x93#8]
  | .res_2_h => [0xCB#8, 0x94#8]
  | .res_2_l => [0xCB#8, 0x95#8]
  | .res_2__hl => [0xCB#8, 0x96#8]
  | .res_2_a => [0xCB#8, 0x97#8]
  | .res_3_b => [0xCB#8, 0x98#8]
  | .res_3_c => [0xCB#8, 0x99#8]
  | .res_3_d => [0xCB#8, 0x9A#8]
  | .res_3_e => [0xCB#8, 0x9B#8]
  | .res_3_h => [0xCB#8, 0x9C#8]
  | .res_3_l => [0xCB#8, 0x9D#8]
  | .res_3__hl => [0xCB#8, 0x9E#8]
  | .res_3_a => [0xCB#8, 0x9F#8]
  | .res_4_b => [0xCB#8, 0xA0#8]
  | .res_4_c => [0xCB#8, 0xA1#8]
  | .res_4_d => [0xCB#8, 0xA2#8]
  | .res_4_e => [0xCB#8, 0xA3#8]
  | .res_4_h => [0xCB#8, 0xA4#8]
  | .res_4_l => [0xCB#8, 0xA5#8]
  | .res_4__hl => [0xCB#8, 0xA6#8]
  | .res_4_a => [0xCB#8, 0xA7#8]
  | .res_5_b => [0xCB#8, 0xA8#8]
  | .res_5_c => [0xCB#8, 0xA9#8]
  | .res_5_d => [0xCB#8, 0xAA#8]
  | .res_5_e => [0xCB#8, 0xAB#8]
  | .res_5_h => [0xCB#8, 0xAC#8]
  | .res_5_l => [0xCB#8, 0xAD#8]
  | .res_5__hl => [0xCB#8, 0xAE#8]
  | .res_5_a => [0xCB#8, 0xAF#8]
  | .res_6_b => [0xCB#8, 0xB0#8]
  | .res_6_c => [0xCB#8, 0xB1#8]
  | .res_6_d => [0xCB#8, 0xB2#8]
  | .res_6_e => [0xCB#8, 0xB3#8]
  | .res_6_h => [0xCB#8, 0xB4#8]
  | .res_6_l => [0xCB#8, 0xB5#8]
  | .res_6__hl => [0xCB#8, 0xB6#8]
  | .res_6_a => [0xCB#8, 0xB7#8]
  | .res_7_b => [0xCB#8, 0xB8#8]
  | .res_7_c => [0xCB#8, 0xB9#8]
  | .res_7_d => [0xCB#8, 0xBA#8]
  | .res_7_e => [0xCB#8, 0xBB#8]
  | .res_7_h => [0xCB#8, 0xBC#8]
  | .res_7_l => [0xCB#8, 0xBD#8]
  | .res_7__hl => [0xCB#8, 0xBE#8]
  | .res_7_a => [0xCB#8, 0xBF#8]
  | .set_0_b => [0xCB#8, 0xC0#8]
  | .set_0_c => [0xCB#8, 0xC1#8]
  | .set_0_d => [0xCB#8, 0xC2#8]
  | .set_0_e => [0xCB#8, 0xC3#8]
  | .set_0_h => [0xCB#8, 0xC4#8]
  | .set_0_l => [0xCB#8, 0xC5#8]
  | .set_0__hl => [0xCB#8, 0xC6#8]
  | .set_0_a => [0xCB#8, 0xC7#8]
  | .set_1_b => [0xCB#8, 0xC8#8]
  | .set_1_c => [0xCB#8, 0xC9#8]
  | .set_1_d => [0xCB#8, 0xCA#8]
  | .set_1_e => [0xCB#8, 0xCB#8]
  | .set_1_h => [0xCB#8, 0xCC#8]
  | .set_1_l => [0xCB#8, 0xCD#8]
  | .set_1__hl => [0xCB#8, 0xCE#8]
  | .set_1_a => [0xCB#8, 0xCF#8]
  | .set_2_b => [0xCB#8, 0xD0#8]
  | .set_2_c => [0xCB#8, 0xD1#8]
  | .set_2_d => [0xCB#8, 0xD2#8]
  | .set_2_e => [0xCB#8, 0xD3#8]
  | .set_2_h => [0xCB#8, 0xD4#8]
  | .set_2_l => [0xCB#8, 0xD5#8]
  | .set_2__hl => [0xCB#8, 0xD6#8]
  | .set_2_a => [0xCB#8, 0xD7#8]
  | .set_3_b => [0xCB#8, 0xD8#8]
  | .set_3_c => [0xCB#8, 0xD9#8]
  | .set_3_d => [0xCB#8, 0xDA#8]
  | .set_3_e => [0xCB#8, 0xDB#8]
  | .set_3_h => [0xCB#8, 0xDC#8]
  | .set_3_l => [0xCB#8, 0xDD#8]
  | .set_3__hl => [0xCB#8, 0xDE#8]
  | .set_3_a => [0xCB#8, 0xDF#8]
  | .set_4_b => [0xCB#8, 0xE0#8]
  | .set_4_c => [0xCB#8, 0xE1#8]
  | .set_4_d => [0xCB#8, 0xE2#8]
  | .set_4_e => [0xCB#8, 0xE3#8]
  | .set_4_h => [0xCB#8, 0xE4#8]
  | .set_4_l => [0xCB#8, 0xE5#8]
  | .set_4__hl => [0xCB#8, 0xE6#8]
  | .set_4_a => [0xCB#8, 0xE7#8]
  | .set_5_b => [0xCB#8, 0xE8#8]
  | .set_5_c => [0xCB#8, 0xE9#8]
  | .set_5_d => [0xCB#8, 0xEA#8]
  | .set_5_e => [0xCB#8, 0xEB#8]
  | .set_5_h => [0xCB#8, 0xEC#8]
  | .set_5_l => [0xCB#8, 0xED#8]
  | .set_5__hl => [0xCB#8, 0xEE#8]
  | .set_5_a => [0xCB#8, 0xEF#8]
  | .set_6_b => [0xCB#8, 0xF0#8]
  | .set_6_c => [0xCB#8, 0xF1#8]
  | .set_6_d => [0xCB#8, 0xF2#8]
  | .set_6_e => [0xCB#8, 0xF3#8]
  | .set_6_h => [0xCB#8, 0xF4#8]
  | .set_6_l => [0xCB#8, 0xF5#8]
  | .set_6__hl => [0xCB#8, 0xF6#8]
  | .set_6_a => [0xCB#8, 0xF7#8]
  | .set_7_b => [0xCB#8, 0xF8#8]
  | .set_7_c => [0xCB#8, 0xF9#8]
  | .set_7_d => [0xCB#8, 0xFA#8]
  | .set_7_e => [0xCB#8, 0xFB#8]
  | .set_7_h => [0xCB#8, 0xFC#8]
  | .set_7_l => [0xCB#8, 0xFD#8]
  | .set_7__hl => [0xCB#8, 0xFE#8]
  | .set_7_a => [0xCB#8, 0xFF#8]
  | .nop__ed op => [0xED#8, op]
  | .in_b__c => [0xED#8, 0x40#8]
  | .out__c__b => [0xED#8, 0x41#8]
  | .sbc_hl_bc => [0xED#8, 0x42#8]
  | .ld__nn__bc nn => [0xED#8, 0x43#8, loByte nn, hiByte nn]
  | .neg op => [0xED#8, op]
  | .retn op => [0xED#8, op]
  | .im_0 op => [0xED#8, op]
  | .ld_i_a => [0xED#8, 0x47#8]
  | .in_c__c => [0xED#8, 0x48#8]
  | .out__c__c => [0xED#8, 0x49#8]
  | .adc_hl_bc => [0xED#8, 0x4A#8]
  | .ld_bc__nn nn => [0xED#8, 0x4B#8, loByte nn, hiByte nn]
  | .reti => [0xED#8, 0x4D#8]
  | .ld_r_a => [0xED#8, 0x4F#8]
  | .in_d__c => [0xED#8, 0x50#8]
  | .out__c__d => [0xED#8, 0x51#8]
  | .sbc_hl_de => [0xED#8, 0x52#8]
  | .ld__nn__de nn => [0xED#8, 0x53#8, loByte nn, hiByte nn]
  | .im_1 op => [0xED#8, op]
  | .ld_a_i => [0xED#8, 0x57#8]
  | .in_e__c => [0xED#8, 0x58#8]
  | .out__c__e => [0xED#8, 0x59#8]
  | .adc_hl_de => [0xED#8, 0x5A#8]
  | .ld_de__nn nn => [0xED#8, 0x5B#8, loByte nn, hiByte nn]
  | .im_2 op => [0xED#8, op]
  | .ld_a_r => [0xED#8, 0x5F#8]
  | .in_h__c => [0xED#8, 0x60#8]
  | .out__c__h => [0xED#8, 0x61#8]
  | .sbc_hl_hl => [0xED#8, 0x62#8]
  | .ld__nn__hl_ed nn => [0xED#8, 0x63#8, loByte nn, hiByte nn]
  | .rrd => [0xED#8, 0x67#8]
  | .in_l__c => [0xED#8, 0x68#8]
  | .out__c__l => [0xED#8, 0x69#8]
  | .adc_hl_hl => [0xED#8, 0x6A#8]
  | .ld_hl__nn_ed nn => [0xED#8, 0x6B#8, loByte nn, hiByte nn]
  | .rld => [0xED#8, 0x6F#8]
  | .in_f__c => [0xED#8, 0x70#8]
  | .out__c__0 => [0xED#8, 0x71#8]
  | .sbc_hl_sp => [0xED#8, 0x72#8]
  | .ld__nn__sp nn => [0xED#8, 0x73#8, loByte nn, hiByte nn]
  | .in_a__c => [0xED#8, 0x78#8]
  | .out__c__a => [0xED#8, 0x79#8]
  | .adc_hl_sp => [0xED#8, 0x7A#8]
  | .ld_sp__nn nn => [0xED#8, 0x7B#8, loByte nn, hiByte nn]
  | .ldi => [0xED#8, 0xA0#8]
  | .cpi => [0xED#8, 0xA1#8]
  | .ini => [0xED#8, 0xA2#8]
  | .outi => [0xED#8, 0xA3#8]
  | .ldd => [0xED#8, 0xA8#8]
  | .cpd => [0xED#8, 0xA9#8]
  | .ind => [0xED#8, 0xAA#8]
  | .outd => [0xED#8, 0xAB#8]
  | .ldir => [0xED#8, 0xB0#8]
  | .cpir => [0xED#8, 0xB1#8]
  | .inir => [0xED#8, 0xB2#8]
  | .otir => [0xED#8, 0xB3#8]
  | .lddr => [0xED#8, 0xB8#8]
  | .cpdr => [0xED#8, 0xB9#8]
  | .indr => [0xED#8, 0xBA#8]
  | .otdr => [0xED#8, 0xBB#8]
  | .add_ix_bc => [0xDD#8, 0x09#8]
  | .add_ix_de => [0xDD#8, 0x19#8]
  | .ld_ix_nn nn => [0xDD#8, 0x21#8, loByte nn, hiByte nn]
  | .ld__nn__ix nn => [0xDD#8, 0x22#8, loByte nn, hiByte nn]
  | .inc_ix => [0xDD#8, 0x23#8]
  | .inc_ixh => [0xDD#8, 0x24#8]
  | .dec_ixh => [0xDD#8, 0x25#8]
  | .ld_ixh_n n => [0xDD#8, 0x26#8, n]
  | .add_ix_ix => [0xDD#8, 0x29#8]
  | .ld_ix__nn nn => [0xDD#8, 0x2A#8, loByte nn, hiByte nn]
  | .dec_ix => [0xDD#8, 0x2B#8]
  | .inc_ixl => [0xDD#8, 0x2C#8]
  | .dec_ixl => [0xDD#8, 0x2D#8]
  | .ld_ixl_n n => [0xDD#8, 0x2E#8, n]
  | .inc__ixd d => [0xDD#8, 0x34#8, d]
  | .dec__ixd d => [0xDD#8, 0x35#8, d]
  | .ld__ixd__n d n => [0xDD#8, 0x36#8, d, n]
  | .add_ix_sp => [0xDD#8, 0x39#8]
  | .ld_b_ixh => [0xDD#8, 0x44#8]
  | .ld_b_ixl => [0xDD#8, 0x45#8]
  | .ld_b__ixd d => [0xDD#8, 0x46#8, d]
  | .ld_c_ixh => [0xDD#8, 0x4C#8]
  | .ld_c_ixl => [0xDD#8, 0x4D#8]
  | .ld_c__ixd d => [0xDD#8, 0x4E#8, d]
  | .ld_d_ixh => [0xDD#8, 0x54#8]
  | .ld_d_ixl => [0xDD#8, 0x55#8]
  | .ld_d__ixd d => [0xDD#8, 0x56#8, d]
  | .ld_e_ixh => [0xDD#8, 0x5C#8]
  | .ld_e_ixl => [0xDD#8, 0x5D#8]
  | .ld_e__ixd d => [0xDD#8, 0x5E#8, d]
  | .ld_ixh_b => [0xDD#8, 0x60#8]
  | .ld_ixh_c => [0xDD#8, 0x61#8]
  | .ld_ixh_d => [0xDD#8, 0x62#8]
  | .ld_ixh_e => [0xDD#8, 0x63#8]
  | .ld_ixh_ixh => [0xDD#8, 0x64#8]
  | .ld_ixh_ixl => [0xDD#8, 0x65#8]
  | .ld_h__ixd d => [0xDD#8, 0x66#8, d]
  | .ld_ixh_a => [0xDD#8, 0x67#8]
  | .ld_ixl_b => [0xDD#8, 0x68#8]
  | .ld_ixl_c => [0xDD#8, 0x69#8]
  | .ld_ixl_d => [0xDD#8, 0x6A#8]
  | .ld_ixl_e => [0xDD#8, 0x6B#8]
  | .ld_ixl_ixh => [0xDD#8, 0x6C#8]
  | .ld_ixl_ixl => [0xDD#8, 0x6D#8]
  | .ld_l__ixd d => [0xDD#8, 0x6E#8, d]
  | .ld_ixl_a => [0xDD#8, 0x6F#8]
  | .ld__ixd__b d => [0xDD#8, 0x70#8, d]
  | .ld__ixd__c d => [0xDD#8, 0x71#8, d]
  | .ld__ixd__d d => [0xDD#8, 0x72#8, d]
  | .ld__ixd__e d => [0xDD#8, 0x73#8, d]
  | .ld__ixd__h d => [0xDD#8, 0x74#8, d]
  | .ld__ixd__l d => [0xDD#8, 0x75#8, d]
  | .ld__ixd__a d => [0xDD#8, 0x77#8, d]
  | .ld_a_ixh => [0xDD#8, 0x7C#8]
  | .ld_a_ixl => [0xDD#8, 0x7D#8]
  | .ld_a__ixd d => [0xDD#8, 0x7E#8, d]
  | .add_a_ixh => [0xDD#8, 0x84#8]
  | .add_a_ixl => [0xDD#8, 0x85#8]
  | .add_a__ixd d => [0xDD#8, 0x86#8, d]
  | .adc_a_ixh => [0xDD#8, 0x8C#8]
  | .adc_a_ixl => [0xDD#8, 0x8D#8]
  | .adc_a__ixd d => [0xDD#8, 0x8E#8, d]
  | .sub_ixh => [0xDD#8, 0x94#8]
  | .sub_ixl => [0xDD#8, 0x95#8]
  | .sub__ixd d => [0xDD#8, 0x96#8, d]
  | .sbc_a_ixh => [0xDD#8, 0x9C#8]
  | .sbc_a_ixl => [0xDD#8, 0x9D#8]
  | .sbc_a__ixd d => [0xDD#8, 0x9E#8, d]
  | .and_ixh => [0xDD#8, 0xA4#8]
  | .and_ixl => [0xDD#8, 0xA5#8]
  | .and__ixd d => [0xDD#8, 0xA6#8, d]
  | .xor_ixh => [0xDD#8, 0xAC#8]
  | .xor_ixl => [0xDD#8, 0xAD#8]
  | .xor__ixd d => [0xDD#8, 0xAE#8, d]
  | .or_ixh => [0xDD#8, 0xB4#8]
  | .or_ixl => [0xDD#8, 0xB5#8]
  | .or__ixd d => [0xDD#8, 0xB6#8, d]
  | .cp_ixh => [0xDD#8, 0xBC#8]
  | .cp_ixl => [0xDD#8, 0xBD#8]
  | .cp__ixd d => [0xDD#8, 0xBE#8, d]
  | .prefix_ddcb => [0xDD#8, 0xCB#8]
  | .prefix_dd__supersedes x => [x.byte, 0xDD#8]
  | .pop_ix => [0xDD#8, 0xE1#8]
  | .ex__sp__ix => [0xDD#8, 0xE3#8]
  | .push_ix => [0xDD#8, 0xE5#8]
  | .jp__ix => [0xDD#8, 0xE9#8]
  | .prefix_ed__index_prefix_dropped x => [x.byte, 0xED#8]
  | .ld_sp_ix => [0xDD#8, 0xF9#8]
  | .prefix_fd__supersedes x => [x.byte, 0xFD#8]
  | .add_iy_bc => [0xFD#8, 0x09#8]
  | .add_iy_de => [0xFD#8, 0x19#8]
  | .ld_iy_nn nn => [0xFD#8, 0x21#8, loByte nn, hiByte nn]
  | .ld__nn__iy nn => [0xFD#8, 0x22#8, loByte nn, hiByte nn]
  | .inc_iy => [0xFD#8, 0x23#8]
  | .inc_iyh => [0xFD#8, 0x24#8]
  | .dec_iyh => [0xFD#8, 0x25#8]
  | .ld_iyh_n n => [0xFD#8, 0x26#8, n]
  | .add_iy_iy => [0xFD#8, 0x29#8]
  | .ld_iy__nn nn => [0xFD#8, 0x2A#8, loByte nn, hiByte nn]
  | .dec_iy => [0xFD#8, 0x2B#8]
  | .inc_iyl => [0xFD#8, 0x2C#8]
  | .dec_iyl => [0xFD#8, 0x2D#8]
  | .ld_iyl_n n => [0xFD#8, 0x2E#8, n]
  | .inc__iyd d => [0xFD#8, 0x34#8, d]
  | .dec__iyd d => [0xFD#8, 0x35#8, d]
  | .ld__iyd__n d n => [0xFD#8, 0x36#8, d, n]
  | .add_iy_sp => [0xFD#8, 0x39#8]
  | .ld_b_iyh => [0xFD#8, 0x44#8]
  | .ld_b_iyl => [0xFD#8, 0x45#8]
  | .ld_b__iyd d => [0xFD#8, 0x46#8, d]
  | .ld_c_iyh => [0xFD#8, 0x4C#8]
  | .ld_c_iyl => [0xFD#8, 0x4D#8]
  | .ld_c__iyd d => [0xFD#8, 0x4E#8, d]
  | .ld_d_iyh => [0xFD#8, 0x54#8]
  | .ld_d_iyl => [0xFD#8, 0x55#8]
  | .ld_d__iyd d => [0xFD#8, 0x56#8, d]
  | .ld_e_iyh => [0xFD#8, 0x5C#8]
  | .ld_e_iyl => [0xFD#8, 0x5D#8]
  | .ld_e__iyd d => [0xFD#8, 0x5E#8, d]
  | .ld_iyh_b => [0xFD#8, 0x60#8]
  | .ld_iyh_c => [0xFD#8, 0x61#8]
  | .ld_iyh_d => [0xFD#8, 0x62#8]
  | .ld_iyh_e => [0xFD#8, 0x63#8]
  | .ld_iyh_iyh => [0xFD#8, 0x64#8]
  | .ld_iyh_iyl => [0xFD#8, 0x65#8]
  | .ld_h__iyd d => [0xFD#8, 0x66#8, d]
  | .ld_iyh_a => [0xFD#8, 0x67#8]
  | .ld_iyl_b => [0xFD#8, 0x68#8]
  | .ld_iyl_c => [0xFD#8, 0x69#8]
  | .ld_iyl_d => [0xFD#8, 0x6A#8]
  | .ld_iyl_e => [0xFD#8, 0x6B#8]
  | .ld_iyl_iyh => [0xFD#8, 0x6C#8]
  | .ld_iyl_iyl => [0xFD#8, 0x6D#8]
  | .ld_l__iyd d => [0xFD#8, 0x6E#8, d]
  | .ld_iyl_a => [0xFD#8, 0x6F#8]
  | .ld__iyd__b d => [0xFD#8, 0x70#8, d]
  | .ld__iyd__c d => [0xFD#8, 0x71#8, d]
  | .ld__iyd__d d => [0xFD#8, 0x72#8, d]
  | .ld__iyd__e d => [0xFD#8, 0x73#8, d]
  | .ld__iyd__h d => [0xFD#8, 0x74#8, d]
  | .ld__iyd__l d => [0xFD#8, 0x75#8, d]
  | .ld__iyd__a d => [0xFD#8, 0x77#8, d]
  | .ld_a_iyh => [0xFD#8, 0x7C#8]
  | .ld_a_iyl => [0xFD#8, 0x7D#8]
  | .ld_a__iyd d => [0xFD#8, 0x7E#8, d]
  | .add_a_iyh => [0xFD#8, 0x84#8]
  | .add_a_iyl => [0xFD#8, 0x85#8]
  | .add_a__iyd d => [0xFD#8, 0x86#8, d]
  | .adc_a_iyh => [0xFD#8, 0x8C#8]
  | .adc_a_iyl => [0xFD#8, 0x8D#8]
  | .adc_a__iyd d => [0xFD#8, 0x8E#8, d]
  | .sub_iyh => [0xFD#8, 0x94#8]
  | .sub_iyl => [0xFD#8, 0x95#8]
  | .sub__iyd d => [0xFD#8, 0x96#8, d]
  | .sbc_a_iyh => [0xFD#8, 0x9C#8]
  | .sbc_a_iyl => [0xFD#8, 0x9D#8]
  | .sbc_a__iyd d => [0xFD#8, 0x9E#8, d]
  | .and_iyh => [0xFD#8, 0xA4#8]
  | .and_iyl => [0xFD#8, 0xA5#8]
  | .and__iyd d => [0xFD#8, 0xA6#8, d]
  | .xor_iyh => [0xFD#8, 0xAC#8]
  | .xor_iyl => [0xFD#8, 0xAD#8]
  | .xor__iyd d => [0xFD#8, 0xAE#8, d]
  | .or_iyh => [0xFD#8, 0xB4#8]
  | .or_iyl => [0xFD#8, 0xB5#8]
  | .or__iyd d => [0xFD#8, 0xB6#8, d]
  | .cp_iyh => [0xFD#8, 0xBC#8]
  | .cp_iyl => [0xFD#8, 0xBD#8]
  | .cp__iyd d => [0xFD#8, 0xBE#8, d]
  | .prefix_fdcb => [0xFD#8, 0xCB#8]
  | .pop_iy => [0xFD#8, 0xE1#8]
  | .ex__sp__iy => [0xFD#8, 0xE3#8]
  | .push_iy => [0xFD#8, 0xE5#8]
  | .jp__iy => [0xFD#8, 0xE9#8]
  | .ld_sp_iy => [0xFD#8, 0xF9#8]
  | .rlc__ixd__b d => [0xDD#8, 0xCB#8, d, 0x00#8]
  | .rlc__ixd__c d => [0xDD#8, 0xCB#8, d, 0x01#8]
  | .rlc__ixd__d d => [0xDD#8, 0xCB#8, d, 0x02#8]
  | .rlc__ixd__e d => [0xDD#8, 0xCB#8, d, 0x03#8]
  | .rlc__ixd__h d => [0xDD#8, 0xCB#8, d, 0x04#8]
  | .rlc__ixd__l d => [0xDD#8, 0xCB#8, d, 0x05#8]
  | .rlc__ixd d => [0xDD#8, 0xCB#8, d, 0x06#8]
  | .rlc__ixd__a d => [0xDD#8, 0xCB#8, d, 0x07#8]
  | .rrc__ixd__b d => [0xDD#8, 0xCB#8, d, 0x08#8]
  | .rrc__ixd__c d => [0xDD#8, 0xCB#8, d, 0x09#8]
  | .rrc__ixd__d d => [0xDD#8, 0xCB#8, d, 0x0A#8]
  | .rrc__ixd__e d => [0xDD#8, 0xCB#8, d, 0x0B#8]
  | .rrc__ixd__h d => [0xDD#8, 0xCB#8, d, 0x0C#8]
  | .rrc__ixd__l d => [0xDD#8, 0xCB#8, d, 0x0D#8]
  | .rrc__ixd d => [0xDD#8, 0xCB#8, d, 0x0E#8]
  | .rrc__ixd__a d => [0xDD#8, 0xCB#8, d, 0x0F#8]
  | .rl__ixd__b d => [0xDD#8, 0xCB#8, d, 0x10#8]
  | .rl__ixd__c d => [0xDD#8, 0xCB#8, d, 0x11#8]
  | .rl__ixd__d d => [0xDD#8, 0xCB#8, d, 0x12#8]
  | .rl__ixd__e d => [0xDD#8, 0xCB#8, d, 0x13#8]
  | .rl__ixd__h d => [0xDD#8, 0xCB#8, d, 0x14#8]
  | .rl__ixd__l d => [0xDD#8, 0xCB#8, d, 0x15#8]
  | .rl__ixd d => [0xDD#8, 0xCB#8, d, 0x16#8]
  | .rl__ixd__a d => [0xDD#8, 0xCB#8, d, 0x17#8]
  | .rr__ixd__b d => [0xDD#8, 0xCB#8, d, 0x18#8]
  | .rr__ixd__c d => [0xDD#8, 0xCB#8, d, 0x19#8]
  | .rr__ixd__d d => [0xDD#8, 0xCB#8, d, 0x1A#8]
  | .rr__ixd__e d => [0xDD#8, 0xCB#8, d, 0x1B#8]
  | .rr__ixd__h d => [0xDD#8, 0xCB#8, d, 0x1C#8]
  | .rr__ixd__l d => [0xDD#8, 0xCB#8, d, 0x1D#8]
  | .rr__ixd d => [0xDD#8, 0xCB#8, d, 0x1E#8]
  | .rr__ixd__a d => [0xDD#8, 0xCB#8, d, 0x1F#8]
  | .sla__ixd__b d => [0xDD#8, 0xCB#8, d, 0x20#8]
  | .sla__ixd__c d => [0xDD#8, 0xCB#8, d, 0x21#8]
  | .sla__ixd__d d => [0xDD#8, 0xCB#8, d, 0x22#8]
  | .sla__ixd__e d => [0xDD#8, 0xCB#8, d, 0x23#8]
  | .sla__ixd__h d => [0xDD#8, 0xCB#8, d, 0x24#8]
  | .sla__ixd__l d => [0xDD#8, 0xCB#8, d, 0x25#8]
  | .sla__ixd d => [0xDD#8, 0xCB#8, d, 0x26#8]
  | .sla__ixd__a d => [0xDD#8, 0xCB#8, d, 0x27#8]
  | .sra__ixd__b d => [0xDD#8, 0xCB#8, d, 0x28#8]
  | .sra__ixd__c d => [0xDD#8, 0xCB#8, d, 0x29#8]
  | .sra__ixd__d d => [0xDD#8, 0xCB#8, d, 0x2A#8]
  | .sra__ixd__e d => [0xDD#8, 0xCB#8, d, 0x2B#8]
  | .sra__ixd__h d => [0xDD#8, 0xCB#8, d, 0x2C#8]
  | .sra__ixd__l d => [0xDD#8, 0xCB#8, d, 0x2D#8]
  | .sra__ixd d => [0xDD#8, 0xCB#8, d, 0x2E#8]
  | .sra__ixd__a d => [0xDD#8, 0xCB#8, d, 0x2F#8]
  | .sll__ixd__b d => [0xDD#8, 0xCB#8, d, 0x30#8]
  | .sll__ixd__c d => [0xDD#8, 0xCB#8, d, 0x31#8]
  | .sll__ixd__d d => [0xDD#8, 0xCB#8, d, 0x32#8]
  | .sll__ixd__e d => [0xDD#8, 0xCB#8, d, 0x33#8]
  | .sll__ixd__h d => [0xDD#8, 0xCB#8, d, 0x34#8]
  | .sll__ixd__l d => [0xDD#8, 0xCB#8, d, 0x35#8]
  | .sll__ixd d => [0xDD#8, 0xCB#8, d, 0x36#8]
  | .sll__ixd__a d => [0xDD#8, 0xCB#8, d, 0x37#8]
  | .srl__ixd__b d => [0xDD#8, 0xCB#8, d, 0x38#8]
  | .srl__ixd__c d => [0xDD#8, 0xCB#8, d, 0x39#8]
  | .srl__ixd__d d => [0xDD#8, 0xCB#8, d, 0x3A#8]
  | .srl__ixd__e d => [0xDD#8, 0xCB#8, d, 0x3B#8]
  | .srl__ixd__h d => [0xDD#8, 0xCB#8, d, 0x3C#8]
  | .srl__ixd__l d => [0xDD#8, 0xCB#8, d, 0x3D#8]
  | .srl__ixd d => [0xDD#8, 0xCB#8, d, 0x3E#8]
  | .srl__ixd__a d => [0xDD#8, 0xCB#8, d, 0x3F#8]
  | .bit_0__ixd z d => [0xDD#8, 0xCB#8, d, bitCode 0x40#8 z]
  | .bit_1__ixd z d => [0xDD#8, 0xCB#8, d, bitCode 0x48#8 z]
  | .bit_2__ixd z d => [0xDD#8, 0xCB#8, d, bitCode 0x50#8 z]
  | .bit_3__ixd z d => [0xDD#8, 0xCB#8, d, bitCode 0x58#8 z]
  | .bit_4__ixd z d => [0xDD#8, 0xCB#8, d, bitCode 0x60#8 z]
  | .bit_5__ixd z d => [0xDD#8, 0xCB#8, d, bitCode 0x68#8 z]
  | .bit_6__ixd z d => [0xDD#8, 0xCB#8, d, bitCode 0x70#8 z]
  | .bit_7__ixd z d => [0xDD#8, 0xCB#8, d, bitCode 0x78#8 z]
  | .res_0__ixd__b d => [0xDD#8, 0xCB#8, d, 0x80#8]
  | .res_0__ixd__c d => [0xDD#8, 0xCB#8, d, 0x81#8]
  | .res_0__ixd__d d => [0xDD#8, 0xCB#8, d, 0x82#8]
  | .res_0__ixd__e d => [0xDD#8, 0xCB#8, d, 0x83#8]
  | .res_0__ixd__h d => [0xDD#8, 0xCB#8, d, 0x84#8]
  | .res_0__ixd__l d => [0xDD#8, 0xCB#8, d, 0x85#8]
  | .res_0__ixd d => [0xDD#8, 0xCB#8, d, 0x86#8]
  | .res_0__ixd__a d => [0xDD#8, 0xCB#8, d, 0x87#8]
  | .res_1__ixd__b d => [0xDD#8, 0xCB#8, d, 0x88#8]
  | .res_1__ixd__c d => [0xDD#8, 0xCB#8, d, 0x89#8]
  | .res_1__ixd__d d => [0xDD#8, 0xCB#8, d, 0x8A#8]
  | .res_1__ixd__e d => [0xDD#8, 0xCB#8, d, 0x8B#8]
  | .res_1__ixd__h d => [0xDD#8, 0xCB#8, d, 0x8C#8]
  | .res_1__ixd__l d => [0xDD#8, 0xCB#8, d, 0x8D#8]
  | .res_1__ixd d => [0xDD#8, 0xCB#8, d, 0x8E#8]
  | .res_1__ixd__a d => [0xDD#8, 0xCB#8, d, 0x8F#8]
  | .res_2__ixd__b d => [0xDD#8, 0xCB#8, d, 0x90#8]
  | .res_2__ixd__c d => [0xDD#8, 0xCB#8, d, 0x91#8]
  | .res_2__ixd__d d => [0xDD#8, 0xCB#8, d, 0x92#8]
  | .res_2__ixd__e d => [0xDD#8, 0xCB#8, d, 0x93#8]
  | .res_2__ixd__h d => [0xDD#8, 0xCB#8, d, 0x94#8]
  | .res_2__ixd__l d => [0xDD#8, 0xCB#8, d, 0x95#8]
  | .res_2__ixd d => [0xDD#8, 0xCB#8, d, 0x96#8]
  | .res_2__ixd__a d => [0xDD#8, 0xCB#8, d, 0x97#8]
  | .res_3__ixd__b d => [0xDD#8, 0xCB#8, d, 0x98#8]
  | .res_3__ixd__c d => [0xDD#8, 0xCB#8, d, 0x99#8]
  | .res_3__ixd__d d => [0xDD#8, 0xCB#8, d, 0x9A#8]
  | .res_3__ixd__e d => [0xDD#8, 0xCB#8, d, 0x9B#8]
  | .res_3__ixd__h d => [0xDD#8, 0xCB#8, d, 0x9C#8]
  | .res_3__ixd__l d => [0xDD#8, 0xCB#8, d, 0x9D#8]
  | .res_3__ixd d => [0xDD#8, 0xCB#8, d, 0x9E#8]
  | .res_3__ixd__a d => [0xDD#8, 0xCB#8, d, 0x9F#8]
  | .res_4__ixd__b d => [0xDD#8, 0xCB#8, d, 0xA0#8]
  | .res_4__ixd__c d => [0xDD#8, 0xCB#8, d, 0xA1#8]
  | .res_4__ixd__d d => [0xDD#8, 0xCB#8, d, 0xA2#8]
  | .res_4__ixd__e d => [0xDD#8, 0xCB#8, d, 0xA3#8]
  | .res_4__ixd__h d => [0xDD#8, 0xCB#8, d, 0xA4#8]
  | .res_4__ixd__l d => [0xDD#8, 0xCB#8, d, 0xA5#8]
  | .res_4__ixd d => [0xDD#8, 0xCB#8, d, 0xA6#8]
  | .res_4__ixd__a d => [0xDD#8, 0xCB#8, d, 0xA7#8]
  | .res_5__ixd__b d => [0xDD#8, 0xCB#8, d, 0xA8#8]
  | .res_5__ixd__c d => [0xDD#8, 0xCB#8, d, 0xA9#8]
  | .res_5__ixd__d d => [0xDD#8, 0xCB#8, d, 0xAA#8]
  | .res_5__ixd__e d => [0xDD#8, 0xCB#8, d, 0xAB#8]
  | .res_5__ixd__h d => [0xDD#8, 0xCB#8, d, 0xAC#8]
  | .res_5__ixd__l d => [0xDD#8, 0xCB#8, d, 0xAD#8]
  | .res_5__ixd d => [0xDD#8, 0xCB#8, d, 0xAE#8]
  | .res_5__ixd__a d => [0xDD#8, 0xCB#8, d, 0xAF#8]
  | .res_6__ixd__b d => [0xDD#8, 0xCB#8, d, 0xB0#8]
  | .res_6__ixd__c d => [0xDD#8, 0xCB#8, d, 0xB1#8]
  | .res_6__ixd__d d => [0xDD#8, 0xCB#8, d, 0xB2#8]
  | .res_6__ixd__e d => [0xDD#8, 0xCB#8, d, 0xB3#8]
  | .res_6__ixd__h d => [0xDD#8, 0xCB#8, d, 0xB4#8]
  | .res_6__ixd__l d => [0xDD#8, 0xCB#8, d, 0xB5#8]
  | .res_6__ixd d => [0xDD#8, 0xCB#8, d, 0xB6#8]
  | .res_6__ixd__a d => [0xDD#8, 0xCB#8, d, 0xB7#8]
  | .res_7__ixd__b d => [0xDD#8, 0xCB#8, d, 0xB8#8]
  | .res_7__ixd__c d => [0xDD#8, 0xCB#8, d, 0xB9#8]
  | .res_7__ixd__d d => [0xDD#8, 0xCB#8, d, 0xBA#8]
  | .res_7__ixd__e d => [0xDD#8, 0xCB#8, d, 0xBB#8]
  | .res_7__ixd__h d => [0xDD#8, 0xCB#8, d, 0xBC#8]
  | .res_7__ixd__l d => [0xDD#8, 0xCB#8, d, 0xBD#8]
  | .res_7__ixd d => [0xDD#8, 0xCB#8, d, 0xBE#8]
  | .res_7__ixd__a d => [0xDD#8, 0xCB#8, d, 0xBF#8]
  | .set_0__ixd__b d => [0xDD#8, 0xCB#8, d, 0xC0#8]
  | .set_0__ixd__c d => [0xDD#8, 0xCB#8, d, 0xC1#8]
  | .set_0__ixd__d d => [0xDD#8, 0xCB#8, d, 0xC2#8]
  | .set_0__ixd__e d => [0xDD#8, 0xCB#8, d, 0xC3#8]
  | .set_0__ixd__h d => [0xDD#8, 0xCB#8, d, 0xC4#8]
  | .set_0__ixd__l d => [0xDD#8, 0xCB#8, d, 0xC5#8]
  | .set_0__ixd d => [0xDD#8, 0xCB#8, d, 0xC6#8]
  | .set_0__ixd__a d => [0xDD#8, 0xCB#8, d, 0xC7#8]
  | .set_1__ixd__b d => [0xDD#8, 0xCB#8, d, 0xC8#8]
  | .set_1__ixd__c d => [0xDD#8, 0xCB#8, d, 0xC9#8]
  | .set_1__ixd__d d => [0xDD#8, 0xCB#8, d, 0xCA#8]
  | .set_1__ixd__e d => [0xDD#8, 0xCB#8, d, 0xCB#8]
  | .set_1__ixd__h d => [0xDD#8, 0xCB#8, d, 0xCC#8]
  | .set_1__ixd__l d => [0xDD#8, 0xCB#8, d, 0xCD#8]
  | .set_1__ixd d => [0xDD#8, 0xCB#8, d, 0xCE#8]
  | .set_1__ixd__a d => [0xDD#8, 0xCB#8, d, 0xCF#8]
  | .set_2__ixd__b d => [0xDD#8, 0xCB#8, d, 0xD0#8]
  | .set_2__ixd__c d => [0xDD#8, 0xCB#8, d, 0xD1#8]
  | .set_2__ixd__d d => [0xDD#8, 0xCB#8, d, 0xD2#8]
  | .set_2__ixd__e d => [0xDD#8, 0xCB#8, d, 0xD3#8]
  | .set_2__ixd__h d => [0xDD#8, 0xCB#8, d, 0xD4#8]
  | .set_2__ixd__l d => [0xDD#8, 0xCB#8, d, 0xD5#8]
  | .set_2__ixd d => [0xDD#8, 0xCB#8, d, 0xD6#8]
  | .set_2__ixd__a d => [0xDD#8, 0xCB#8, d, 0xD7#8]
  | .set_3__ixd__b d => [0xDD#8, 0xCB#8, d, 0xD8#8]
  | .set_3__ixd__c d => [0xDD#8, 0xCB#8, d, 0xD9#8]
  | .set_3__ixd__d d => [0xDD#8, 0xCB#8, d, 0xDA#8]
  | .set_3__ixd__e d => [0xDD#8, 0xCB#8, d, 0xDB#8]
  | .set_3__ixd__h d => [0xDD#8, 0xCB#8, d, 0xDC#8]
  | .set_3__ixd__l d => [0xDD#8, 0xCB#8, d, 0xDD#8]
  | .set_3__ixd d => [0xDD#8, 0xCB#8, d, 0xDE#8]
  | .set_3__ixd__a d => [0xDD#8, 0xCB#8, d, 0xDF#8]
  | .set_4__ixd__b d => [0xDD#8, 0xCB#8, d, 0xE0#8]
  | .set_4__ixd__c d => [0xDD#8, 0xCB#8, d, 0xE1#8]
  | .set_4__ixd__d d => [0xDD#8, 0xCB#8, d, 0xE2#8]
  | .set_4__ixd__e d => [0xDD#8, 0xCB#8, d, 0xE3#8]
  | .set_4__ixd__h d => [0xDD#8, 0xCB#8, d, 0xE4#8]
  | .set_4__ixd__l d => [0xDD#8, 0xCB#8, d, 0xE5#8]
  | .set_4__ixd d => [0xDD#8, 0xCB#8, d, 0xE6#8]
  | .set_4__ixd__a d => [0xDD#8, 0xCB#8, d, 0xE7#8]
  | .set_5__ixd__b d => [0xDD#8, 0xCB#8, d, 0xE8#8]
  | .set_5__ixd__c d => [0xDD#8, 0xCB#8, d, 0xE9#8]
  | .set_5__ixd__d d => [0xDD#8, 0xCB#8, d, 0xEA#8]
  | .set_5__ixd__e d => [0xDD#8, 0xCB#8, d, 0xEB#8]
  | .set_5__ixd__h d => [0xDD#8, 0xCB#8, d, 0xEC#8]
  | .set_5__ixd__l d => [0xDD#8, 0xCB#8, d, 0xED#8]
  | .set_5__ixd d => [0xDD#8, 0xCB#8, d, 0xEE#8]
  | .set_5__ixd__a d => [0xDD#8, 0xCB#8, d, 0xEF#8]
  | .set_6__ixd__b d => [0xDD#8, 0xCB#8, d, 0xF0#8]
  | .set_6__ixd__c d => [0xDD#8, 0xCB#8, d, 0xF1#8]
  | .set_6__ixd__d d => [0xDD#8, 0xCB#8, d, 0xF2#8]
  | .set_6__ixd__e d => [0xDD#8, 0xCB#8, d, 0xF3#8]
  | .set_6__ixd__h d => [0xDD#8, 0xCB#8, d, 0xF4#8]
  | .set_6__ixd__l d => [0xDD#8, 0xCB#8, d, 0xF5#8]
  | .set_6__ixd d => [0xDD#8, 0xCB#8, d, 0xF6#8]
  | .set_6__ixd__a d => [0xDD#8, 0xCB#8, d, 0xF7#8]
  | .set_7__ixd__b d => [0xDD#8, 0xCB#8, d, 0xF8#8]
  | .set_7__ixd__c d => [0xDD#8, 0xCB#8, d, 0xF9#8]
  | .set_7__ixd__d d => [0xDD#8, 0xCB#8, d, 0xFA#8]
  | .set_7__ixd__e d => [0xDD#8, 0xCB#8, d, 0xFB#8]
  | .set_7__ixd__h d => [0xDD#8, 0xCB#8, d, 0xFC#8]
  | .set_7__ixd__l d => [0xDD#8, 0xCB#8, d, 0xFD#8]
  | .set_7__ixd d => [0xDD#8, 0xCB#8, d, 0xFE#8]
  | .set_7__ixd__a d => [0xDD#8, 0xCB#8, d, 0xFF#8]
  | .rlc__iyd__b d => [0xFD#8, 0xCB#8, d, 0x00#8]
  | .rlc__iyd__c d => [0xFD#8, 0xCB#8, d, 0x01#8]
  | .rlc__iyd__d d => [0xFD#8, 0xCB#8, d, 0x02#8]
  | .rlc__iyd__e d => [0xFD#8, 0xCB#8, d, 0x03#8]
  | .rlc__iyd__h d => [0xFD#8, 0xCB#8, d, 0x04#8]
  | .rlc__iyd__l d => [0xFD#8, 0xCB#8, d, 0x05#8]
  | .rlc__iyd d => [0xFD#8, 0xCB#8, d, 0x06#8]
  | .rlc__iyd__a d => [0xFD#8, 0xCB#8, d, 0x07#8]
  | .rrc__iyd__b d => [0xFD#8, 0xCB#8, d, 0x08#8]
  | .rrc__iyd__c d => [0xFD#8, 0xCB#8, d, 0x09#8]
  | .rrc__iyd__d d => [0xFD#8, 0xCB#8, d, 0x0A#8]
  | .rrc__iyd__e d => [0xFD#8, 0xCB#8, d, 0x0B#8]
  | .rrc__iyd__h d => [0xFD#8, 0xCB#8, d, 0x0C#8]
  | .rrc__iyd__l d => [0xFD#8, 0xCB#8, d, 0x0D#8]
  | .rrc__iyd d => [0xFD#8, 0xCB#8, d, 0x0E#8]
  | .rrc__iyd__a d => [0xFD#8, 0xCB#8, d, 0x0F#8]
  | .rl__iyd__b d => [0xFD#8, 0xCB#8, d, 0x10#8]
  | .rl__iyd__c d => [0xFD#8, 0xCB#8, d, 0x11#8]
  | .rl__iyd__d d => [0xFD#8, 0xCB#8, d, 0x12#8]
  | .rl__iyd__e d => [0xFD#8, 0xCB#8, d, 0x13#8]
  | .rl__iyd__h d => [0xFD#8, 0xCB#8, d, 0x14#8]
  | .rl__iyd__l d => [0xFD#8, 0xCB#8, d, 0x15#8]
  | .rl__iyd d => [0xFD#8, 0xCB#8, d, 0x16#8]
  | .rl__iyd__a d => [0xFD#8, 0xCB#8, d, 0x17#8]
  | .rr__iyd__b d => [0xFD#8, 0xCB#8, d, 0x18#8]
  | .rr__iyd__c d => [0xFD#8, 0xCB#8, d, 0x19#8]
  | .rr__iyd__d d => [0xFD#8, 0xCB#8, d, 0x1A#8]
  | .rr__iyd__e d => [0xFD#8, 0xCB#8, d, 0x1B#8]
  | .rr__iyd__h d => [0xFD#8, 0xCB#8, d, 0x1C#8]
  | .rr__iyd__l d => [0xFD#8, 0xCB#8, d, 0x1D#8]
  | .rr__iyd d => [0xFD#8, 0xCB#8, d, 0x1E#8]
  | .rr__iyd__a d => [0xFD#8, 0xCB#8, d, 0x1F#8]
  | .sla__iyd__b d => [0xFD#8, 0xCB#8, d, 0x20#8]
  | .sla__iyd__c d => [0xFD#8, 0xCB#8, d, 0x21#8]
  | .sla__iyd__d d => [0xFD#8, 0xCB#8, d, 0x22#8]
  | .sla__iyd__e d => [0xFD#8, 0xCB#8, d, 0x23#8]
  | .sla__iyd__h d => [0xFD#8, 0xCB#8, d, 0x24#8]
  | .sla__iyd__l d => [0xFD#8, 0xCB#8, d, 0x25#8]
  | .sla__iyd d => [0xFD#8, 0xCB#8, d, 0x26#8]
  | .sla__iyd__a d => [0xFD#8, 0xCB#8, d, 0x27#8]
  | .sra__iyd__b d => [0xFD#8, 0xCB#8, d, 0x28#8]
  | .sra__iyd__c d => [0xFD#8, 0xCB#8, d, 0x29#8]
  | .sra__iyd__d d => [0xFD#8, 0xCB#8, d, 0x2A#8]
  | .sra__iyd__e d => [0xFD#8, 0xCB#8, d, 0x2B#8]
  | .sra__iyd__h d => [0xFD#8, 0xCB#8, d, 0x2C#8]
  | .sra__iyd__l d => [0xFD#8, 0xCB#8, d, 0x2D#8]
  | .sra__iyd d => [0xFD#8, 0xCB#8, d, 0x2E#8]
  | .sra__iyd__a d => [0xFD#8, 0xCB#8, d, 0x2F#8]
  | .sll__iyd__b d => [0xFD#8, 0xCB#8, d, 0x30#8]
  | .sll__iyd__c d => [0xFD#8, 0xCB#8, d, 0x31#8]
  | .sll__iyd__d d => [0xFD#8, 0xCB#8, d, 0x32#8]
  | .sll__iyd__e d => [0xFD#8, 0xCB#8, d, 0x33#8]
  | .sll__iyd__h d => [0xFD#8, 0xCB#8, d, 0x34#8]
  | .sll__iyd__l d => [0xFD#8, 0xCB#8, d, 0x35#8]
  | .sll__iyd d => [0xFD#8, 0xCB#8, d, 0x36#8]
  | .sll__iyd__a d => [0xFD#8, 0xCB#8, d, 0x37#8]
  | .srl__iyd__b d => [0xFD#8, 0xCB#8, d, 0x38#8]
  | .srl__iyd__c d => [0xFD#8, 0xCB#8, d, 0x39#8]
  | .srl__iyd__d d => [0xFD#8, 0xCB#8, d, 0x3A#8]
  | .srl__iyd__e d => [0xFD#8, 0xCB#8, d, 0x3B#8]
  | .srl__iyd__h d => [0xFD#8, 0xCB#8, d, 0x3C#8]
  | .srl__iyd__l d => [0xFD#8, 0xCB#8, d, 0x3D#8]
  | .srl__iyd d => [0xFD#8, 0xCB#8, d, 0x3E#8]
  | .srl__iyd__a d => [0xFD#8, 0xCB#8, d, 0x3F#8]
  | .bit_0__iyd z d => [0xFD#8, 0xCB#8, d, bitCode 0x40#8 z]
  | .bit_1__iyd z d => [0xFD#8, 0xCB#8, d, bitCode 0x48#8 z]
  | .bit_2__iyd z d => [0xFD#8, 0xCB#8, d, bitCode 0x50#8 z]
  | .bit_3__iyd z d => [0xFD#8, 0xCB#8, d, bitCode 0x58#8 z]
  | .bit_4__iyd z d => [0xFD#8, 0xCB#8, d, bitCode 0x60#8 z]
  | .bit_5__iyd z d => [0xFD#8, 0xCB#8, d, bitCode 0x68#8 z]
  | .bit_6__iyd z d => [0xFD#8, 0xCB#8, d, bitCode 0x70#8 z]
  | .bit_7__iyd z d => [0xFD#8, 0xCB#8, d, bitCode 0x78#8 z]
  | .res_0__iyd__b d => [0xFD#8, 0xCB#8, d, 0x80#8]
  | .res_0__iyd__c d => [0xFD#8, 0xCB#8, d, 0x81#8]
  | .res_0__iyd__d d => [0xFD#8, 0xCB#8, d, 0x82#8]
  | .res_0__iyd__e d => [0xFD#8, 0xCB#8, d, 0x83#8]
  | .res_0__iyd__h d => [0xFD#8, 0xCB#8, d, 0x84#8]
  | .res_0__iyd__l d => [0xFD#8, 0xCB#8, d, 0x85#8]
  | .res_0__iyd d => [0xFD#8, 0xCB#8, d, 0x86#8]
  | .res_0__iyd__a d => [0xFD#8, 0xCB#8, d, 0x87#8]
  | .res_1__iyd__b d => [0xFD#8, 0xCB#8, d, 0x88#8]
  | .res_1__iyd__c d => [0xFD#8, 0xCB#8, d, 0x89#8]
  | .res_1__iyd__d d => [0xFD#8, 0xCB#8, d, 0x8A#8]
  | .res_1__iyd__e d => [0xFD#8, 0xCB#8, d, 0x8B#8]
  | .res_1__iyd__h d => [0xFD#8, 0xCB#8, d, 0x8C#8]
  | .res_1__iyd__l d => [0xFD#8, 0xCB#8, d, 0x8D#8]
  | .res_1__iyd d => [0xFD#8, 0xCB#8, d, 0x8E#8]
  | .res_1__iyd__a d => [0xFD#8, 0xCB#8, d, 0x8F#8]
  | .res_2__iyd__b d => [0xFD#8, 0xCB#8, d, 0x90#8]
  | .res_2__iyd__c d => [0xFD#8, 0xCB#8, d, 0x91#8]
  | .res_2__iyd__d d => [0xFD#8, 0xCB#8, d, 0x92#8]
  | .res_2__iyd__e d => [0xFD#8, 0xCB#8, d, 0x93#8]
  | .res_2__iyd__h d => [0xFD#8, 0xCB#8, d, 0x94#8]
  | .res_2__iyd__l d => [0xFD#8, 0xCB#8, d, 0x95#8]
  | .res_2__iyd d => [0xFD#8, 0xCB#8, d, 0x96#8]
  | .res_2__iyd__a d => [0xFD#8, 0xCB#8, d, 0x97#8]
  | .res_3__iyd__b d => [0xFD#8, 0xCB#8, d, 0x98#8]
  | .res_3__iyd__c d => [0xFD#8, 0xCB#8, d, 0x99#8]
  | .res_3__iyd__d d => [0xFD#8, 0xCB#8, d, 0x9A#8]
  | .res_3__iyd__e d => [0xFD#8, 0xCB#8, d, 0x9B#8]
  | .res_3__iyd__h d => [0xFD#8, 0xCB#8, d, 0x9C#8]
  | .res_3__iyd__l d => [0xFD#8, 0xCB#8, d, 0x9D#8]
  | .res_3__iyd d => [0xFD#8, 0xCB#8, d, 0x9E#8]
  | .res_3__iyd__a d => [0xFD#8, 0xCB#8, d, 0x9F#8]
  | .res_4__iyd__b d => [0xFD#8, 0xCB#8, d, 0xA0#8]
  | .res_4__iyd__c d => [0xFD#8, 0xCB#8, d, 0xA1#8]
  | .res_4__iyd__d d => [0xFD#8, 0xCB#8, d, 0xA2#8]
  | .res_4__iyd__e d => [0xFD#8, 0xCB#8, d, 0xA3#8]
  | .res_4__iyd__h d => [0xFD#8, 0xCB#8, d, 0xA4#8]
  | .res_4__iyd__l d => [0xFD#8, 0xCB#8, d, 0xA5#8]
  | .res_4__iyd d => [0xFD#8, 0xCB#8, d, 0xA6#8]
  | .res_4__iyd__a d => [0xFD#8, 0xCB#8, d, 0xA7#8]
  | .res_5__iyd__b d => [0xFD#8, 0xCB#8, d, 0xA8#8]
  | .res_5__iyd__c d => [0xFD#8, 0xCB#8, d, 0xA9#8]
  | .res_5__iyd__d d => [0xFD#8, 0xCB#8, d, 0xAA#8]
  | .res_5__iyd__e d => [0xFD#8, 0xCB#8, d, 0xAB#8]
  | .res_5__iyd__h d => [0xFD#8, 0xCB#8, d, 0xAC#8]
  | .res_5__iyd__l d => [0xFD#8, 0xCB#8, d, 0xAD#8]
  | .res_5__iyd d => [0xFD#8, 0xCB#8, d, 0xAE#8]
  | .res_5__iyd__a d => [0xFD#8, 0xCB#8, d, 0xAF#8]
  | .res_6__iyd__b d => [0xFD#8, 0xCB#8, d, 0xB0#8]
  | .res_6__iyd__c d => [0xFD#8, 0xCB#8, d, 0xB1#8]
  | .res_6__iyd__d d => [0xFD#8, 0xCB#8, d, 0xB2#8]
  | .res_6__iyd__e d => [0xFD#8, 0xCB#8, d, 0xB3#8]
  | .res_6__iyd__h d => [0xFD#8, 0xCB#8, d, 0xB4#8]
  | .res_6__iyd__l d => [0xFD#8, 0xCB#8, d, 0xB5#8]
  | .res_6__iyd d => [0xFD#8, 0xCB#8, d, 0xB6#8]
  | .res_6__iyd__a d => [0xFD#8, 0xCB#8, d, 0xB7#8]
  | .res_7__iyd__b d => [0xFD#8, 0xCB#8, d, 0xB8#8]
  | .res_7__iyd__c d => [0xFD#8, 0xCB#8, d, 0xB9#8]
  | .res_7__iyd__d d => [0xFD#8, 0xCB#8, d, 0xBA#8]
  | .res_7__iyd__e d => [0xFD#8, 0xCB#8, d, 0xBB#8]
  | .res_7__iyd__h d => [0xFD#8, 0xCB#8, d, 0xBC#8]
  | .res_7__iyd__l d => [0xFD#8, 0xCB#8, d, 0xBD#8]
  | .res_7__iyd d => [0xFD#8, 0xCB#8, d, 0xBE#8]
  | .res_7__iyd__a d => [0xFD#8, 0xCB#8, d, 0xBF#8]
  | .set_0__iyd__b d => [0xFD#8, 0xCB#8, d, 0xC0#8]
  | .set_0__iyd__c d => [0xFD#8, 0xCB#8, d, 0xC1#8]
  | .set_0__iyd__d d => [0xFD#8, 0xCB#8, d, 0xC2#8]
  | .set_0__iyd__e d => [0xFD#8, 0xCB#8, d, 0xC3#8]
  | .set_0__iyd__h d => [0xFD#8, 0xCB#8, d, 0xC4#8]
  | .set_0__iyd__l d => [0xFD#8, 0xCB#8, d, 0xC5#8]
  | .set_0__iyd d => [0xFD#8, 0xCB#8, d, 0xC6#8]
  | .set_0__iyd__a d => [0xFD#8, 0xCB#8, d, 0xC7#8]
  | .set_1__iyd__b d => [0xFD#8, 0xCB#8, d, 0xC8#8]
  | .set_1__iyd__c d => [0xFD#8, 0xCB#8, d, 0xC9#8]
  | .set_1__iyd__d d => [0xFD#8, 0xCB#8, d, 0xCA#8]
  | .set_1__iyd__e d => [0xFD#8, 0xCB#8, d, 0xCB#8]
  | .set_1__iyd__h d => [0xFD#8, 0xCB#8, d, 0xCC#8]
  | .set_1__iyd__l d => [0xFD#8, 0xCB#8, d, 0xCD#8]
  | .set_1__iyd d => [0xFD#8, 0xCB#8, d, 0xCE#8]
  | .set_1__iyd__a d => [0xFD#8, 0xCB#8, d, 0xCF#8]
  | .set_2__iyd__b d => [0xFD#8, 0xCB#8, d, 0xD0#8]
  | .set_2__iyd__c d => [0xFD#8, 0xCB#8, d, 0xD1#8]
  | .set_2__iyd__d d => [0xFD#8, 0xCB#8, d, 0xD2#8]
  | .set_2__iyd__e d => [0xFD#8, 0xCB#8, d, 0xD3#8]
  | .set_2__iyd__h d => [0xFD#8, 0xCB#8, d, 0xD4#8]
  | .set_2__iyd__l d => [0xFD#8, 0xCB#8, d, 0xD5#8]
  | .set_2__iyd d => [0xFD#8, 0xCB#8, d, 0xD6#8]
  | .set_2__iyd__a d => [0xFD#8, 0xCB#8, d, 0xD7#8]
  | .set_3__iyd__b d => [0xFD#8, 0xCB#8, d, 0xD8#8]
  | .set_3__iyd__c d => [0xFD#8, 0xCB#8, d, 0xD9#8]
  | .set_3__iyd__d d => [0xFD#8, 0xCB#8, d, 0xDA#8]
  | .set_3__iyd__e d => [0xFD#8, 0xCB#8, d, 0xDB#8]
  | .set_3__iyd__h d => [0xFD#8, 0xCB#8, d, 0xDC#8]
  | .set_3__iyd__l d => [0xFD#8, 0xCB#8, d, 0xDD#8]
  | .set_3__iyd d => [0xFD#8, 0xCB#8, d, 0xDE#8]
  | .set_3__iyd__a d => [0xFD#8, 0xCB#8, d, 0xDF#8]
  | .set_4__iyd__b d => [0xFD#8, 0xCB#8, d, 0xE0#8]
  | .set_4__iyd__c d => [0xFD#8, 0xCB#8, d, 0xE1#8]
  | .set_4__iyd__d d => [0xFD#8, 0xCB#8, d, 0xE2#8]
  | .set_4__iyd__e d => [0xFD#8, 0xCB#8, d, 0xE3#8]
  | .set_4__iyd__h d => [0xFD#8, 0xCB#8, d, 0xE4#8]
  | .set_4__iyd__l d => [0xFD#8, 0xCB#8, d, 0xE5#8]
  | .set_4__iyd d => [0xFD#8, 0xCB#8, d, 0xE6#8]
  | .set_4__iyd__a d => [0xFD#8, 0xCB#8, d, 0xE7#8]
  | .set_5__iyd__b d => [0xFD#8, 0xCB#8, d, 0xE8#8]
  | .set_5__iyd__c d => [0xFD#8, 0xCB#8, d, 0xE9#8]
  | .set_5__iyd__d d => [0xFD#8, 0xCB#8, d, 0xEA#8]
  | .set_5__iyd__e d => [0xFD#8, 0xCB#8, d, 0xEB#8]
  | .set_5__iyd__h d => [0xFD#8, 0xCB#8, d, 0xEC#8]
  | .set_5__iyd__l d => [0xFD#8, 0xCB#8, d, 0xED#8]
  | .set_5__iyd d => [0xFD#8, 0xCB#8, d, 0xEE#8]
  | .set_5__iyd__a d => [0xFD#8, 0xCB#8, d, 0xEF#8]
  | .set_6__iyd__b d => [0xFD#8, 0xCB#8, d, 0xF0#8]
  | .set_6__iyd__c d => [0xFD#8, 0xCB#8, d, 0xF1#8]
  | .set_6__iyd__d d => [0xFD#8, 0xCB#8, d, 0xF2#8]
  | .set_6__iyd__e d => [0xFD#8, 0xCB#8, d, 0xF3#8]
  | .set_6__iyd__h d => [0xFD#8, 0xCB#8, d, 0xF4#8]
  | .set_6__iyd__l d => [0xFD#8, 0xCB#8, d, 0xF5#8]
  | .set_6__iyd d => [0xFD#8, 0xCB#8, d, 0xF6#8]
  | .set_6__iyd__a d => [0xFD#8, 0xCB#8, d, 0xF7#8]
  | .set_7__iyd__b d => [0xFD#8, 0xCB#8, d, 0xF8#8]
  | .set_7__iyd__c d => [0xFD#8, 0xCB#8, d, 0xF9#8]
  | .set_7__iyd__d d => [0xFD#8, 0xCB#8, d, 0xFA#8]
  | .set_7__iyd__e d => [0xFD#8, 0xCB#8, d, 0xFB#8]
  | .set_7__iyd__h d => [0xFD#8, 0xCB#8, d, 0xFC#8]
  | .set_7__iyd__l d => [0xFD#8, 0xCB#8, d, 0xFD#8]
  | .set_7__iyd d => [0xFD#8, 0xCB#8, d, 0xFE#8]
  | .set_7__iyd__a d => [0xFD#8, 0xCB#8, d, 0xFF#8]

/-! ## The opcode table's numbering -/

/-- The first k bytes of a number, least significant first. -/
def bytesOf : Nat → Nat → List Byte
  | 0, _ => []
  | k + 1, w => BitVec.ofNat 8 w :: bytesOf k (w / 256)

/-- The instruction the decoder reads from an instruction whose bits are w, numbered as the opcode
table numbers them: the first byte is bits 7..0, the next bits 15..8. Operand bytes beyond nbits are
zero. Log entry 16. -/
noncomputable def decodeTableWord (nbits w : Nat) : Option Instr :=
  match decode (bytesOf (nbits / 8) w) with
  | .ok (i, []) => some i
  | _ =>
    match decode (bytesOf (nbits / 8) w ++ [0#8, 0#8, 0#8]) with
    | .ok (i, _) => some i
    | .error _ => none

end Sys2Proof
end

