-- ==== Sys2Proof/Config.lean ====
section
/-! DEFINITION. The free values of the model: constants with no body, so no proof can rest on a
value of theirs (R21; log entries 1, 2, 3, 5 and 6). -/

namespace Sys2Proof

/-- The n-th byte drawn for `BIT b,(HL)` (R781). Log entry 5. Safe. -/
opaque Config.draw : Nat → Byte

/-- The byte the n-th port call reads from an address that is no plain RAM, or that nothing has
written yet: the draw of `MemPort` (R165, D19). Log entries 2 and 3. Safe. -/
opaque Config.memPort : Nat → Word → Byte

/-- What an I/O device answers at the n-th port read to a port for which the state lists no
answer: `InOracle(port)` of R550. Log entry 1. Safe. -/
opaque Config.inOracle : Nat → Byte → Byte

/-- The parameter `scfCcfXY(A, F)` of R668 and R669 when it is not the spec's default; only bits 5
and 3 are used. Log entry 6. Safe. -/
opaque Config.scfCcfXY : Byte → Byte → Byte

end Sys2Proof
end

