-- ==== Sys2Proof/Machine/State.lean ====
section
/-! DEFINITION. The state of CORE (10_state.md R51), of the two collaborators behind its ports
(20_memory.md R150), the host's inputs (60_exceptions.md R802) and the outputs of a step; the
reasons a step can stop; the state after reset (R88, R850). -/

namespace Sys2Proof.Machine

/-- One set of 8-bit registers: the primary one (R52) and the shadow one (R56). -/
structure RegSet where
  a : Byte
  f : Byte
  b : Byte
  c : Byte
  d : Byte
  e : Byte
  h : Byte
  l : Byte
deriving DecidableEq, Repr

/-- The interrupt mode, R72: the value 3 does not exist. -/
inductive IntMode where
  | im0
  | im1
  | im2
deriving DecidableEq, Repr

/-- What is known of the memory behind the Memory Port (R151): for each address listed the byte last
written there, addresses strictly rising. An address that is not listed was never written. -/
abbrev Memory := List Host.Cell

/-- Addresses from `first` to `last`, both included. -/
structure Region where
  first : Word
  last : Word
deriving DecidableEq, Repr

/-- One port call of CORE (R150, R160): every call moves exactly one byte. -/
inductive PortCall where
  | memRead (addr : Word) (v : Byte)
  | memWrite (addr : Word) (v : Byte)
  | portIn (port : Byte) (v : Byte)
  | portOut (port : Byte) (v : Byte)
deriving DecidableEq, Repr

/-- What a collaborator behind a port changes by itself: its own state, never CORE's (R162, R826).
-/
inductive SideEffect where
  /-- A byte of memory takes a value. -/
  | memory (a : Word) (v : Byte)
  /-- A port answers a byte from now on. -/
  | port (p v : Byte)
deriving DecidableEq, Repr

/-- The parameter `scfCcfXY` of R11: the default mix `(A OR F) AND 0x28`, or any other function of
A and F (`Config.scfCcfXY`). Log entry 6. -/
inductive XYRule where
  | aOrF
  | other
deriving DecidableEq, Repr

/-- The parameters of R11 that are fixed for one CORE. -/
structure Params where
  /-- The byte `OUT (C),0` drives (R557). Log entry 7. -/
  outC0Value : Byte
  /-- The X5/X3 mix of SCF and CCF (R668, R669). Log entry 6. -/
  scfCcfXY : XYRule
  /-- The addresses the platform does not declare plain RAM (`MemPort`, R165). Log entry 2. -/
  notRam : List Region
deriving DecidableEq, Repr

/-- Everything the spec gives the machine: the register file of R51, what stands behind the two
ports, the host's inputs, and the outputs of the last step. -/
structure Snapshot where
  /-- A F B C D E H L (R52). -/
  main : RegSet
  /-- A′ F′ B′ C′ D′ E′ H′ L′ (R56). -/
  alt : RegSet
  /-- IX (R58). -/
  ix : Word
  /-- IY (R58). -/
  iy : Word
  /-- SP (R60). -/
  sp : Word
  /-- PC (R62). -/
  pc : Word
  /-- I, the interrupt vector base (R66). -/
  i : Byte
  /-- R, the refresh counter (R67). -/
  r : Byte
  /-- IFF1 (R70). -/
  iff1 : Bool
  /-- IFF2 (R70). -/
  iff2 : Bool
  /-- IM (R72). -/
  im : IntMode
  /-- halted (R74). -/
  halted : Bool
  /-- eiPending (R76). -/
  eiPending : Bool
  /-- The active index byte (R78). -/
  pfx : IndexByte
  /-- The bus latch (R80). -/
  bus : Byte
  /-- nmiPending (R82). -/
  nmiPending : Bool
  /-- The bytes written behind the Memory Port (R151, R165). Log entries 2 and 3. -/
  mem : Memory
  /-- What the I/O devices answer, by port (R550). Log entry 1. -/
  inputs : List (Byte × Byte)
  /-- What was sent to the I/O devices, newest first (R17, R550). Log entry 1. -/
  outputs : List (Byte × Byte)
  /-- What each of the next port calls does beside, one list for each call, the next call's first: a
  call's side effects on its collaborator (R162, R826). Log entry 21. -/
  sideEffects : List (List SideEffect)
  /-- The level of the maskable request the host holds (R802, R804). Log entry 8. -/
  intLine : Bool
  /-- The byte the interrupting device supplies (R802, R804). Log entry 8. -/
  intData : Byte
  /-- Host ports that fail: `some k` says that the first k port calls of a step succeed and the
  next one fails; `none` that no call fails (R167, R801). Log entry 9. -/
  failAfter : Option Nat
  /-- The parameters of R11. -/
  params : Params
  /-- The cycle count of the last step (R9, R860). Log entry 12. -/
  cycles : BitVec 32
  /-- The port calls of the last step, newest first (R163). Log entry 12. -/
  calls : List PortCall
  /-- The model's own counter, which makes each free value a fresh one: it advances with every port
  call and every draw. Log entries 1, 3 and 5. -/
  draws : Nat
deriving DecidableEq, Repr

/-- The state of the machine, with the record that a failing port leaves. -/
structure State extends Snapshot where
  /-- Where a port call of this step failed, the state just before that call (R801). Log entry 9. -/
  atFailure : Option Snapshot
deriving DecidableEq, Repr

/-- Why a step stops with a fault. -/
inductive Fault where
  /-- A host port failed, and `before` is the state just before the failing call, with the writes
  made before it (R167, R801). Raised by a step whose port calls outrun `failAfter`. Safe: the
  spec's own fault, and only the host's input raises it. Log entry 9. -/
  | portFailure (before : Snapshot)
  /-- An endless chain of 0xDD and 0xFD bytes fills all of memory: the step never completes (R238).
  Raised by the dispatch loop after 65536 such bytes. Safe: the spec's own hang. Log entry 10. -/
  | endlessIndexChain
deriving DecidableEq, Repr

/-- Why a step or a host move is refused. -/
inductive Refusal where
  /-- An instruction with no meaning yet; raised by an arm of `exec`. Safe. No arm raises it. -/
  | notModelled (mnemonic : String)
  /-- INT acceptance in IM 0 with a device byte that is no RST: `refuse IM0Unsupported` (R812).
  Raised by interrupt acceptance. Safe: the spec refuses it. Log entry 11. -/
  | im0Unsupported
  /-- The host's accessor sets IM outside 0, 1, 2 (R86). Raised by `State.hostMove`, never by a
  step. Safe: the spec refuses it. Log entry 19. -/
  | imOutOfRange
deriving DecidableEq, Repr

/-- The state right after reset: the values of R88, and the values of log entry 4 where R89 gives
none; memory with nothing listed, no interrupt request, no side effect, no failing port, the default
parameters. -/
def State.reset : State where
  main := { a := 0#8, f := 0#8, b := 0#8, c := 0#8, d := 0#8, e := 0#8, h := 0#8, l := 0#8 }
  alt := { a := 0#8, f := 0#8, b := 0#8, c := 0#8, d := 0#8, e := 0#8, h := 0#8, l := 0#8 }
  ix := 0#16
  iy := 0#16
  sp := 0#16
  pc := 0#16
  i := 0#8
  r := 0#8
  iff1 := false
  iff2 := false
  im := .im0
  halted := false
  eiPending := false
  pfx := .none
  bus := 0#8
  nmiPending := false
  mem := []
  inputs := []
  outputs := []
  sideEffects := []
  intLine := false
  intData := 0#8
  failAfter := none
  params := { outC0Value := 0#8, scfCcfXY := .aOrF, notRam := [] }
  cycles := 0#32
  calls := []
  draws := 0
  atFailure := none

end Sys2Proof.Machine
end

