-- ==== Sys2Proof/Machine/Ops.lean ====
section
/-! DEFINITION. The named operations over registers, memory, ports, the fetch stream and the stack
(00_scope.md R14 to R19, 20_memory.md), and the taking of an interrupt with the return from it
(60_exceptions.md R806 to R816). -/

namespace Sys2Proof.Machine

/-- The outcome of an instruction or a step. -/
abbrev Res := Host.Outcome State Fault Refusal

/-! ## Bytes and words (R14) -/

/-- `hi(v)`: bits 15..8 (R14). -/
def hi (w : Word) : Byte := w.extractLsb' 8 8

/-- `lo(v)`: bits 7..0 (R14). -/
def lo (w : Word) : Byte := w.extractLsb' 0 8

/-- `hi:lo` (R12, R53). -/
def pair (h l : Byte) : Word := h ++ l

/-- `sext_16(d)` (R14), as a word: adding it wraps mod 0x10000 (R153, R206, R207). -/
def sext16 (d : Byte) : Word := d.signExtend 16

/-! ## Memory (20_memory.md) -/

/-- What memory holds at an address: the byte last written there, or nothing where none was. -/
def Memory.read : Memory → Nat → Option Byte
  | [], _ => none
  | (b, w) :: m, a => if a = b then some w else Memory.read m a

/-- Store one byte, keeping the canonical form. -/
def Memory.write : Memory → Nat → Byte → Memory
  | [], a, v => [(a, v)]
  | (b, w) :: m, a, v =>
    if a < b then (a, v) :: (b, w) :: m
    else if a = b then (a, v) :: m
    else (b, w) :: Memory.write m a v

/-- The canonical form: addresses below 0x10000 and strictly rising. -/
def Memory.wf : Memory → Bool
  | [] => true
  | (b, _) :: m => decide (b < 0x10000) && m.all (fun c => decide (b < c.1)) && Memory.wf m

/-- Memory after side effects, first to last (R826). -/
def Memory.after : Memory → List SideEffect → Memory
  | m, [] => m
  | m, .memory a v :: es => Memory.after (m.write a.toNat v) es
  | m, .port _ _ :: es => Memory.after m es

/-- What the ports answer after side effects, first to last (R826). -/
def answersAfter : List (Byte × Byte) → List SideEffect → List (Byte × Byte)
  | l, [] => l
  | l, .memory _ _ :: es => answersAfter l es
  | l, .port p v :: es => answersAfter ((p, v) :: l) es

/-! ## Registers: one reading and one writing operation each -/

/-- Read an 8-bit register or an index half (R52, R58, R210, R220). -/
def State.getR8 (s : State) : R8 → Byte
  | .b => s.main.b
  | .c => s.main.c
  | .d => s.main.d
  | .e => s.main.e
  | .h => s.main.h
  | .l => s.main.l
  | .a => s.main.a
  | .ixh => hi s.ix
  | .ixl => lo s.ix
  | .iyh => hi s.iy
  | .iyl => lo s.iy

/-- Write an 8-bit register or an index half (R52, R58). -/
def State.setR8 (s : State) (r : R8) (v : Byte) : State :=
  match r with
  | .b => { s with main := { s.main with b := v } }
  | .c => { s with main := { s.main with c := v } }
  | .d => { s with main := { s.main with d := v } }
  | .e => { s with main := { s.main with e := v } }
  | .h => { s with main := { s.main with h := v } }
  | .l => { s with main := { s.main with l := v } }
  | .a => { s with main := { s.main with a := v } }
  | .ixh => { s with ix := pair v (lo s.ix) }
  | .ixl => { s with ix := pair (hi s.ix) v }
  | .iyh => { s with iy := pair v (lo s.iy) }
  | .iyl => { s with iy := pair (hi s.iy) v }

/-- Write F, all eight bits (R54, R65). -/
def State.setF (s : State) (v : Byte) : State := { s with main := { s.main with f := v } }

/-- Read a register pair, SP or an index register (R53, R58, R60, R211). -/
def State.getR16 (s : State) : R16 → Word
  | .bc => pair s.main.b s.main.c
  | .de => pair s.main.d s.main.e
  | .hl => pair s.main.h s.main.l
  | .sp => s.sp
  | .af => pair s.main.a s.main.f
  | .ix => s.ix
  | .iy => s.iy

/-- Write a register pair, SP or an index register: both halves at once (R53, R700). -/
def State.setR16 (s : State) (r : R16) (v : Word) : State :=
  match r with
  | .bc => { s with main := { s.main with b := hi v, c := lo v } }
  | .de => { s with main := { s.main with d := hi v, e := lo v } }
  | .hl => { s with main := { s.main with h := hi v, l := lo v } }
  | .sp => { s with sp := v }
  | .af => { s with main := { s.main with a := hi v, f := lo v } }
  | .ix => { s with ix := v }
  | .iy => { s with iy := v }

/-- Write PC (R62). -/
def State.setPc (s : State) (v : Word) : State := { s with pc := v }

/-- Write `prefix` (R78). -/
def State.setPfx (s : State) (x : IndexByte) : State := { s with pfx := x }

/-- Add to the step's cycle count (R237, R860). -/
def State.tick (s : State) (n : Nat) : State := { s with cycles := s.cycles + BitVec.ofNat 32 n }

/-- The state after a draw: the next one is another (R21). -/
def State.drawn (s : State) : State := { s with draws := s.draws + 1 }

/-- One increment of R: bits 6..0 count mod 0x80, bit 7 stays (R67). -/
def refresh (r : Byte) : Byte := (r &&& 0x80#8) ||| ((r + 1#8) &&& 0x7F#8)

/-- R after one increment (R67). -/
def State.incR (s : State) : State := { s with r := refresh s.r }

/-! ## Port calls (R150, R162 to R164)

A call that answers is two operations: the value it answers, and its effect. -/

/-- The byte a port call moves (R150). -/
def portByte : PortCall → Byte
  | .memRead _ v => v
  | .memWrite _ v => v
  | .portIn _ v => v
  | .portOut _ v => v

/-- Whether the next port call fails: the step has made as many as succeed (R801). Log entry 9. -/
def State.fails (s : State) : Bool := s.failAfter == some s.calls.length

/-- The side effects of the next port call (R162, R826). Log entry 21. -/
def State.effects (s : State) : List SideEffect := s.sideEffects.headD []

/-- Memory after a port call: a write stores its byte (R16, R165). -/
def Memory.stored (m : Memory) : PortCall → Memory
  | .memRead _ _ => m
  | .memWrite a v => m.write a.toNat v
  | .portIn _ _ => m
  | .portOut _ _ => m

/-- What was sent to the I/O devices after a port call (R17). -/
def sentBy (l : List (Byte × Byte)) : PortCall → List (Byte × Byte)
  | .memRead _ _ => l
  | .memWrite _ _ => l
  | .portIn _ _ => l
  | .portOut p v => (p, v) :: l

/-- A port call: the latch takes the byte (R164), the call is made (R163), what it writes is passed
on, and then its collaborator changes by its side effects, which later calls see (R826). The state
before the call is kept where the call fails (R801). -/
def State.called (s : State) (c : PortCall) : State :=
  { s with
    bus := portByte c
    calls := c :: s.calls
    mem := (s.mem.stored c).after s.effects
    outputs := sentBy s.outputs c
    inputs := answersAfter s.inputs s.effects
    sideEffects := s.sideEffects.drop 1
    draws := s.draws + 1
    atFailure := if s.fails then some s.toSnapshot else s.atFailure }

/-! ## The Memory Port (R16, R150, R163 to R165) -/

/-- Whether the platform declares an address plain RAM (R165). Log entry 2. -/
def Params.isRam (p : Params) (a : Word) : Bool :=
  p.notRam.all fun g => decide (a < g.first) || decide (g.last < a)

/-- The byte a read of plain RAM returns; nothing where the address is no RAM or was never written,
and a read is a draw (R165, D19). -/
def State.byteAt (s : State) (a : Word) : Option Byte :=
  if s.params.isRam a then s.mem.read a.toNat else none

/-- The byte the Memory Port returns for an address (R165). Log entries 2 and 3. -/
def State.peek (s : State) (a : Word) : Byte :=
  match s.byteAt a with
  | some v => v
  | none => Config.memPort s.draws a

/-- The effect of `MemRead(addr, 1)` (R16). -/
def State.noteRead (s : State) (a : Word) : State := s.called (.memRead a (s.peek a))

/-- `MemWrite(addr, 1, v)` (R16). -/
def State.write (s : State) (a : Word) (v : Byte) : State := s.called (.memWrite a v)

/-- The value of `MemRead(addr, 2)`: low byte at addr, then high byte at addr + 1 (R16, R156). -/
def State.peekWord (s : State) (a : Word) : Word :=
  pair ((s.noteRead a).peek (a + 1#16)) (s.peek a)

/-- The effect of `MemRead(addr, 2)`: the low byte is read first (R16). -/
def State.noteReadWord (s : State) (a : Word) : State := (s.noteRead a).noteRead (a + 1#16)

/-- `MemWrite(addr, 2, v)`: the low byte is written first (R16). -/
def State.writeWord (s : State) (a : Word) (v : Word) : State :=
  (s.write a (lo v)).write (a + 1#16) (hi v)

/-! ## The I/O Port (R17, R550) -/

/-- The byte `PortIn(p)` returns: the answer listed for the port, or else a free value (R550).
Log entry 1. -/
def State.portValue (s : State) (p : Byte) : Byte :=
  match s.inputs.lookup p with
  | some v => v
  | none => Config.inOracle s.draws p

/-- The effect of `PortIn(p)` (R17, R550). -/
def State.noteIn (s : State) (p : Byte) : State := s.called (.portIn p (s.portValue p))

/-- `PortOut(p, v)` (R17, R550). -/
def State.portOut (s : State) (p v : Byte) : State := s.called (.portOut p v)

/-! ## Port failure (R167, R801) -/

/-- Whether one of the port calls this step has made failed. Log entry 9. -/
def State.portFailed (s : State) : Bool :=
  match s.failAfter with
  | none => false
  | some k => decide (k < s.calls.length)

/-- The state a failed step reached just before the failing call (R801). -/
def State.failure (s : State) : Snapshot := s.atFailure.getD s.toSnapshot

/-- The fault of a failed port call (R801). -/
def State.stop (s : State) : Res := .fault (.portFailure s.failure)

/-- The end of an instruction that makes port calls: a failed call is `fault PortFailure` (R801). -/
def finish (s : State) : Res := if s.portFailed then s.stop else .next s

/-- After the instruction of a step: `prefix` is 0x00 again (R78, R231). -/
def endInstr : Res → Res
  | .next s => .next (s.setPfx .none)
  | .fault r => .fault r
  | .refused r => .refused r

/-! ## The fetch primitives (R18) -/

/-- The effect of `FetchOpcode()`: read at PC, advance PC, increment R (R18). -/
def State.fetchOpcode (s : State) : State :=
  { (s.noteRead s.pc) with pc := s.pc + 1#16, r := refresh s.r }

/-- The effect of `FetchByte()`: read at PC, advance PC (R18). -/
def State.fetchByte (s : State) : State :=
  { (s.noteRead s.pc) with pc := s.pc + 1#16 }

/-- The effect of `FetchWord()` (R18). -/
def State.fetchWord (s : State) : State := s.fetchByte.fetchByte

/-! ## The stack primitives (R19) -/

/-- Write SP (R60). -/
def State.setSp (s : State) (v : Word) : State := { s with sp := v }

/-- `Push(v)`: the high byte at SP - 1, then the low byte at SP - 2, SP moving down before each
(R19). -/
def State.push (s : State) (v : Word) : State :=
  (((s.setSp (s.sp - 1#16)).write (s.sp - 1#16) (hi v)).setSp (s.sp - 2#16)).write (s.sp - 2#16) (lo v)

/-- The value `Pop()` returns (R19). -/
def State.topWord (s : State) : Word := s.peekWord s.sp

/-- The effect of `Pop()`: the low byte is read first, SP moving up after each (R19). -/
def State.pop (s : State) : State :=
  (((s.noteRead s.sp).setSp (s.sp + 1#16)).noteRead (s.sp + 1#16)).setSp (s.sp + 2#16)

/-! ## Taking an interrupt, and the return from it (60_exceptions.md) -/

/-- What every acceptance does before it enters its handler: halted and the EI-pending flag are
cleared, R counts, IFF1 is cleared, and a maskable acceptance clears IFF2 too (R808, R809, R811). -/
def State.beginAcceptance (s : State) (maskable : Bool) : State :=
  { s with halted := false, eiPending := false, r := refresh s.r, iff1 := false,
           iff2 := if maskable then false else s.iff2 }

/-- Save PC on the stack and go to the handler (R809, R812, R813; R372 for RST). -/
def State.enter (s : State) (target : Word) : State := (s.push s.pc).setPc target

/-- `AcceptNMI()` (R809): the entry is 0x0066, 11 cycles. -/
def acceptNmi (s : State) : Res :=
  finish (((({ s with nmiPending := false } : State).beginAcceptance false).enter 0x0066#16).tick 11)

/-- `AcceptIM0()` (R812): the device's byte must be an RST p, and p is where it goes. -/
def acceptIm0 (s : State) : Res :=
  if s.bus &&& 0xC7#8 = 0xC7#8 then finish ((s.enter (pair 0#8 (s.bus &&& 0x38#8))).tick 13)
  else .refused .im0Unsupported

/-- `AcceptIM1()` (R813): the entry is 0x0038. -/
def acceptIm1 (s : State) : Res := finish ((s.enter 0x0038#16).tick 13)

/-- `AcceptIM2()` (R814): the vector address is formed from I and the device's byte before PC is
pushed; the entry is the word there, read after the push. -/
def acceptIm2 (s : State) : Res :=
  let vaddr := pair s.i s.bus
  let t := s.push s.pc
  finish (((t.noteReadWord vaddr).setPc (t.peekWord vaddr)).tick 19)

/-- `AcceptINT()` (R811): the common part, with the device's byte latched, then the mode's. -/
def acceptInt (s : State) : Res :=
  let t := { s.beginAcceptance true with bus := s.intData }
  match s.im with
  | .im0 => acceptIm0 t
  | .im1 => acceptIm1 t
  | .im2 => acceptIm2 t

/-- The return from an interrupt (R370, R371, R816): PC from the stack, IFF1 from IFF2. -/
def State.returnFromInterrupt (s : State) : State :=
  { s.pop.setPc s.topWord with iff1 := s.iff2 }

end Sys2Proof.Machine
end

