-- ==== Sys2Proof/Machine/Operands.lean ====
section
/-! DEFINITION. The operand forms (30_encoding.md R204 to R222, 00_scope.md R22, R23): addresses of
memory operands, conditions, the operand codes of opcode fields and the index substitution. -/

namespace Sys2Proof.Machine

/-- IX or IY (R23). -/
def State.getIdx (s : State) : IdxReg → Word
  | .ix => s.ix
  | .iy => s.iy

/-- The effective address of `(XR+d)`: `(XR + sext_16(d)) mod 0x10000` (R23, R206). -/
def State.idxAddr (s : State) (x : IdxReg) (d : Byte) : Word := s.getIdx x + sext16 d

/-- The memory pointers HL, BC and DE of the register-indirect forms (R155). -/
def State.hl (s : State) : Word := s.getR16 .hl

/-- The target of a relative branch: PC, already past e, plus the signed e, wrapping (R207, R353).
-/
def State.relTarget (s : State) (e : Byte) : Word := s.pc + sext16 e

/-- The cycles an ignored index byte adds (R222). -/
def extra : IndexByte → Nat
  | .none => 0
  | .dd => 4
  | .fd => 4

/-- The test `Cond(y)` on F (R213). -/
def State.cond (s : State) : Cond → Bool
  | .nz => !s.main.f.getLsbD 6
  | .z => s.main.f.getLsbD 6
  | .nc => !s.main.f.getLsbD 0
  | .c => s.main.f.getLsbD 0
  | .po => !s.main.f.getLsbD 2
  | .pe => s.main.f.getLsbD 2
  | .p => !s.main.f.getLsbD 7
  | .m => s.main.f.getLsbD 7

/-! ## Codes in opcode fields (R210 to R214) -/

/-- The fields y = op[5:3], z = op[2:0], x = op[7:6], p = op[5:4] and q = op[3] (R30, R203). -/
def fx (op : Byte) : Nat := (op >>> 6).toNat
def fy (op : Byte) : Nat := ((op >>> 3) &&& 7#8).toNat
def fz (op : Byte) : Nat := (op &&& 7#8).toNat
def fp (op : Byte) : Nat := ((op >>> 4) &&& 3#8).toNat
def fq (op : Byte) : Nat := ((op >>> 3) &&& 1#8).toNat

/-- `r[c]` of R210; the code 6, which names (HL), is never asked for. -/
def r8Code : Nat → R8
  | 0 => .b
  | 1 => .c
  | 2 => .d
  | 3 => .e
  | 4 => .h
  | 5 => .l
  | _ => .a

/-- `r[c]` under an index byte, with no (HL) operand: 4 and 5 are the index halves (R220). -/
def r8CodeX : IndexByte → Nat → R8
  | .none, c => r8Code c
  | .dd, 4 => .ixh
  | .dd, 5 => .ixl
  | .fd, 4 => .iyh
  | .fd, 5 => .iyl
  | _, c => r8Code c

/-- HLX: HL with no index byte, else XR (R23, R217). -/
def hlx : IndexByte → R16
  | .none => .hl
  | .dd => .ix
  | .fd => .iy

/-- `rp[p]` of R211 under an index byte (R217). -/
def rpCode (px : IndexByte) : Nat → R16
  | 0 => .bc
  | 1 => .de
  | 2 => hlx px
  | _ => .sp

/-- `rp2[p]` of R211 under an index byte (R217). -/
def rp2Code (px : IndexByte) : Nat → R16
  | 0 => .bc
  | 1 => .de
  | 2 => hlx px
  | _ => .af

/-- `cc[y]` of R213. -/
def ccCode : Nat → Cond
  | 0 => .nz
  | 1 => .z
  | 2 => .nc
  | 3 => .c
  | 4 => .po
  | 5 => .pe
  | 6 => .p
  | _ => .m

/-- `alu[y]` of R212. -/
def aluCode : Nat → AluOp
  | 0 => .add
  | 1 => .adc
  | 2 => .sub
  | 3 => .sbc
  | 4 => .and
  | 5 => .xor
  | 6 => .or
  | _ => .cp

/-- `rot[y]` of R212. -/
def rotCode : Nat → RotOp
  | 0 => .rlc
  | 1 => .rrc
  | 2 => .rl
  | 3 => .rr
  | 4 => .sla
  | 5 => .sra
  | 6 => .sll
  | _ => .srl

/-- The interrupt mode of `ED x=1 z=6` (R214). -/
def imCode : Nat → IntMode
  | 2 => .im1
  | 6 => .im1
  | 3 => .im2
  | 7 => .im2
  | _ => .im0

/-- XR of an indexed form: IX for 0xDD and IY for 0xFD (R23, R216). -/
def xrOf : IndexByte → IdxReg
  | .fd => .iy
  | _ => .ix

end Sys2Proof.Machine
end

