-- ==== Sys2Proof/Machine/Flags.lean ====
section
/-! DEFINITION. The flag-arithmetic logic (40_flag_logic.md): the helpers R301 to R311, each the
contribution of one F bit, and the arithmetic primitives R314 to R322, which compute on integers and
narrow at the end (R13). F is always an OR of contributions that cover every bit once (R310). -/

namespace Sys2Proof.Machine

/-! ## Helpers -/

/-- One bit of F, set when the condition holds. -/
def flagBit (mask : Byte) (c : Bool) : Byte := if c then mask else 0#8

/-- `sign(v)` (R301). -/
def sign (v : Byte) : Byte := v &&& 0x80#8
/-- `zero(v)` (R302). -/
def zero (v : Byte) : Byte := flagBit 0x40#8 (v == 0#8)
/-- `x5(v)` (R303). -/
def x5 (v : Byte) : Byte := v &&& 0x20#8
/-- `x3(v)` (R304). -/
def x3 (v : Byte) : Byte := v &&& 0x08#8
/-- Whether a byte has an even number of 1 bits. -/
def evenOnes (v : Byte) : Bool := (List.range 8).countP (fun k => v.getLsbD k) % 2 == 0
/-- `parity(v)`: set for an even number of 1 bits (R305). -/
def parity (v : Byte) : Byte := flagBit 0x04#8 (evenOnes v)
/-- `halfCarry(c)` (R306). -/
def halfCarry (c : Bool) : Byte := flagBit 0x10#8 c
/-- `carry(c)` (R307). -/
def carry (c : Bool) : Byte := flagBit 0x01#8 c
/-- `overflow(c)` (R308). -/
def overflow (c : Bool) : Byte := flagBit 0x04#8 c
/-- `subtract(c)` (R308). -/
def subtract (c : Bool) : Byte := flagBit 0x02#8 c
/-- `unaffectedMask(bits)`: the old F under the mask (R309). -/
def unaffectedMask (f bits : Byte) : Byte := f &&& bits
/-- `SZ53(v)` (R311). -/
def sz53 (v : Byte) : Byte := sign v ||| zero v ||| x5 v ||| x3 v
/-- `SZ53P(v)` (R311). -/
def sz53p (v : Byte) : Byte := sz53 v ||| parity v
/-- `X53(v)` (R311). -/
def x53 (v : Byte) : Byte := x5 v ||| x3 v

/-- The carry bit of F as 0 or 1. -/
def carryOf (f : Byte) : Nat := (f &&& 1#8).toNat

/-- Whether an integer lies outside the signed range of 8 bits (R313). -/
def outside8 (n : Int) : Bool := decide (n < -128 ∨ n > 127)
/-- Whether an integer lies outside the signed range of 16 bits (R313). -/
def outside16 (n : Int) : Bool := decide (n < -32768 ∨ n > 32767)

/-! ## 8-bit primitives -/

/-- `Add8(a, b, c)` (R314): result and flags. -/
def add8 (a b : Byte) (c : Nat) : Byte × Byte :=
  let t := a.toNat + b.toNat + c
  let r := BitVec.ofNat 8 t
  (r, sz53 r
    ||| halfCarry (decide ((a &&& 0x0F#8).toNat + (b &&& 0x0F#8).toNat + c > 0x0F))
    ||| overflow (outside8 (a.toInt + b.toInt + c))
    ||| subtract false
    ||| carry (decide (t > 0xFF)))

/-- `Sub8(a, b, c)` (R315): result and flags. -/
def sub8 (a b : Byte) (c : Nat) : Byte × Byte :=
  let t : Int := (a.toNat : Int) - b.toNat - c
  let r := BitVec.ofInt 8 t
  (r, sz53 r
    ||| halfCarry (decide (((a &&& 0x0F#8).toNat : Int) - (b &&& 0x0F#8).toNat - c < 0))
    ||| overflow (outside8 (a.toInt - b.toInt - c))
    ||| subtract true
    ||| carry (decide (t < 0)))

/-- `Inc8(v)` (R316), with the old F, whose C it keeps. -/
def inc8 (v f : Byte) : Byte × Byte :=
  let r := v + 1#8
  (r, sz53 r ||| halfCarry (v &&& 0x0F#8 == 0x0F#8) ||| overflow (v == 0x7F#8)
    ||| subtract false ||| unaffectedMask f 0x01#8)

/-- `Dec8(v)` (R317), with the old F, whose C it keeps. -/
def dec8 (v f : Byte) : Byte × Byte :=
  let r := v - 1#8
  (r, sz53 r ||| halfCarry (v &&& 0x0F#8 == 0x00#8) ||| overflow (v == 0x80#8)
    ||| subtract true ||| unaffectedMask f 0x01#8)

/-- `And8` (R318). -/
def and8 (a b : Byte) : Byte × Byte := (a &&& b, sz53p (a &&& b) ||| halfCarry true)
/-- `Or8` (R318). -/
def or8 (a b : Byte) : Byte × Byte := (a ||| b, sz53p (a ||| b))
/-- `Xor8` (R318). -/
def xor8 (a b : Byte) : Byte × Byte := (a ^^^ b, sz53p (a ^^^ b))

/-- `CP`: the flags of the subtraction, with X5 and X3 from the operand (R658). -/
def cp8 (a b : Byte) : Byte := ((sub8 a b 0).2 &&& 0xD7#8) ||| x53 b

/-! ## 16-bit primitives -/

/-- The zero contribution of a 16-bit result: it tests all 16 bits (R320, R321). -/
def zero16 (r : Word) : Byte := flagBit 0x40#8 (r == 0#16)

/-- `Add16(a, b)` (R319), with the old F, whose S, Z and P/V it keeps. -/
def add16 (a b : Word) (f : Byte) : Word × Byte :=
  let t := a.toNat + b.toNat
  let r := BitVec.ofNat 16 t
  (r, unaffectedMask f 0xC4#8 ||| x53 (hi r)
    ||| halfCarry (decide ((a &&& 0x0FFF#16).toNat + (b &&& 0x0FFF#16).toNat > 0x0FFF))
    ||| subtract false ||| carry (decide (t > 0xFFFF)))

/-- `Adc16(a, b, c)` (R320). -/
def adc16 (a b : Word) (c : Nat) : Word × Byte :=
  let t := a.toNat + b.toNat + c
  let r := BitVec.ofNat 16 t
  (r, sign (hi r) ||| zero16 r ||| x53 (hi r)
    ||| halfCarry (decide ((a &&& 0x0FFF#16).toNat + (b &&& 0x0FFF#16).toNat + c > 0x0FFF))
    ||| overflow (outside16 (a.toInt + b.toInt + c))
    ||| subtract false ||| carry (decide (t > 0xFFFF)))

/-- `Sbc16(a, b, c)` (R321). -/
def sbc16 (a b : Word) (c : Nat) : Word × Byte :=
  let t : Int := (a.toNat : Int) - b.toNat - c
  let r := BitVec.ofInt 16 t
  (r, sign (hi r) ||| zero16 r ||| x53 (hi r)
    ||| halfCarry (decide (((a &&& 0x0FFF#16).toNat : Int) - (b &&& 0x0FFF#16).toNat - c < 0))
    ||| overflow (outside16 (a.toInt - b.toInt - c))
    ||| subtract true ||| carry (decide (t < 0)))

/-! ## Rotates and shifts -/

/-- The carry-in of a rotate as a byte 0 or 1. -/
def cinByte (c : Bool) : Byte := if c then 1#8 else 0#8

/-- `Rot(y, v, cin)` (R322): the result and the carry out. -/
def rot (op : RotOp) (v : Byte) (cin : Bool) : Byte × Bool :=
  match op with
  | .rlc => ((v <<< 1) ||| (v >>> 7), v.getLsbD 7)
  | .rrc => ((v >>> 1) ||| (v <<< 7), v.getLsbD 0)
  | .rl => ((v <<< 1) ||| cinByte cin, v.getLsbD 7)
  | .rr => ((v >>> 1) ||| (cinByte cin <<< 7), v.getLsbD 0)
  | .sla => (v <<< 1, v.getLsbD 7)
  | .sra => ((v >>> 1) ||| (v &&& 0x80#8), v.getLsbD 0)
  | .sll => ((v <<< 1) ||| 0x01#8, v.getLsbD 7)
  | .srl => (v >>> 1, v.getLsbD 0)

/-- The flags of the CB-space rotates and shifts (R756 to R763). -/
def rotFlags (res : Byte) (c : Bool) : Byte :=
  sz53p res ||| halfCarry false ||| subtract false ||| carry c

/-- The flags of the accumulator rotates, which keep S, Z and P/V (R750). -/
def rotAFlags (f res : Byte) (c : Bool) : Byte :=
  unaffectedMask f 0xC4#8 ||| x53 res ||| halfCarry false ||| subtract false ||| carry c

/-- The byte with only bit b set. -/
def bitMask (b : Fin 8) : Byte := 1#8 <<< b.val

/-- The flags of BIT: bit b of v under test, and `xy`, already masked, the X5 and X3 the form
gives (R780 to R782). -/
def bitFlags (b : Fin 8) (v xy f : Byte) : Byte :=
  let t := v &&& bitMask b
  sign t ||| zero t ||| xy ||| halfCarry true ||| overflow (t == 0#8) ||| subtract false
    ||| unaffectedMask f 0x01#8

/-! ## Flags of the block and input instructions -/

/-- Transfer flags (R501): from A, the byte moved and BC after the decrement. -/
def transferFlags (f a val : Byte) (bc : Word) : Byte :=
  let k := a + val
  unaffectedMask f 0xC1#8 ||| flagBit 0x20#8 (k.getLsbD 1) ||| flagBit 0x08#8 (k.getLsbD 3)
    ||| halfCarry false ||| overflow (bc != 0#16) ||| subtract false

/-- Search flags (R502): from A, the byte read and BC after the decrement. -/
def searchFlags (f a val : Byte) (bc : Word) : Byte :=
  let res := a - val
  let h := decide (((a &&& 0x0F#8).toNat : Int) - (val &&& 0x0F#8).toNat < 0)
  let k := res - cinByte h
  sign res ||| zero res ||| flagBit 0x20#8 (k.getLsbD 1) ||| flagBit 0x08#8 (k.getLsbD 3)
    ||| halfCarry h ||| overflow (bc != 0#16) ||| subtract true ||| unaffectedMask f 0x01#8

/-- Block I/O flags (R551): from the byte moved, B after the decrement and the 9-bit sum k. -/
def blockIoFlags (val b : Byte) (k : Nat) : Byte :=
  sz53 b ||| halfCarry (decide (k > 0xFF))
    ||| parity ((BitVec.ofNat 8 k &&& 0x07#8) ^^^ b)
    ||| subtract (val.getLsbD 7) ||| carry (decide (k > 0xFF))

/-- Flags of `IN r,(C)`, RLD and RRD: SZ53P of the value, H = N = 0, C kept (R553, R764, R765). -/
def inFlags (val f : Byte) : Byte :=
  sz53p val ||| halfCarry false ||| subtract false ||| unaffectedMask f 0x01#8

/-- Flags of `LD A,I` and `LD A,R`: P/V reports IFF2 (R415, R416). -/
def ldAirFlags (v f : Byte) (iff2 : Bool) : Byte :=
  sz53 v ||| halfCarry false ||| flagBit 0x04#8 iff2 ||| subtract false ||| unaffectedMask f 0x01#8

/-! ## Adjustments -/

/-- DAA (R665): the new A and F. -/
def daa8 (a f : Byte) : Byte × Byte :=
  let lowBig := decide ((a &&& 0x0F#8).toNat > 9)
  let low6 : Byte := if f.getLsbD 4 || lowBig then 0x06#8 else 0#8
  let c2 := f.getLsbD 0 || decide (a.toNat > 0x99)
  let diff := low6 + (if c2 then 0x60#8 else 0#8)
  let n := f.getLsbD 1
  let h2 := if n then f.getLsbD 4 && decide ((a &&& 0x0F#8).toNat < 6) else lowBig
  let r := if n then a - diff else a + diff
  (r, sz53p r ||| halfCarry h2 ||| unaffectedMask f 0x02#8 ||| carry c2)

/-- The X5 and X3 of SCF and CCF (R668, R669): the parameter of R11. Log entry 6. -/
def scfCcfBits (rule : XYRule) (a f : Byte) : Byte :=
  (match rule with
    | .aOrF => a ||| f
    | .other => Config.scfCcfXY a f) &&& 0x28#8

end Sys2Proof.Machine
end

