-- ==== Sys2Proof/Machine/Alu16.lean ====
section
/-! DEFINITION. 16-bit arithmetic (48_alu_16bit.md). -/

set_option linter.style.nameCheck false

namespace Sys2Proof.Machine

/-- `ADD HL,rp` and `ADD XR,rp` (R701, R702). -/
def addPair (dst src : R16) (cyc : Nat) (s : State) : State :=
  let r := add16 (s.getR16 dst) (s.getR16 src) s.main.f
  ((s.setR16 dst r.1).setF r.2).tick cyc

/-- `ADC HL,rp` (R703). -/
def adcHl (src : R16) (s : State) : State :=
  let r := adc16 s.hl (s.getR16 src) (carryOf s.main.f)
  ((s.setR16 .hl r.1).setF r.2).tick 15

/-- `SBC HL,rp` (R704). -/
def sbcHl (src : R16) (s : State) : State :=
  let r := sbc16 s.hl (s.getR16 src) (carryOf s.main.f)
  ((s.setR16 .hl r.1).setF r.2).tick 15

/-- `INC rp`: no flag (R705). -/
def incPair (r : R16) (cyc : Nat) (s : State) : State := (s.setR16 r (s.getR16 r + 1#16)).tick cyc

/-- `DEC rp`: no flag (R706). -/
def decPair (r : R16) (cyc : Nat) (s : State) : State := (s.setR16 r (s.getR16 r - 1#16)).tick cyc

/-! ## The meanings, one for each mnemonic -/

/-- `INC BC` (R705). -/
def exec_inc_bc (p : IndexByte) (s : State) : Res := .next (incPair .bc (6 + extra p) s)

/-- `ADD HL,BC` (R701). -/
def exec_add_hl_bc (s : State) : Res := .next (addPair .hl .bc 11 s)

/-- `DEC BC` (R706). -/
def exec_dec_bc (p : IndexByte) (s : State) : Res := .next (decPair .bc (6 + extra p) s)

/-- `INC DE` (R705). -/
def exec_inc_de (p : IndexByte) (s : State) : Res := .next (incPair .de (6 + extra p) s)

/-- `ADD HL,DE` (R701). -/
def exec_add_hl_de (s : State) : Res := .next (addPair .hl .de 11 s)

/-- `DEC DE` (R706). -/
def exec_dec_de (p : IndexByte) (s : State) : Res := .next (decPair .de (6 + extra p) s)

/-- `INC HL` (R705). -/
def exec_inc_hl (s : State) : Res := .next (incPair .hl 6 s)

/-- `ADD HL,HL` (R701). -/
def exec_add_hl_hl (s : State) : Res := .next (addPair .hl .hl 11 s)

/-- `DEC HL` (R706). -/
def exec_dec_hl (s : State) : Res := .next (decPair .hl 6 s)

/-- `INC SP` (R705). -/
def exec_inc_sp (p : IndexByte) (s : State) : Res := .next (incPair .sp (6 + extra p) s)

/-- `ADD HL,SP` (R701). -/
def exec_add_hl_sp (s : State) : Res := .next (addPair .hl .sp 11 s)

/-- `DEC SP` (R706). -/
def exec_dec_sp (p : IndexByte) (s : State) : Res := .next (decPair .sp (6 + extra p) s)

/-- `SBC HL,BC` (R704). -/
def exec_sbc_hl_bc (s : State) : Res := .next (sbcHl .bc s)

/-- `ADC HL,BC` (R703). -/
def exec_adc_hl_bc (s : State) : Res := .next (adcHl .bc s)

/-- `SBC HL,DE` (R704). -/
def exec_sbc_hl_de (s : State) : Res := .next (sbcHl .de s)

/-- `ADC HL,DE` (R703). -/
def exec_adc_hl_de (s : State) : Res := .next (adcHl .de s)

/-- `SBC HL,HL` (R704). -/
def exec_sbc_hl_hl (s : State) : Res := .next (sbcHl .hl s)

/-- `ADC HL,HL` (R703). -/
def exec_adc_hl_hl (s : State) : Res := .next (adcHl .hl s)

/-- `SBC HL,SP` (R704). -/
def exec_sbc_hl_sp (s : State) : Res := .next (sbcHl .sp s)

/-- `ADC HL,SP` (R703). -/
def exec_adc_hl_sp (s : State) : Res := .next (adcHl .sp s)

/-- `ADD IX,BC` (R702). -/
def exec_add_ix_bc (s : State) : Res := .next (addPair .ix .bc 15 s)

/-- `ADD IX,DE` (R702). -/
def exec_add_ix_de (s : State) : Res := .next (addPair .ix .de 15 s)

/-- `INC IX` (R705). -/
def exec_inc_ix (s : State) : Res := .next (incPair .ix 10 s)

/-- `ADD IX,IX` (R702). -/
def exec_add_ix_ix (s : State) : Res := .next (addPair .ix .ix 15 s)

/-- `DEC IX` (R706). -/
def exec_dec_ix (s : State) : Res := .next (decPair .ix 10 s)

/-- `ADD IX,SP` (R702). -/
def exec_add_ix_sp (s : State) : Res := .next (addPair .ix .sp 15 s)

/-- `ADD IY,BC` (R702). -/
def exec_add_iy_bc (s : State) : Res := .next (addPair .iy .bc 15 s)

/-- `ADD IY,DE` (R702). -/
def exec_add_iy_de (s : State) : Res := .next (addPair .iy .de 15 s)

/-- `INC IY` (R705). -/
def exec_inc_iy (s : State) : Res := .next (incPair .iy 10 s)

/-- `ADD IY,IY` (R702). -/
def exec_add_iy_iy (s : State) : Res := .next (addPair .iy .iy 15 s)

/-- `DEC IY` (R706). -/
def exec_dec_iy (s : State) : Res := .next (decPair .iy 10 s)

/-- `ADD IY,SP` (R702). -/
def exec_add_iy_sp (s : State) : Res := .next (addPair .iy .sp 15 s)

end Sys2Proof.Machine
end

