-- ==== Sys2Proof/Machine/Alu8.lean ====
section
/-! DEFINITION. 8-bit arithmetic and logic (47_alu_8bit.md). -/

set_option linter.style.nameCheck false

namespace Sys2Proof.Machine

/-- The new A and F of an accumulator operation on `v` (R651 to R658). -/
def aluResult (op : AluOp) (a v f : Byte) : Byte × Byte :=
  match op with
  | .add => add8 a v 0
  | .adc => add8 a v (carryOf f)
  | .sub => sub8 a v 0
  | .sbc => sub8 a v (carryOf f)
  | .and => and8 a v
  | .xor => xor8 a v
  | .or => or8 a v
  | .cp => (a, cp8 a v)

/-- An accumulator operation on a value (R650). -/
def alu (op : AluOp) (v : Byte) (cyc : Nat) (s : State) : State :=
  let r := aluResult op s.main.a v s.main.f
  ((s.setR8 .a r.1).setF r.2).tick cyc

/-- An accumulator operation on the byte at an address, read once (R650). -/
def aluMem (op : AluOp) (a : Word) (cyc : Nat) (s : State) : State :=
  alu op (s.peek a) cyc (s.noteRead a)

/-- `INC r`, the index halves included (R659). -/
def incReg (r : R8) (cyc : Nat) (s : State) : State :=
  let v := inc8 (s.getR8 r) s.main.f
  ((s.setR8 r v.1).setF v.2).tick cyc

/-- `DEC r`, the index halves included (R662). -/
def decReg (r : R8) (cyc : Nat) (s : State) : State :=
  let v := dec8 (s.getR8 r) s.main.f
  ((s.setR8 r v.1).setF v.2).tick cyc

/-- `INC (HL)` and `INC (XR+d)`: one read and one write (R660, R661). -/
def incMem (a : Word) (cyc : Nat) (s : State) : State :=
  let v := inc8 (s.peek a) s.main.f
  (((s.noteRead a).write a v.1).setF v.2).tick cyc

/-- `DEC (HL)` and `DEC (XR+d)`: one read and one write (R663, R664). -/
def decMem (a : Word) (cyc : Nat) (s : State) : State :=
  let v := dec8 (s.peek a) s.main.f
  (((s.noteRead a).write a v.1).setF v.2).tick cyc

/-- `DAA` (R665). -/
def daa (cyc : Nat) (s : State) : State :=
  let r := daa8 s.main.a s.main.f
  ((s.setR8 .a r.1).setF r.2).tick cyc

/-- `CPL`: S, Z, P/V and C stay (R666). -/
def cpl (cyc : Nat) (s : State) : State :=
  let r := ~~~s.main.a
  ((s.setR8 .a r).setF
    (unaffectedMask s.main.f 0xC5#8 ||| x53 r ||| halfCarry true ||| subtract true)).tick cyc

/-- `NEG` (R667). -/
def neg (s : State) : State :=
  let r := sub8 0#8 s.main.a 0
  ((s.setR8 .a r.1).setF r.2).tick 8

/-- `CCF`: H takes the old carry (R668). -/
def ccf (cyc : Nat) (s : State) : State :=
  let c := s.main.f.getLsbD 0
  (s.setF (unaffectedMask s.main.f 0xC4#8 ||| scfCcfBits s.params.scfCcfXY s.main.a s.main.f
    ||| halfCarry c ||| subtract false ||| carry (!c))).tick cyc

/-- `SCF` (R669). -/
def scf (cyc : Nat) (s : State) : State :=
  (s.setF (unaffectedMask s.main.f 0xC4#8 ||| scfCcfBits s.params.scfCcfXY s.main.a s.main.f
    ||| halfCarry false ||| subtract false ||| carry true)).tick cyc

/-! ## The meanings, one for each mnemonic -/

/-- `INC B` (R659). -/
def exec_inc_b (p : IndexByte) (s : State) : Res := .next (incReg .b (4 + extra p) s)

/-- `DEC B` (R662). -/
def exec_dec_b (p : IndexByte) (s : State) : Res := .next (decReg .b (4 + extra p) s)

/-- `INC C` (R659). -/
def exec_inc_c (p : IndexByte) (s : State) : Res := .next (incReg .c (4 + extra p) s)

/-- `DEC C` (R662). -/
def exec_dec_c (p : IndexByte) (s : State) : Res := .next (decReg .c (4 + extra p) s)

/-- `INC D` (R659). -/
def exec_inc_d (p : IndexByte) (s : State) : Res := .next (incReg .d (4 + extra p) s)

/-- `DEC D` (R662). -/
def exec_dec_d (p : IndexByte) (s : State) : Res := .next (decReg .d (4 + extra p) s)

/-- `INC E` (R659). -/
def exec_inc_e (p : IndexByte) (s : State) : Res := .next (incReg .e (4 + extra p) s)

/-- `DEC E` (R662). -/
def exec_dec_e (p : IndexByte) (s : State) : Res := .next (decReg .e (4 + extra p) s)

/-- `INC H` (R659). -/
def exec_inc_h (s : State) : Res := .next (incReg .h 4 s)

/-- `DEC H` (R662). -/
def exec_dec_h (s : State) : Res := .next (decReg .h 4 s)

/-- `DAA` (R665). -/
def exec_daa (p : IndexByte) (s : State) : Res := .next (daa (4 + extra p) s)

/-- `INC L` (R659). -/
def exec_inc_l (s : State) : Res := .next (incReg .l 4 s)

/-- `DEC L` (R662). -/
def exec_dec_l (s : State) : Res := .next (decReg .l 4 s)

/-- `CPL` (R666). -/
def exec_cpl (p : IndexByte) (s : State) : Res := .next (cpl (4 + extra p) s)

/-- `INC (HL)` (R660). -/
def exec_inc__hl (s : State) : Res := finish (incMem s.hl 11 s)

/-- `DEC (HL)` (R663). -/
def exec_dec__hl (s : State) : Res := finish (decMem s.hl 11 s)

/-- `SCF` (R669). -/
def exec_scf (p : IndexByte) (s : State) : Res := .next (scf (4 + extra p) s)

/-- `INC A` (R659). -/
def exec_inc_a (p : IndexByte) (s : State) : Res := .next (incReg .a (4 + extra p) s)

/-- `DEC A` (R662). -/
def exec_dec_a (p : IndexByte) (s : State) : Res := .next (decReg .a (4 + extra p) s)

/-- `CCF` (R668). -/
def exec_ccf (p : IndexByte) (s : State) : Res := .next (ccf (4 + extra p) s)

/-- `ADD A,B` (R651). -/
def exec_add_a_b (p : IndexByte) (s : State) : Res := .next (alu .add (s.getR8 .b) (4 + extra p) s)

/-- `ADD A,C` (R651). -/
def exec_add_a_c (p : IndexByte) (s : State) : Res := .next (alu .add (s.getR8 .c) (4 + extra p) s)

/-- `ADD A,D` (R651). -/
def exec_add_a_d (p : IndexByte) (s : State) : Res := .next (alu .add (s.getR8 .d) (4 + extra p) s)

/-- `ADD A,E` (R651). -/
def exec_add_a_e (p : IndexByte) (s : State) : Res := .next (alu .add (s.getR8 .e) (4 + extra p) s)

/-- `ADD A,H` (R651). -/
def exec_add_a_h (s : State) : Res := .next (alu .add (s.getR8 .h) 4 s)

/-- `ADD A,L` (R651). -/
def exec_add_a_l (s : State) : Res := .next (alu .add (s.getR8 .l) 4 s)

/-- `ADD A,(HL)` (R651). -/
def exec_add_a__hl (s : State) : Res := finish (aluMem .add s.hl 7 s)

/-- `ADD A,A` (R651). -/
def exec_add_a_a (p : IndexByte) (s : State) : Res := .next (alu .add (s.getR8 .a) (4 + extra p) s)

/-- `ADC A,B` (R652). -/
def exec_adc_a_b (p : IndexByte) (s : State) : Res := .next (alu .adc (s.getR8 .b) (4 + extra p) s)

/-- `ADC A,C` (R652). -/
def exec_adc_a_c (p : IndexByte) (s : State) : Res := .next (alu .adc (s.getR8 .c) (4 + extra p) s)

/-- `ADC A,D` (R652). -/
def exec_adc_a_d (p : IndexByte) (s : State) : Res := .next (alu .adc (s.getR8 .d) (4 + extra p) s)

/-- `ADC A,E` (R652). -/
def exec_adc_a_e (p : IndexByte) (s : State) : Res := .next (alu .adc (s.getR8 .e) (4 + extra p) s)

/-- `ADC A,H` (R652). -/
def exec_adc_a_h (s : State) : Res := .next (alu .adc (s.getR8 .h) 4 s)

/-- `ADC A,L` (R652). -/
def exec_adc_a_l (s : State) : Res := .next (alu .adc (s.getR8 .l) 4 s)

/-- `ADC A,(HL)` (R652). -/
def exec_adc_a__hl (s : State) : Res := finish (aluMem .adc s.hl 7 s)

/-- `ADC A,A` (R652). -/
def exec_adc_a_a (p : IndexByte) (s : State) : Res := .next (alu .adc (s.getR8 .a) (4 + extra p) s)

/-- `SUB B` (R653). -/
def exec_sub_b (p : IndexByte) (s : State) : Res := .next (alu .sub (s.getR8 .b) (4 + extra p) s)

/-- `SUB C` (R653). -/
def exec_sub_c (p : IndexByte) (s : State) : Res := .next (alu .sub (s.getR8 .c) (4 + extra p) s)

/-- `SUB D` (R653). -/
def exec_sub_d (p : IndexByte) (s : State) : Res := .next (alu .sub (s.getR8 .d) (4 + extra p) s)

/-- `SUB E` (R653). -/
def exec_sub_e (p : IndexByte) (s : State) : Res := .next (alu .sub (s.getR8 .e) (4 + extra p) s)

/-- `SUB H` (R653). -/
def exec_sub_h (s : State) : Res := .next (alu .sub (s.getR8 .h) 4 s)

/-- `SUB L` (R653). -/
def exec_sub_l (s : State) : Res := .next (alu .sub (s.getR8 .l) 4 s)

/-- `SUB (HL)` (R653). -/
def exec_sub__hl (s : State) : Res := finish (aluMem .sub s.hl 7 s)

/-- `SUB A` (R653). -/
def exec_sub_a (p : IndexByte) (s : State) : Res := .next (alu .sub (s.getR8 .a) (4 + extra p) s)

/-- `SBC A,B` (R654). -/
def exec_sbc_a_b (p : IndexByte) (s : State) : Res := .next (alu .sbc (s.getR8 .b) (4 + extra p) s)

/-- `SBC A,C` (R654). -/
def exec_sbc_a_c (p : IndexByte) (s : State) : Res := .next (alu .sbc (s.getR8 .c) (4 + extra p) s)

/-- `SBC A,D` (R654). -/
def exec_sbc_a_d (p : IndexByte) (s : State) : Res := .next (alu .sbc (s.getR8 .d) (4 + extra p) s)

/-- `SBC A,E` (R654). -/
def exec_sbc_a_e (p : IndexByte) (s : State) : Res := .next (alu .sbc (s.getR8 .e) (4 + extra p) s)

/-- `SBC A,H` (R654). -/
def exec_sbc_a_h (s : State) : Res := .next (alu .sbc (s.getR8 .h) 4 s)

/-- `SBC A,L` (R654). -/
def exec_sbc_a_l (s : State) : Res := .next (alu .sbc (s.getR8 .l) 4 s)

/-- `SBC A,(HL)` (R654). -/
def exec_sbc_a__hl (s : State) : Res := finish (aluMem .sbc s.hl 7 s)

/-- `SBC A,A` (R654). -/
def exec_sbc_a_a (p : IndexByte) (s : State) : Res := .next (alu .sbc (s.getR8 .a) (4 + extra p) s)

/-- `AND B` (R655). -/
def exec_and_b (p : IndexByte) (s : State) : Res := .next (alu .and (s.getR8 .b) (4 + extra p) s)

/-- `AND C` (R655). -/
def exec_and_c (p : IndexByte) (s : State) : Res := .next (alu .and (s.getR8 .c) (4 + extra p) s)

/-- `AND D` (R655). -/
def exec_and_d (p : IndexByte) (s : State) : Res := .next (alu .and (s.getR8 .d) (4 + extra p) s)

/-- `AND E` (R655). -/
def exec_and_e (p : IndexByte) (s : State) : Res := .next (alu .and (s.getR8 .e) (4 + extra p) s)

/-- `AND H` (R655). -/
def exec_and_h (s : State) : Res := .next (alu .and (s.getR8 .h) 4 s)

/-- `AND L` (R655). -/
def exec_and_l (s : State) : Res := .next (alu .and (s.getR8 .l) 4 s)

/-- `AND (HL)` (R655). -/
def exec_and__hl (s : State) : Res := finish (aluMem .and s.hl 7 s)

/-- `AND A` (R655). -/
def exec_and_a (p : IndexByte) (s : State) : Res := .next (alu .and (s.getR8 .a) (4 + extra p) s)

/-- `XOR B` (R656). -/
def exec_xor_b (p : IndexByte) (s : State) : Res := .next (alu .xor (s.getR8 .b) (4 + extra p) s)

/-- `XOR C` (R656). -/
def exec_xor_c (p : IndexByte) (s : State) : Res := .next (alu .xor (s.getR8 .c) (4 + extra p) s)

/-- `XOR D` (R656). -/
def exec_xor_d (p : IndexByte) (s : State) : Res := .next (alu .xor (s.getR8 .d) (4 + extra p) s)

/-- `XOR E` (R656). -/
def exec_xor_e (p : IndexByte) (s : State) : Res := .next (alu .xor (s.getR8 .e) (4 + extra p) s)

/-- `XOR H` (R656). -/
def exec_xor_h (s : State) : Res := .next (alu .xor (s.getR8 .h) 4 s)

/-- `XOR L` (R656). -/
def exec_xor_l (s : State) : Res := .next (alu .xor (s.getR8 .l) 4 s)

/-- `XOR (HL)` (R656). -/
def exec_xor__hl (s : State) : Res := finish (aluMem .xor s.hl 7 s)

/-- `XOR A` (R656). -/
def exec_xor_a (p : IndexByte) (s : State) : Res := .next (alu .xor (s.getR8 .a) (4 + extra p) s)

/-- `OR B` (R657). -/
def exec_or_b (p : IndexByte) (s : State) : Res := .next (alu .or (s.getR8 .b) (4 + extra p) s)

/-- `OR C` (R657). -/
def exec_or_c (p : IndexByte) (s : State) : Res := .next (alu .or (s.getR8 .c) (4 + extra p) s)

/-- `OR D` (R657). -/
def exec_or_d (p : IndexByte) (s : State) : Res := .next (alu .or (s.getR8 .d) (4 + extra p) s)

/-- `OR E` (R657). -/
def exec_or_e (p : IndexByte) (s : State) : Res := .next (alu .or (s.getR8 .e) (4 + extra p) s)

/-- `OR H` (R657). -/
def exec_or_h (s : State) : Res := .next (alu .or (s.getR8 .h) 4 s)

/-- `OR L` (R657). -/
def exec_or_l (s : State) : Res := .next (alu .or (s.getR8 .l) 4 s)

/-- `OR (HL)` (R657). -/
def exec_or__hl (s : State) : Res := finish (aluMem .or s.hl 7 s)

/-- `OR A` (R657). -/
def exec_or_a (p : IndexByte) (s : State) : Res := .next (alu .or (s.getR8 .a) (4 + extra p) s)

/-- `CP B` (R658). -/
def exec_cp_b (p : IndexByte) (s : State) : Res := .next (alu .cp (s.getR8 .b) (4 + extra p) s)

/-- `CP C` (R658). -/
def exec_cp_c (p : IndexByte) (s : State) : Res := .next (alu .cp (s.getR8 .c) (4 + extra p) s)

/-- `CP D` (R658). -/
def exec_cp_d (p : IndexByte) (s : State) : Res := .next (alu .cp (s.getR8 .d) (4 + extra p) s)

/-- `CP E` (R658). -/
def exec_cp_e (p : IndexByte) (s : State) : Res := .next (alu .cp (s.getR8 .e) (4 + extra p) s)

/-- `CP H` (R658). -/
def exec_cp_h (s : State) : Res := .next (alu .cp (s.getR8 .h) 4 s)

/-- `CP L` (R658). -/
def exec_cp_l (s : State) : Res := .next (alu .cp (s.getR8 .l) 4 s)

/-- `CP (HL)` (R658). -/
def exec_cp__hl (s : State) : Res := finish (aluMem .cp s.hl 7 s)

/-- `CP A` (R658). -/
def exec_cp_a (p : IndexByte) (s : State) : Res := .next (alu .cp (s.getR8 .a) (4 + extra p) s)

/-- `ADD A,n` (R651). -/
def exec_add_a_n (p : IndexByte) (n : Byte) (s : State) : Res := .next (alu .add n (7 + extra p) s)

/-- `ADC A,n` (R652). -/
def exec_adc_a_n (p : IndexByte) (n : Byte) (s : State) : Res := .next (alu .adc n (7 + extra p) s)

/-- `SUB n` (R653). -/
def exec_sub_n (p : IndexByte) (n : Byte) (s : State) : Res := .next (alu .sub n (7 + extra p) s)

/-- `SBC A,n` (R654). -/
def exec_sbc_a_n (p : IndexByte) (n : Byte) (s : State) : Res := .next (alu .sbc n (7 + extra p) s)

/-- `AND n` (R655). -/
def exec_and_n (p : IndexByte) (n : Byte) (s : State) : Res := .next (alu .and n (7 + extra p) s)

/-- `XOR n` (R656). -/
def exec_xor_n (p : IndexByte) (n : Byte) (s : State) : Res := .next (alu .xor n (7 + extra p) s)

/-- `OR n` (R657). -/
def exec_or_n (p : IndexByte) (n : Byte) (s : State) : Res := .next (alu .or n (7 + extra p) s)

/-- `CP n` (R658). -/
def exec_cp_n (p : IndexByte) (n : Byte) (s : State) : Res := .next (alu .cp n (7 + extra p) s)

/-- `NEG` (R667). -/
def exec_neg (_op : Byte) (s : State) : Res := .next (neg s)

/-- `INC IXH` (R659). -/
def exec_inc_ixh (s : State) : Res := .next (incReg .ixh 8 s)

/-- `DEC IXH` (R662). -/
def exec_dec_ixh (s : State) : Res := .next (decReg .ixh 8 s)

/-- `INC IXL` (R659). -/
def exec_inc_ixl (s : State) : Res := .next (incReg .ixl 8 s)

/-- `DEC IXL` (R662). -/
def exec_dec_ixl (s : State) : Res := .next (decReg .ixl 8 s)

/-- `INC (IX+d)` (R661). -/
def exec_inc__ixd (d : Byte) (s : State) : Res := finish (incMem (s.idxAddr .ix d) 23 s)

/-- `DEC (IX+d)` (R664). -/
def exec_dec__ixd (d : Byte) (s : State) : Res := finish (decMem (s.idxAddr .ix d) 23 s)

/-- `ADD A,IXH` (R651). -/
def exec_add_a_ixh (s : State) : Res := .next (alu .add (s.getR8 .ixh) 8 s)

/-- `ADD A,IXL` (R651). -/
def exec_add_a_ixl (s : State) : Res := .next (alu .add (s.getR8 .ixl) 8 s)

/-- `ADD A,(IX+d)` (R651). -/
def exec_add_a__ixd (d : Byte) (s : State) : Res := finish (aluMem .add (s.idxAddr .ix d) 19 s)

/-- `ADC A,IXH` (R652). -/
def exec_adc_a_ixh (s : State) : Res := .next (alu .adc (s.getR8 .ixh) 8 s)

/-- `ADC A,IXL` (R652). -/
def exec_adc_a_ixl (s : State) : Res := .next (alu .adc (s.getR8 .ixl) 8 s)

/-- `ADC A,(IX+d)` (R652). -/
def exec_adc_a__ixd (d : Byte) (s : State) : Res := finish (aluMem .adc (s.idxAddr .ix d) 19 s)

/-- `SUB IXH` (R653). -/
def exec_sub_ixh (s : State) : Res := .next (alu .sub (s.getR8 .ixh) 8 s)

/-- `SUB IXL` (R653). -/
def exec_sub_ixl (s : State) : Res := .next (alu .sub (s.getR8 .ixl) 8 s)

/-- `SUB (IX+d)` (R653). -/
def exec_sub__ixd (d : Byte) (s : State) : Res := finish (aluMem .sub (s.idxAddr .ix d) 19 s)

/-- `SBC A,IXH` (R654). -/
def exec_sbc_a_ixh (s : State) : Res := .next (alu .sbc (s.getR8 .ixh) 8 s)

/-- `SBC A,IXL` (R654). -/
def exec_sbc_a_ixl (s : State) : Res := .next (alu .sbc (s.getR8 .ixl) 8 s)

/-- `SBC A,(IX+d)` (R654). -/
def exec_sbc_a__ixd (d : Byte) (s : State) : Res := finish (aluMem .sbc (s.idxAddr .ix d) 19 s)

/-- `AND IXH` (R655). -/
def exec_and_ixh (s : State) : Res := .next (alu .and (s.getR8 .ixh) 8 s)

/-- `AND IXL` (R655). -/
def exec_and_ixl (s : State) : Res := .next (alu .and (s.getR8 .ixl) 8 s)

/-- `AND (IX+d)` (R655). -/
def exec_and__ixd (d : Byte) (s : State) : Res := finish (aluMem .and (s.idxAddr .ix d) 19 s)

/-- `XOR IXH` (R656). -/
def exec_xor_ixh (s : State) : Res := .next (alu .xor (s.getR8 .ixh) 8 s)

/-- `XOR IXL` (R656). -/
def exec_xor_ixl (s : State) : Res := .next (alu .xor (s.getR8 .ixl) 8 s)

/-- `XOR (IX+d)` (R656). -/
def exec_xor__ixd (d : Byte) (s : State) : Res := finish (aluMem .xor (s.idxAddr .ix d) 19 s)

/-- `OR IXH` (R657). -/
def exec_or_ixh (s : State) : Res := .next (alu .or (s.getR8 .ixh) 8 s)

/-- `OR IXL` (R657). -/
def exec_or_ixl (s : State) : Res := .next (alu .or (s.getR8 .ixl) 8 s)

/-- `OR (IX+d)` (R657). -/
def exec_or__ixd (d : Byte) (s : State) : Res := finish (aluMem .or (s.idxAddr .ix d) 19 s)

/-- `CP IXH` (R658). -/
def exec_cp_ixh (s : State) : Res := .next (alu .cp (s.getR8 .ixh) 8 s)

/-- `CP IXL` (R658). -/
def exec_cp_ixl (s : State) : Res := .next (alu .cp (s.getR8 .ixl) 8 s)

/-- `CP (IX+d)` (R658). -/
def exec_cp__ixd (d : Byte) (s : State) : Res := finish (aluMem .cp (s.idxAddr .ix d) 19 s)

/-- `INC IYH` (R659). -/
def exec_inc_iyh (s : State) : Res := .next (incReg .iyh 8 s)

/-- `DEC IYH` (R662). -/
def exec_dec_iyh (s : State) : Res := .next (decReg .iyh 8 s)

/-- `INC IYL` (R659). -/
def exec_inc_iyl (s : State) : Res := .next (incReg .iyl 8 s)

/-- `DEC IYL` (R662). -/
def exec_dec_iyl (s : State) : Res := .next (decReg .iyl 8 s)

/-- `INC (IY+d)` (R661). -/
def exec_inc__iyd (d : Byte) (s : State) : Res := finish (incMem (s.idxAddr .iy d) 23 s)

/-- `DEC (IY+d)` (R664). -/
def exec_dec__iyd (d : Byte) (s : State) : Res := finish (decMem (s.idxAddr .iy d) 23 s)

/-- `ADD A,IYH` (R651). -/
def exec_add_a_iyh (s : State) : Res := .next (alu .add (s.getR8 .iyh) 8 s)

/-- `ADD A,IYL` (R651). -/
def exec_add_a_iyl (s : State) : Res := .next (alu .add (s.getR8 .iyl) 8 s)

/-- `ADD A,(IY+d)` (R651). -/
def exec_add_a__iyd (d : Byte) (s : State) : Res := finish (aluMem .add (s.idxAddr .iy d) 19 s)

/-- `ADC A,IYH` (R652). -/
def exec_adc_a_iyh (s : State) : Res := .next (alu .adc (s.getR8 .iyh) 8 s)

/-- `ADC A,IYL` (R652). -/
def exec_adc_a_iyl (s : State) : Res := .next (alu .adc (s.getR8 .iyl) 8 s)

/-- `ADC A,(IY+d)` (R652). -/
def exec_adc_a__iyd (d : Byte) (s : State) : Res := finish (aluMem .adc (s.idxAddr .iy d) 19 s)

/-- `SUB IYH` (R653). -/
def exec_sub_iyh (s : State) : Res := .next (alu .sub (s.getR8 .iyh) 8 s)

/-- `SUB IYL` (R653). -/
def exec_sub_iyl (s : State) : Res := .next (alu .sub (s.getR8 .iyl) 8 s)

/-- `SUB (IY+d)` (R653). -/
def exec_sub__iyd (d : Byte) (s : State) : Res := finish (aluMem .sub (s.idxAddr .iy d) 19 s)

/-- `SBC A,IYH` (R654). -/
def exec_sbc_a_iyh (s : State) : Res := .next (alu .sbc (s.getR8 .iyh) 8 s)

/-- `SBC A,IYL` (R654). -/
def exec_sbc_a_iyl (s : State) : Res := .next (alu .sbc (s.getR8 .iyl) 8 s)

/-- `SBC A,(IY+d)` (R654). -/
def exec_sbc_a__iyd (d : Byte) (s : State) : Res := finish (aluMem .sbc (s.idxAddr .iy d) 19 s)

/-- `AND IYH` (R655). -/
def exec_and_iyh (s : State) : Res := .next (alu .and (s.getR8 .iyh) 8 s)

/-- `AND IYL` (R655). -/
def exec_and_iyl (s : State) : Res := .next (alu .and (s.getR8 .iyl) 8 s)

/-- `AND (IY+d)` (R655). -/
def exec_and__iyd (d : Byte) (s : State) : Res := finish (aluMem .and (s.idxAddr .iy d) 19 s)

/-- `XOR IYH` (R656). -/
def exec_xor_iyh (s : State) : Res := .next (alu .xor (s.getR8 .iyh) 8 s)

/-- `XOR IYL` (R656). -/
def exec_xor_iyl (s : State) : Res := .next (alu .xor (s.getR8 .iyl) 8 s)

/-- `XOR (IY+d)` (R656). -/
def exec_xor__iyd (d : Byte) (s : State) : Res := finish (aluMem .xor (s.idxAddr .iy d) 19 s)

/-- `OR IYH` (R657). -/
def exec_or_iyh (s : State) : Res := .next (alu .or (s.getR8 .iyh) 8 s)

/-- `OR IYL` (R657). -/
def exec_or_iyl (s : State) : Res := .next (alu .or (s.getR8 .iyl) 8 s)

/-- `OR (IY+d)` (R657). -/
def exec_or__iyd (d : Byte) (s : State) : Res := finish (aluMem .or (s.idxAddr .iy d) 19 s)

/-- `CP IYH` (R658). -/
def exec_cp_iyh (s : State) : Res := .next (alu .cp (s.getR8 .iyh) 8 s)

/-- `CP IYL` (R658). -/
def exec_cp_iyl (s : State) : Res := .next (alu .cp (s.getR8 .iyl) 8 s)

/-- `CP (IY+d)` (R658). -/
def exec_cp__iyd (d : Byte) (s : State) : Res := finish (aluMem .cp (s.idxAddr .iy d) 19 s)

end Sys2Proof.Machine
end

