-- ==== Sys2Proof/Machine/ControlFlow.lean ====
section
/-! DEFINITION. Jumps, calls, returns and restarts (41_control_flow.md). Operands are already
fetched when a meaning runs, so PC stands past the instruction (R350, log entry 13). No meaning here
changes F (R352). `extra p` is the 4 cycles of an ignored index byte (R222, R354). -/

set_option linter.style.nameCheck false

namespace Sys2Proof.Machine

/-- `JP nn` and `JP (HLX)` (R360, R365). -/
def jumpTo (target : Word) (cyc : Nat) (s : State) : State := (s.setPc target).tick cyc

/-- `JP cc,nn`: the same cycles taken or not (R361). -/
def jumpIf (cc : Cond) (nn : Word) (cyc : Nat) (s : State) : State :=
  if s.cond cc then jumpTo nn cyc s else s.tick cyc

/-- `JR e` (R362). -/
def jumpRel (e : Byte) (cyc : Nat) (s : State) : State := jumpTo (s.relTarget e) cyc s

/-- `JR cc,e`: 12 cycles taken, 7 not (R363). -/
def jumpRelIf (cc : Cond) (e : Byte) (x : Nat) (s : State) : State :=
  if s.cond cc then jumpRel e (12 + x) s else s.tick (7 + x)

/-- `DJNZ e`: B is decremented first; 13 cycles taken, 8 not (R364). -/
def djnz (e : Byte) (x : Nat) (s : State) : State :=
  let t := s.setR8 .b (s.main.b - 1#8)
  if t.main.b = 0#8 then t.tick (8 + x) else jumpRel e (13 + x) t

/-- `CALL nn` and `RST p` (R366, R372). -/
def call (nn : Word) (cyc : Nat) (s : State) : State := (s.enter nn).tick cyc

/-- `CALL cc,nn`: 17 cycles taken, 10 not (R367). -/
def callIf (cc : Cond) (nn : Word) (x : Nat) (s : State) : State :=
  if s.cond cc then call nn (17 + x) s else s.tick (10 + x)

/-- `RET` (R368). -/
def ret (cyc : Nat) (s : State) : State := (s.pop.setPc s.topWord).tick cyc

/-- `RET cc`: 11 cycles taken, 5 not (R369). -/
def retIf (cc : Cond) (x : Nat) (s : State) : State :=
  if s.cond cc then ret (11 + x) s else s.tick (5 + x)

/-- `RETI` and `RETN` (R370, R371). -/
def retInt (s : State) : State := s.returnFromInterrupt.tick 14

/-! ## The meanings, one for each mnemonic -/

/-- `DJNZ e` (R364). -/
def exec_djnz_e (p : IndexByte) (e : Byte) (s : State) : Res := .next (djnz e (extra p) s)

/-- `JR e` (R362). -/
def exec_jr_e (p : IndexByte) (e : Byte) (s : State) : Res := .next (jumpRel e (12 + extra p) s)

/-- `JR NZ,e` (R363). -/
def exec_jr_nz_e (p : IndexByte) (e : Byte) (s : State) : Res := .next (jumpRelIf .nz e (extra p) s)

/-- `JR Z,e` (R363). -/
def exec_jr_z_e (p : IndexByte) (e : Byte) (s : State) : Res := .next (jumpRelIf .z e (extra p) s)

/-- `JR NC,e` (R363). -/
def exec_jr_nc_e (p : IndexByte) (e : Byte) (s : State) : Res := .next (jumpRelIf .nc e (extra p) s)

/-- `JR C,e` (R363). -/
def exec_jr_c_e (p : IndexByte) (e : Byte) (s : State) : Res := .next (jumpRelIf .c e (extra p) s)

/-- `RET NZ` (R369). -/
def exec_ret_nz (p : IndexByte) (s : State) : Res := finish (retIf .nz (extra p) s)

/-- `JP NZ,nn` (R361). -/
def exec_jp_nz_nn (p : IndexByte) (nn : Word) (s : State) : Res :=
  .next (jumpIf .nz nn (10 + extra p) s)

/-- `JP nn` (R360). -/
def exec_jp_nn (p : IndexByte) (nn : Word) (s : State) : Res := .next (jumpTo nn (10 + extra p) s)

/-- `CALL NZ,nn` (R367). -/
def exec_call_nz_nn (p : IndexByte) (nn : Word) (s : State) : Res :=
  finish (callIf .nz nn (extra p) s)

/-- `RST 00H` (R372). -/
def exec_rst_00h (p : IndexByte) (s : State) : Res := finish (call 0x0000#16 (11 + extra p) s)

/-- `RET Z` (R369). -/
def exec_ret_z (p : IndexByte) (s : State) : Res := finish (retIf .z (extra p) s)

/-- `RET` (R368). -/
def exec_ret (p : IndexByte) (s : State) : Res := finish (ret (10 + extra p) s)

/-- `JP Z,nn` (R361). -/
def exec_jp_z_nn (p : IndexByte) (nn : Word) (s : State) : Res :=
  .next (jumpIf .z nn (10 + extra p) s)

/-- `CALL Z,nn` (R367). -/
def exec_call_z_nn (p : IndexByte) (nn : Word) (s : State) : Res :=
  finish (callIf .z nn (extra p) s)

/-- `CALL nn` (R366). -/
def exec_call_nn (p : IndexByte) (nn : Word) (s : State) : Res := finish (call nn (17 + extra p) s)

/-- `RST 08H` (R372). -/
def exec_rst_08h (p : IndexByte) (s : State) : Res := finish (call 0x0008#16 (11 + extra p) s)

/-- `RET NC` (R369). -/
def exec_ret_nc (p : IndexByte) (s : State) : Res := finish (retIf .nc (extra p) s)

/-- `JP NC,nn` (R361). -/
def exec_jp_nc_nn (p : IndexByte) (nn : Word) (s : State) : Res :=
  .next (jumpIf .nc nn (10 + extra p) s)

/-- `CALL NC,nn` (R367). -/
def exec_call_nc_nn (p : IndexByte) (nn : Word) (s : State) : Res :=
  finish (callIf .nc nn (extra p) s)

/-- `RST 10H` (R372). -/
def exec_rst_10h (p : IndexByte) (s : State) : Res := finish (call 0x0010#16 (11 + extra p) s)

/-- `RET C` (R369). -/
def exec_ret_c (p : IndexByte) (s : State) : Res := finish (retIf .c (extra p) s)

/-- `JP C,nn` (R361). -/
def exec_jp_c_nn (p : IndexByte) (nn : Word) (s : State) : Res :=
  .next (jumpIf .c nn (10 + extra p) s)

/-- `CALL C,nn` (R367). -/
def exec_call_c_nn (p : IndexByte) (nn : Word) (s : State) : Res :=
  finish (callIf .c nn (extra p) s)

/-- `RST 18H` (R372). -/
def exec_rst_18h (p : IndexByte) (s : State) : Res := finish (call 0x0018#16 (11 + extra p) s)

/-- `RET PO` (R369). -/
def exec_ret_po (p : IndexByte) (s : State) : Res := finish (retIf .po (extra p) s)

/-- `JP PO,nn` (R361). -/
def exec_jp_po_nn (p : IndexByte) (nn : Word) (s : State) : Res :=
  .next (jumpIf .po nn (10 + extra p) s)

/-- `CALL PO,nn` (R367). -/
def exec_call_po_nn (p : IndexByte) (nn : Word) (s : State) : Res :=
  finish (callIf .po nn (extra p) s)

/-- `RST 20H` (R372). -/
def exec_rst_20h (p : IndexByte) (s : State) : Res := finish (call 0x0020#16 (11 + extra p) s)

/-- `RET PE` (R369). -/
def exec_ret_pe (p : IndexByte) (s : State) : Res := finish (retIf .pe (extra p) s)

/-- `JP (HL)` (R365). -/
def exec_jp__hl (s : State) : Res := .next (jumpTo (s.getR16 .hl) 4 s)

/-- `JP PE,nn` (R361). -/
def exec_jp_pe_nn (p : IndexByte) (nn : Word) (s : State) : Res :=
  .next (jumpIf .pe nn (10 + extra p) s)

/-- `CALL PE,nn` (R367). -/
def exec_call_pe_nn (p : IndexByte) (nn : Word) (s : State) : Res :=
  finish (callIf .pe nn (extra p) s)

/-- `RST 28H` (R372). -/
def exec_rst_28h (p : IndexByte) (s : State) : Res := finish (call 0x0028#16 (11 + extra p) s)

/-- `RET P` (R369). -/
def exec_ret_p (p : IndexByte) (s : State) : Res := finish (retIf .p (extra p) s)

/-- `JP P,nn` (R361). -/
def exec_jp_p_nn (p : IndexByte) (nn : Word) (s : State) : Res :=
  .next (jumpIf .p nn (10 + extra p) s)

/-- `CALL P,nn` (R367). -/
def exec_call_p_nn (p : IndexByte) (nn : Word) (s : State) : Res :=
  finish (callIf .p nn (extra p) s)

/-- `RST 30H` (R372). -/
def exec_rst_30h (p : IndexByte) (s : State) : Res := finish (call 0x0030#16 (11 + extra p) s)

/-- `RET M` (R369). -/
def exec_ret_m (p : IndexByte) (s : State) : Res := finish (retIf .m (extra p) s)

/-- `JP M,nn` (R361). -/
def exec_jp_m_nn (p : IndexByte) (nn : Word) (s : State) : Res :=
  .next (jumpIf .m nn (10 + extra p) s)

/-- `CALL M,nn` (R367). -/
def exec_call_m_nn (p : IndexByte) (nn : Word) (s : State) : Res :=
  finish (callIf .m nn (extra p) s)

/-- `RST 38H` (R372). -/
def exec_rst_38h (p : IndexByte) (s : State) : Res := finish (call 0x0038#16 (11 + extra p) s)

/-- `RETN` (R371). -/
def exec_retn (_op : Byte) (s : State) : Res := finish (retInt s)

/-- `RETI` (R370). -/
def exec_reti (s : State) : Res := finish (retInt s)

/-- `JP (IX)` (R365). -/
def exec_jp__ix (s : State) : Res := .next (jumpTo (s.getR16 .ix) 8 s)

/-- `JP (IY)` (R365). -/
def exec_jp__iy (s : State) : Res := .next (jumpTo (s.getR16 .iy) 8 s)

end Sys2Proof.Machine
end

