-- ==== Sys2Proof/Machine/CpuControl.lean ====
section
/-! DEFINITION. CPU control (46_cpu_control.md). No meaning here changes F (R600). -/

set_option linter.style.nameCheck false

namespace Sys2Proof.Machine

/-- `NOP` and the ED no-operations (R601, R608). -/
def nop (cyc : Nat) (s : State) : State := s.tick cyc

/-- `HALT` (R602). -/
def halt (cyc : Nat) (s : State) : State := ({ s with halted := true } : State).tick cyc

/-- `DI`: the EI-pending flag stays (R603). -/
def di (cyc : Nat) (s : State) : State := ({ s with iff1 := false, iff2 := false } : State).tick cyc

/-- `EI` (R604). -/
def ei (cyc : Nat) (s : State) : State :=
  ({ s with iff1 := true, iff2 := true, eiPending := true } : State).tick cyc

/-- `IM 0`, `IM 1`, `IM 2` (R605 to R607). -/
def setIm (m : IntMode) (s : State) : State := ({ s with im := m } : State).tick 8

/-! ## The meanings, one for each mnemonic -/

/-- `NOP` (R601). -/
def exec_nop (p : IndexByte) (s : State) : Res := .next (nop (4 + extra p) s)

/-- `HALT` (R602). -/
def exec_halt (p : IndexByte) (s : State) : Res := .next (halt (4 + extra p) s)

/-- `DI` (R603). -/
def exec_di (p : IndexByte) (s : State) : Res := .next (di (4 + extra p) s)

/-- `EI` (R604). -/
def exec_ei (p : IndexByte) (s : State) : Res := .next (ei (4 + extra p) s)

/-- `NOP (ED)` (R608). -/
def exec_nop__ed (_op : Byte) (s : State) : Res := .next (nop 8 s)

/-- `IM 0` (R605). -/
def exec_im_0 (_op : Byte) (s : State) : Res := .next (setIm .im0 s)

/-- `IM 1` (R606). -/
def exec_im_1 (_op : Byte) (s : State) : Res := .next (setIm .im1 s)

/-- `IM 2` (R607). -/
def exec_im_2 (_op : Byte) (s : State) : Res := .next (setIm .im2 s)

end Sys2Proof.Machine
end

