-- ==== Sys2Proof/Machine/Block.lean ====
section
/-! DEFINITION. Block transfer and search (44_block_transfer_search.md). A repeating form does one
iteration and, while it must repeat, goes back to its own 0xED byte (R500). -/

set_option linter.style.nameCheck false

namespace Sys2Proof.Machine

/-- A pointer after one iteration: up for the I forms, down for the D forms. -/
def advance (up : Bool) (w : Word) : Word := if up then w + 1#16 else w - 1#16

/-- The end of an iteration: PC goes back by 2 and 21 cycles while it repeats, else 16 (R500). -/
def repeatIf (again : Bool) (s : State) : State :=
  if again then (s.setPc (s.pc - 2#16)).tick 21 else s.tick 16

/-- One transfer, LDI or LDD (R503, R505), before its cycles. -/
def transfer (up : Bool) (s : State) : State :=
  let val := s.peek s.hl
  let bc := s.getR16 .bc - 1#16
  let t := (s.noteRead s.hl).write (s.getR16 .de) val
  (((t.setR16 .hl (advance up s.hl)).setR16 .de (advance up (s.getR16 .de))).setR16 .bc bc).setF
    (transferFlags s.main.f s.main.a val bc)

/-- LDI and LDD. -/
def transferOnce (up : Bool) (s : State) : State := (transfer up s).tick 16

/-- LDIR and LDDR: again until BC is 0 (R504, R506). -/
def transferRepeat (up : Bool) (s : State) : State :=
  let t := transfer up s
  repeatIf (t.getR16 .bc != 0#16) t

/-- One search, CPI or CPD (R507, R509), before its cycles. -/
def search (up : Bool) (s : State) : State :=
  let bc := s.getR16 .bc - 1#16
  (((s.noteRead s.hl).setR16 .hl (advance up s.hl)).setR16 .bc bc).setF
    (searchFlags s.main.f s.main.a (s.peek s.hl) bc)

/-- CPI and CPD. -/
def searchOnce (up : Bool) (s : State) : State := (search up s).tick 16

/-- CPIR and CPDR: again until BC is 0 or the byte matches A (R508, R510). -/
def searchRepeat (up : Bool) (s : State) : State :=
  let t := search up s
  repeatIf (t.getR16 .bc != 0#16 && s.main.a != s.peek s.hl) t

/-! ## The meanings, one for each mnemonic -/

/-- `LDI` (R503). -/
def exec_ldi (s : State) : Res := finish (transferOnce true s)

/-- `CPI` (R507). -/
def exec_cpi (s : State) : Res := finish (searchOnce true s)

/-- `LDD` (R505). -/
def exec_ldd (s : State) : Res := finish (transferOnce false s)

/-- `CPD` (R509). -/
def exec_cpd (s : State) : Res := finish (searchOnce false s)

/-- `LDIR` (R504). -/
def exec_ldir (s : State) : Res := finish (transferRepeat true s)

/-- `CPIR` (R508). -/
def exec_cpir (s : State) : Res := finish (searchRepeat true s)

/-- `LDDR` (R506). -/
def exec_lddr (s : State) : Res := finish (transferRepeat false s)

/-- `CPDR` (R510). -/
def exec_cpdr (s : State) : Res := finish (searchRepeat false s)

end Sys2Proof.Machine
end

