-- ==== Sys2Proof/Machine/InOut.lean ====
section
/-! DEFINITION. Input and output (45_io.md). The port is n for the (n) forms, register C for every
other (R550). -/

set_option linter.style.nameCheck false

namespace Sys2Proof.Machine

/-- `IN A,(n)`: no flag (R552). -/
def inA (n : Byte) (cyc : Nat) (s : State) : State :=
  ((s.noteIn n).setR8 .a (s.portValue n)).tick cyc

/-- `IN r,(C)` (R553). -/
def inReg (dst : R8) (s : State) : State :=
  let val := s.portValue s.main.c
  (((s.noteIn s.main.c).setR8 dst val).setF (inFlags val s.main.f)).tick 12

/-- `IN F,(C)`: flags only (R554). -/
def inF (s : State) : State :=
  ((s.noteIn s.main.c).setF (inFlags (s.portValue s.main.c) s.main.f)).tick 12

/-- A byte to a port (R555 to R557). -/
def outPort (p v : Byte) (cyc : Nat) (s : State) : State := (s.portOut p v).tick cyc

/-- One input, INI or IND (R558, R560), before its cycles. -/
def blockIn (up : Bool) (s : State) : State :=
  let val := s.portValue s.main.c
  let b := s.main.b - 1#8
  let k := val.toNat + (if up then s.main.c + 1#8 else s.main.c - 1#8).toNat
  let t := (s.noteIn s.main.c).write s.hl val
  ((t.setR16 .hl (advance up s.hl)).setR8 .b b).setF (blockIoFlags val b k)

/-- One output, OUTI or OUTD (R562, R564), before its cycles: B is counted down before the output,
and L is taken after the update of HL. -/
def blockOut (up : Bool) (s : State) : State :=
  let val := s.peek s.hl
  let b := s.main.b - 1#8
  let k := val.toNat + (lo (advance up s.hl)).toNat
  let t := ((s.noteRead s.hl).setR8 .b b).portOut s.main.c val
  (t.setR16 .hl (advance up s.hl)).setF (blockIoFlags val b k)

/-- INI and IND. -/
def blockInOnce (up : Bool) (s : State) : State := (blockIn up s).tick 16

/-- INIR and INDR: again until B is 0 (R559, R561). -/
def blockInRepeat (up : Bool) (s : State) : State :=
  let t := blockIn up s
  repeatIf (t.main.b != 0#8) t

/-- OUTI and OUTD. -/
def blockOutOnce (up : Bool) (s : State) : State := (blockOut up s).tick 16

/-- OTIR and OTDR: again until B is 0 (R563, R565). -/
def blockOutRepeat (up : Bool) (s : State) : State :=
  let t := blockOut up s
  repeatIf (t.main.b != 0#8) t

/-! ## The meanings, one for each mnemonic -/

/-- `OUT (n),A` (R555). -/
def exec_out__n__a (p : IndexByte) (n : Byte) (s : State) : Res :=
  finish (outPort n s.main.a (11 + extra p) s)

/-- `IN A,(n)` (R552). -/
def exec_in_a__n (p : IndexByte) (n : Byte) (s : State) : Res := finish (inA n (11 + extra p) s)

/-- `IN B,(C)` (R553). -/
def exec_in_b__c (s : State) : Res := finish (inReg .b s)

/-- `OUT (C),B` (R556). -/
def exec_out__c__b (s : State) : Res := finish (outPort s.main.c (s.getR8 .b) 12 s)

/-- `IN C,(C)` (R553). -/
def exec_in_c__c (s : State) : Res := finish (inReg .c s)

/-- `OUT (C),C` (R556). -/
def exec_out__c__c (s : State) : Res := finish (outPort s.main.c (s.getR8 .c) 12 s)

/-- `IN D,(C)` (R553). -/
def exec_in_d__c (s : State) : Res := finish (inReg .d s)

/-- `OUT (C),D` (R556). -/
def exec_out__c__d (s : State) : Res := finish (outPort s.main.c (s.getR8 .d) 12 s)

/-- `IN E,(C)` (R553). -/
def exec_in_e__c (s : State) : Res := finish (inReg .e s)

/-- `OUT (C),E` (R556). -/
def exec_out__c__e (s : State) : Res := finish (outPort s.main.c (s.getR8 .e) 12 s)

/-- `IN H,(C)` (R553). -/
def exec_in_h__c (s : State) : Res := finish (inReg .h s)

/-- `OUT (C),H` (R556). -/
def exec_out__c__h (s : State) : Res := finish (outPort s.main.c (s.getR8 .h) 12 s)

/-- `IN L,(C)` (R553). -/
def exec_in_l__c (s : State) : Res := finish (inReg .l s)

/-- `OUT (C),L` (R556). -/
def exec_out__c__l (s : State) : Res := finish (outPort s.main.c (s.getR8 .l) 12 s)

/-- `IN F,(C)` (R554). -/
def exec_in_f__c (s : State) : Res := finish (inF s)

/-- `OUT (C),0` (R557). -/
def exec_out__c__0 (s : State) : Res := finish (outPort s.main.c s.params.outC0Value 12 s)

/-- `IN A,(C)` (R553). -/
def exec_in_a__c (s : State) : Res := finish (inReg .a s)

/-- `OUT (C),A` (R556). -/
def exec_out__c__a (s : State) : Res := finish (outPort s.main.c (s.getR8 .a) 12 s)

/-- `INI` (R558). -/
def exec_ini (s : State) : Res := finish (blockInOnce true s)

/-- `OUTI` (R562). -/
def exec_outi (s : State) : Res := finish (blockOutOnce true s)

/-- `IND` (R560). -/
def exec_ind (s : State) : Res := finish (blockInOnce false s)

/-- `OUTD` (R564). -/
def exec_outd (s : State) : Res := finish (blockOutOnce false s)

/-- `INIR` (R559). -/
def exec_inir (s : State) : Res := finish (blockInRepeat true s)

/-- `OTIR` (R563). -/
def exec_otir (s : State) : Res := finish (blockOutRepeat true s)

/-- `INDR` (R561). -/
def exec_indr (s : State) : Res := finish (blockInRepeat false s)

/-- `OTDR` (R565). -/
def exec_otdr (s : State) : Res := finish (blockOutRepeat false s)

end Sys2Proof.Machine
end

