-- ==== Sys2Proof/Machine/Load16.lean ====
section
/-! DEFINITION. 16-bit loads, stack and exchanges (43_load_16bit_exchange.md). Only POP AF and
EX AF,AF' change F, as a whole byte (R450). -/

set_option linter.style.nameCheck false

namespace Sys2Proof.Machine

/-- `LD rp,nn` and `LD XR,nn` (R451). -/
def ldImm16 (dst : R16) (nn : Word) (cyc : Nat) (s : State) : State := (s.setR16 dst nn).tick cyc

/-- A pair from the word at an address (R452, R453). -/
def loadWord (dst : R16) (a : Word) (cyc : Nat) (s : State) : State :=
  ((s.noteReadWord a).setR16 dst (s.peekWord a)).tick cyc

/-- A word to an address (R454, R455). -/
def storeWord (a : Word) (v : Word) (cyc : Nat) (s : State) : State := (s.writeWord a v).tick cyc

/-- `LD SP,HLX` (R456). -/
def ldSp (src : R16) (cyc : Nat) (s : State) : State := (s.setR16 .sp (s.getR16 src)).tick cyc

/-- `PUSH` (R457). -/
def push16 (src : R16) (cyc : Nat) (s : State) : State := (s.push (s.getR16 src)).tick cyc

/-- `POP` (R458). -/
def pop16 (dst : R16) (cyc : Nat) (s : State) : State := (s.pop.setR16 dst s.topWord).tick cyc

/-- `EX DE,HL` (R459). -/
def exDeHl (cyc : Nat) (s : State) : State :=
  ((s.setR16 .de (s.getR16 .hl)).setR16 .hl (s.getR16 .de)).tick cyc

/-- `EX AF,AF'` (R460). -/
def exAf (cyc : Nat) (s : State) : State :=
  ({ s with main := { s.main with a := s.alt.a, f := s.alt.f },
            alt := { s.alt with a := s.main.a, f := s.main.f } } : State).tick cyc

/-- `EXX` (R461): A and F stay where they are. -/
def exx (cyc : Nat) (s : State) : State :=
  ({ s with main := { s.alt with a := s.main.a, f := s.main.f },
            alt := { s.main with a := s.alt.a, f := s.alt.f } } : State).tick cyc

/-- `EX (SP),HLX`: two reads, low byte first, and two writes, high byte first (R462). -/
def exSp (r : R16) (cyc : Nat) (s : State) : State :=
  let t := ((s.noteReadWord s.sp).write (s.sp + 1#16) (hi (s.getR16 r))).write s.sp
    (lo (s.getR16 r))
  (t.setR16 r s.topWord).tick cyc

/-! ## The meanings, one for each mnemonic -/

/-- `LD BC,nn` (R451). -/
def exec_ld_bc_nn (p : IndexByte) (nn : Word) (s : State) : Res :=
  .next (ldImm16 .bc nn (10 + extra p) s)

/-- `EX AF,AF'` (R460). -/
def exec_ex_af_af (p : IndexByte) (s : State) : Res := .next (exAf (4 + extra p) s)

/-- `LD DE,nn` (R451). -/
def exec_ld_de_nn (p : IndexByte) (nn : Word) (s : State) : Res :=
  .next (ldImm16 .de nn (10 + extra p) s)

/-- `LD HL,nn` (R451). -/
def exec_ld_hl_nn (nn : Word) (s : State) : Res := .next (ldImm16 .hl nn 10 s)

/-- `LD (nn),HL` (R454). -/
def exec_ld__nn__hl (nn : Word) (s : State) : Res := finish (storeWord nn (s.getR16 .hl) 16 s)

/-- `LD HL,(nn)` (R452). -/
def exec_ld_hl__nn (nn : Word) (s : State) : Res := finish (loadWord .hl nn 16 s)

/-- `LD SP,nn` (R451). -/
def exec_ld_sp_nn (p : IndexByte) (nn : Word) (s : State) : Res :=
  .next (ldImm16 .sp nn (10 + extra p) s)

/-- `POP BC` (R458). -/
def exec_pop_bc (p : IndexByte) (s : State) : Res := finish (pop16 .bc (10 + extra p) s)

/-- `PUSH BC` (R457). -/
def exec_push_bc (p : IndexByte) (s : State) : Res := finish (push16 .bc (11 + extra p) s)

/-- `POP DE` (R458). -/
def exec_pop_de (p : IndexByte) (s : State) : Res := finish (pop16 .de (10 + extra p) s)

/-- `PUSH DE` (R457). -/
def exec_push_de (p : IndexByte) (s : State) : Res := finish (push16 .de (11 + extra p) s)

/-- `EXX` (R461). -/
def exec_exx (p : IndexByte) (s : State) : Res := .next (exx (4 + extra p) s)

/-- `POP HL` (R458). -/
def exec_pop_hl (s : State) : Res := finish (pop16 .hl 10 s)

/-- `EX (SP),HL` (R462). -/
def exec_ex__sp__hl (s : State) : Res := finish (exSp .hl 19 s)

/-- `PUSH HL` (R457). -/
def exec_push_hl (s : State) : Res := finish (push16 .hl 11 s)

/-- `EX DE,HL` (R459). -/
def exec_ex_de_hl (p : IndexByte) (s : State) : Res := .next (exDeHl (4 + extra p) s)

/-- `POP AF` (R458). -/
def exec_pop_af (p : IndexByte) (s : State) : Res := finish (pop16 .af (10 + extra p) s)

/-- `PUSH AF` (R457). -/
def exec_push_af (p : IndexByte) (s : State) : Res := finish (push16 .af (11 + extra p) s)

/-- `LD SP,HL` (R456). -/
def exec_ld_sp_hl (s : State) : Res := .next (ldSp .hl 6 s)

/-- `LD (nn),BC` (R455). -/
def exec_ld__nn__bc (nn : Word) (s : State) : Res := finish (storeWord nn (s.getR16 .bc) 20 s)

/-- `LD BC,(nn)` (R453). -/
def exec_ld_bc__nn (nn : Word) (s : State) : Res := finish (loadWord .bc nn 20 s)

/-- `LD (nn),DE` (R455). -/
def exec_ld__nn__de (nn : Word) (s : State) : Res := finish (storeWord nn (s.getR16 .de) 20 s)

/-- `LD DE,(nn)` (R453). -/
def exec_ld_de__nn (nn : Word) (s : State) : Res := finish (loadWord .de nn 20 s)

/-- `LD (nn),HL` (R455). -/
def exec_ld__nn__hl_ed (nn : Word) (s : State) : Res := finish (storeWord nn (s.getR16 .hl) 20 s)

/-- `LD HL,(nn)` (R453). -/
def exec_ld_hl__nn_ed (nn : Word) (s : State) : Res := finish (loadWord .hl nn 20 s)

/-- `LD (nn),SP` (R455). -/
def exec_ld__nn__sp (nn : Word) (s : State) : Res := finish (storeWord nn (s.getR16 .sp) 20 s)

/-- `LD SP,(nn)` (R453). -/
def exec_ld_sp__nn (nn : Word) (s : State) : Res := finish (loadWord .sp nn 20 s)

/-- `LD IX,nn` (R451). -/
def exec_ld_ix_nn (nn : Word) (s : State) : Res := .next (ldImm16 .ix nn 14 s)

/-- `LD (nn),IX` (R454). -/
def exec_ld__nn__ix (nn : Word) (s : State) : Res := finish (storeWord nn (s.getR16 .ix) 20 s)

/-- `LD IX,(nn)` (R452). -/
def exec_ld_ix__nn (nn : Word) (s : State) : Res := finish (loadWord .ix nn 20 s)

/-- `POP IX` (R458). -/
def exec_pop_ix (s : State) : Res := finish (pop16 .ix 14 s)

/-- `EX (SP),IX` (R462). -/
def exec_ex__sp__ix (s : State) : Res := finish (exSp .ix 23 s)

/-- `PUSH IX` (R457). -/
def exec_push_ix (s : State) : Res := finish (push16 .ix 15 s)

/-- `LD SP,IX` (R456). -/
def exec_ld_sp_ix (s : State) : Res := .next (ldSp .ix 10 s)

/-- `LD IY,nn` (R451). -/
def exec_ld_iy_nn (nn : Word) (s : State) : Res := .next (ldImm16 .iy nn 14 s)

/-- `LD (nn),IY` (R454). -/
def exec_ld__nn__iy (nn : Word) (s : State) : Res := finish (storeWord nn (s.getR16 .iy) 20 s)

/-- `LD IY,(nn)` (R452). -/
def exec_ld_iy__nn (nn : Word) (s : State) : Res := finish (loadWord .iy nn 20 s)

/-- `POP IY` (R458). -/
def exec_pop_iy (s : State) : Res := finish (pop16 .iy 14 s)

/-- `EX (SP),IY` (R462). -/
def exec_ex__sp__iy (s : State) : Res := finish (exSp .iy 23 s)

/-- `PUSH IY` (R457). -/
def exec_push_iy (s : State) : Res := finish (push16 .iy 15 s)

/-- `LD SP,IY` (R456). -/
def exec_ld_sp_iy (s : State) : Res := .next (ldSp .iy 10 s)

end Sys2Proof.Machine
end

