-- ==== Sys2Proof/Machine/Load8.lean ====
section
/-! DEFINITION. 8-bit loads (42_load_8bit.md). Only LD A,I and LD A,R change F (R400). -/

set_option linter.style.nameCheck false

namespace Sys2Proof.Machine

/-- `LD r,r'`, the index halves included (R401, R419). -/
def ld8 (dst src : R8) (cyc : Nat) (s : State) : State := (s.setR8 dst (s.getR8 src)).tick cyc

/-- `LD r,n` (R402, R420). -/
def ldImm8 (dst : R8) (n : Byte) (cyc : Nat) (s : State) : State := (s.setR8 dst n).tick cyc

/-- A register from the byte at an address (R403, R404, R409 to R411). -/
def loadByte (dst : R8) (a : Word) (cyc : Nat) (s : State) : State :=
  ((s.noteRead a).setR8 dst (s.peek a)).tick cyc

/-- A byte to an address (R405 to R408, R412 to R414). -/
def storeByte (a : Word) (v : Byte) (cyc : Nat) (s : State) : State := (s.write a v).tick cyc

/-- `LD A,I` and `LD A,R`: P/V reports IFF2 (R415, R416). -/
def ldSpecial (v : Byte) (s : State) : State :=
  ((s.setR8 .a v).setF (ldAirFlags v s.main.f s.iff2)).tick 9

/-- `LD I,A` (R417). -/
def ldIA (s : State) : State := ({ s with i := s.main.a } : State).tick 9

/-- `LD R,A`: all eight bits (R418). -/
def ldRA (s : State) : State := ({ s with r := s.main.a } : State).tick 9

/-! ## The meanings, one for each mnemonic -/

/-- `LD (BC),A` (R412). -/
def exec_ld__bc__a (p : IndexByte) (s : State) : Res :=
  finish (storeByte (s.getR16 .bc) s.main.a (7 + extra p) s)

/-- `LD B,n` (R402). -/
def exec_ld_b_n (p : IndexByte) (n : Byte) (s : State) : Res := .next (ldImm8 .b n (7 + extra p) s)

/-- `LD A,(BC)` (R409). -/
def exec_ld_a__bc (p : IndexByte) (s : State) : Res :=
  finish (loadByte .a (s.getR16 .bc) (7 + extra p) s)

/-- `LD C,n` (R402). -/
def exec_ld_c_n (p : IndexByte) (n : Byte) (s : State) : Res := .next (ldImm8 .c n (7 + extra p) s)

/-- `LD (DE),A` (R413). -/
def exec_ld__de__a (p : IndexByte) (s : State) : Res :=
  finish (storeByte (s.getR16 .de) s.main.a (7 + extra p) s)

/-- `LD D,n` (R402). -/
def exec_ld_d_n (p : IndexByte) (n : Byte) (s : State) : Res := .next (ldImm8 .d n (7 + extra p) s)

/-- `LD A,(DE)` (R410). -/
def exec_ld_a__de (p : IndexByte) (s : State) : Res :=
  finish (loadByte .a (s.getR16 .de) (7 + extra p) s)

/-- `LD E,n` (R402). -/
def exec_ld_e_n (p : IndexByte) (n : Byte) (s : State) : Res := .next (ldImm8 .e n (7 + extra p) s)

/-- `LD H,n` (R402). -/
def exec_ld_h_n (n : Byte) (s : State) : Res := .next (ldImm8 .h n 7 s)

/-- `LD L,n` (R402). -/
def exec_ld_l_n (n : Byte) (s : State) : Res := .next (ldImm8 .l n 7 s)

/-- `LD (nn),A` (R414). -/
def exec_ld__nn__a (p : IndexByte) (nn : Word) (s : State) : Res :=
  finish (storeByte nn s.main.a (13 + extra p) s)

/-- `LD (HL),n` (R407). -/
def exec_ld__hl__n (n : Byte) (s : State) : Res := finish (storeByte s.hl n 10 s)

/-- `LD A,(nn)` (R411). -/
def exec_ld_a__nn (p : IndexByte) (nn : Word) (s : State) : Res :=
  finish (loadByte .a nn (13 + extra p) s)

/-- `LD A,n` (R402). -/
def exec_ld_a_n (p : IndexByte) (n : Byte) (s : State) : Res := .next (ldImm8 .a n (7 + extra p) s)

/-- `LD B,B` (R401). -/
def exec_ld_b_b (p : IndexByte) (s : State) : Res := .next (ld8 .b .b (4 + extra p) s)

/-- `LD B,C` (R401). -/
def exec_ld_b_c (p : IndexByte) (s : State) : Res := .next (ld8 .b .c (4 + extra p) s)

/-- `LD B,D` (R401). -/
def exec_ld_b_d (p : IndexByte) (s : State) : Res := .next (ld8 .b .d (4 + extra p) s)

/-- `LD B,E` (R401). -/
def exec_ld_b_e (p : IndexByte) (s : State) : Res := .next (ld8 .b .e (4 + extra p) s)

/-- `LD B,H` (R401). -/
def exec_ld_b_h (s : State) : Res := .next (ld8 .b .h 4 s)

/-- `LD B,L` (R401). -/
def exec_ld_b_l (s : State) : Res := .next (ld8 .b .l 4 s)

/-- `LD B,(HL)` (R403). -/
def exec_ld_b__hl (s : State) : Res := finish (loadByte .b s.hl 7 s)

/-- `LD B,A` (R401). -/
def exec_ld_b_a (p : IndexByte) (s : State) : Res := .next (ld8 .b .a (4 + extra p) s)

/-- `LD C,B` (R401). -/
def exec_ld_c_b (p : IndexByte) (s : State) : Res := .next (ld8 .c .b (4 + extra p) s)

/-- `LD C,C` (R401). -/
def exec_ld_c_c (p : IndexByte) (s : State) : Res := .next (ld8 .c .c (4 + extra p) s)

/-- `LD C,D` (R401). -/
def exec_ld_c_d (p : IndexByte) (s : State) : Res := .next (ld8 .c .d (4 + extra p) s)

/-- `LD C,E` (R401). -/
def exec_ld_c_e (p : IndexByte) (s : State) : Res := .next (ld8 .c .e (4 + extra p) s)

/-- `LD C,H` (R401). -/
def exec_ld_c_h (s : State) : Res := .next (ld8 .c .h 4 s)

/-- `LD C,L` (R401). -/
def exec_ld_c_l (s : State) : Res := .next (ld8 .c .l 4 s)

/-- `LD C,(HL)` (R403). -/
def exec_ld_c__hl (s : State) : Res := finish (loadByte .c s.hl 7 s)

/-- `LD C,A` (R401). -/
def exec_ld_c_a (p : IndexByte) (s : State) : Res := .next (ld8 .c .a (4 + extra p) s)

/-- `LD D,B` (R401). -/
def exec_ld_d_b (p : IndexByte) (s : State) : Res := .next (ld8 .d .b (4 + extra p) s)

/-- `LD D,C` (R401). -/
def exec_ld_d_c (p : IndexByte) (s : State) : Res := .next (ld8 .d .c (4 + extra p) s)

/-- `LD D,D` (R401). -/
def exec_ld_d_d (p : IndexByte) (s : State) : Res := .next (ld8 .d .d (4 + extra p) s)

/-- `LD D,E` (R401). -/
def exec_ld_d_e (p : IndexByte) (s : State) : Res := .next (ld8 .d .e (4 + extra p) s)

/-- `LD D,H` (R401). -/
def exec_ld_d_h (s : State) : Res := .next (ld8 .d .h 4 s)

/-- `LD D,L` (R401). -/
def exec_ld_d_l (s : State) : Res := .next (ld8 .d .l 4 s)

/-- `LD D,(HL)` (R403). -/
def exec_ld_d__hl (s : State) : Res := finish (loadByte .d s.hl 7 s)

/-- `LD D,A` (R401). -/
def exec_ld_d_a (p : IndexByte) (s : State) : Res := .next (ld8 .d .a (4 + extra p) s)

/-- `LD E,B` (R401). -/
def exec_ld_e_b (p : IndexByte) (s : State) : Res := .next (ld8 .e .b (4 + extra p) s)

/-- `LD E,C` (R401). -/
def exec_ld_e_c (p : IndexByte) (s : State) : Res := .next (ld8 .e .c (4 + extra p) s)

/-- `LD E,D` (R401). -/
def exec_ld_e_d (p : IndexByte) (s : State) : Res := .next (ld8 .e .d (4 + extra p) s)

/-- `LD E,E` (R401). -/
def exec_ld_e_e (p : IndexByte) (s : State) : Res := .next (ld8 .e .e (4 + extra p) s)

/-- `LD E,H` (R401). -/
def exec_ld_e_h (s : State) : Res := .next (ld8 .e .h 4 s)

/-- `LD E,L` (R401). -/
def exec_ld_e_l (s : State) : Res := .next (ld8 .e .l 4 s)

/-- `LD E,(HL)` (R403). -/
def exec_ld_e__hl (s : State) : Res := finish (loadByte .e s.hl 7 s)

/-- `LD E,A` (R401). -/
def exec_ld_e_a (p : IndexByte) (s : State) : Res := .next (ld8 .e .a (4 + extra p) s)

/-- `LD H,B` (R401). -/
def exec_ld_h_b (s : State) : Res := .next (ld8 .h .b 4 s)

/-- `LD H,C` (R401). -/
def exec_ld_h_c (s : State) : Res := .next (ld8 .h .c 4 s)

/-- `LD H,D` (R401). -/
def exec_ld_h_d (s : State) : Res := .next (ld8 .h .d 4 s)

/-- `LD H,E` (R401). -/
def exec_ld_h_e (s : State) : Res := .next (ld8 .h .e 4 s)

/-- `LD H,H` (R401). -/
def exec_ld_h_h (s : State) : Res := .next (ld8 .h .h 4 s)

/-- `LD H,L` (R401). -/
def exec_ld_h_l (s : State) : Res := .next (ld8 .h .l 4 s)

/-- `LD H,(HL)` (R403). -/
def exec_ld_h__hl (s : State) : Res := finish (loadByte .h s.hl 7 s)

/-- `LD H,A` (R401). -/
def exec_ld_h_a (s : State) : Res := .next (ld8 .h .a 4 s)

/-- `LD L,B` (R401). -/
def exec_ld_l_b (s : State) : Res := .next (ld8 .l .b 4 s)

/-- `LD L,C` (R401). -/
def exec_ld_l_c (s : State) : Res := .next (ld8 .l .c 4 s)

/-- `LD L,D` (R401). -/
def exec_ld_l_d (s : State) : Res := .next (ld8 .l .d 4 s)

/-- `LD L,E` (R401). -/
def exec_ld_l_e (s : State) : Res := .next (ld8 .l .e 4 s)

/-- `LD L,H` (R401). -/
def exec_ld_l_h (s : State) : Res := .next (ld8 .l .h 4 s)

/-- `LD L,L` (R401). -/
def exec_ld_l_l (s : State) : Res := .next (ld8 .l .l 4 s)

/-- `LD L,(HL)` (R403). -/
def exec_ld_l__hl (s : State) : Res := finish (loadByte .l s.hl 7 s)

/-- `LD L,A` (R401). -/
def exec_ld_l_a (s : State) : Res := .next (ld8 .l .a 4 s)

/-- `LD (HL),B` (R405). -/
def exec_ld__hl__b (s : State) : Res := finish (storeByte s.hl (s.getR8 .b) 7 s)

/-- `LD (HL),C` (R405). -/
def exec_ld__hl__c (s : State) : Res := finish (storeByte s.hl (s.getR8 .c) 7 s)

/-- `LD (HL),D` (R405). -/
def exec_ld__hl__d (s : State) : Res := finish (storeByte s.hl (s.getR8 .d) 7 s)

/-- `LD (HL),E` (R405). -/
def exec_ld__hl__e (s : State) : Res := finish (storeByte s.hl (s.getR8 .e) 7 s)

/-- `LD (HL),H` (R405). -/
def exec_ld__hl__h (s : State) : Res := finish (storeByte s.hl (s.getR8 .h) 7 s)

/-- `LD (HL),L` (R405). -/
def exec_ld__hl__l (s : State) : Res := finish (storeByte s.hl (s.getR8 .l) 7 s)

/-- `LD (HL),A` (R405). -/
def exec_ld__hl__a (s : State) : Res := finish (storeByte s.hl (s.getR8 .a) 7 s)

/-- `LD A,B` (R401). -/
def exec_ld_a_b (p : IndexByte) (s : State) : Res := .next (ld8 .a .b (4 + extra p) s)

/-- `LD A,C` (R401). -/
def exec_ld_a_c (p : IndexByte) (s : State) : Res := .next (ld8 .a .c (4 + extra p) s)

/-- `LD A,D` (R401). -/
def exec_ld_a_d (p : IndexByte) (s : State) : Res := .next (ld8 .a .d (4 + extra p) s)

/-- `LD A,E` (R401). -/
def exec_ld_a_e (p : IndexByte) (s : State) : Res := .next (ld8 .a .e (4 + extra p) s)

/-- `LD A,H` (R401). -/
def exec_ld_a_h (s : State) : Res := .next (ld8 .a .h 4 s)

/-- `LD A,L` (R401). -/
def exec_ld_a_l (s : State) : Res := .next (ld8 .a .l 4 s)

/-- `LD A,(HL)` (R403). -/
def exec_ld_a__hl (s : State) : Res := finish (loadByte .a s.hl 7 s)

/-- `LD A,A` (R401). -/
def exec_ld_a_a (p : IndexByte) (s : State) : Res := .next (ld8 .a .a (4 + extra p) s)

/-- `LD I,A` (R417). -/
def exec_ld_i_a (s : State) : Res := .next (ldIA s)

/-- `LD R,A` (R418). -/
def exec_ld_r_a (s : State) : Res := .next (ldRA s)

/-- `LD A,I` (R415). -/
def exec_ld_a_i (s : State) : Res := .next (ldSpecial s.i s)

/-- `LD A,R` (R416). -/
def exec_ld_a_r (s : State) : Res := .next (ldSpecial s.r s)

/-- `LD IXH,n` (R420). -/
def exec_ld_ixh_n (n : Byte) (s : State) : Res := .next (ldImm8 .ixh n 11 s)

/-- `LD IXL,n` (R420). -/
def exec_ld_ixl_n (n : Byte) (s : State) : Res := .next (ldImm8 .ixl n 11 s)

/-- `LD (IX+d),n` (R408). -/
def exec_ld__ixd__n (d : Byte) (n : Byte) (s : State) : Res :=
  finish (storeByte (s.idxAddr .ix d) n 19 s)

/-- `LD B,IXH` (R419). -/
def exec_ld_b_ixh (s : State) : Res := .next (ld8 .b .ixh 8 s)

/-- `LD B,IXL` (R419). -/
def exec_ld_b_ixl (s : State) : Res := .next (ld8 .b .ixl 8 s)

/-- `LD B,(IX+d)` (R404). -/
def exec_ld_b__ixd (d : Byte) (s : State) : Res := finish (loadByte .b (s.idxAddr .ix d) 19 s)

/-- `LD C,IXH` (R419). -/
def exec_ld_c_ixh (s : State) : Res := .next (ld8 .c .ixh 8 s)

/-- `LD C,IXL` (R419). -/
def exec_ld_c_ixl (s : State) : Res := .next (ld8 .c .ixl 8 s)

/-- `LD C,(IX+d)` (R404). -/
def exec_ld_c__ixd (d : Byte) (s : State) : Res := finish (loadByte .c (s.idxAddr .ix d) 19 s)

/-- `LD D,IXH` (R419). -/
def exec_ld_d_ixh (s : State) : Res := .next (ld8 .d .ixh 8 s)

/-- `LD D,IXL` (R419). -/
def exec_ld_d_ixl (s : State) : Res := .next (ld8 .d .ixl 8 s)

/-- `LD D,(IX+d)` (R404). -/
def exec_ld_d__ixd (d : Byte) (s : State) : Res := finish (loadByte .d (s.idxAddr .ix d) 19 s)

/-- `LD E,IXH` (R419). -/
def exec_ld_e_ixh (s : State) : Res := .next (ld8 .e .ixh 8 s)

/-- `LD E,IXL` (R419). -/
def exec_ld_e_ixl (s : State) : Res := .next (ld8 .e .ixl 8 s)

/-- `LD E,(IX+d)` (R404). -/
def exec_ld_e__ixd (d : Byte) (s : State) : Res := finish (loadByte .e (s.idxAddr .ix d) 19 s)

/-- `LD IXH,B` (R419). -/
def exec_ld_ixh_b (s : State) : Res := .next (ld8 .ixh .b 8 s)

/-- `LD IXH,C` (R419). -/
def exec_ld_ixh_c (s : State) : Res := .next (ld8 .ixh .c 8 s)

/-- `LD IXH,D` (R419). -/
def exec_ld_ixh_d (s : State) : Res := .next (ld8 .ixh .d 8 s)

/-- `LD IXH,E` (R419). -/
def exec_ld_ixh_e (s : State) : Res := .next (ld8 .ixh .e 8 s)

/-- `LD IXH,IXH` (R419). -/
def exec_ld_ixh_ixh (s : State) : Res := .next (ld8 .ixh .ixh 8 s)

/-- `LD IXH,IXL` (R419). -/
def exec_ld_ixh_ixl (s : State) : Res := .next (ld8 .ixh .ixl 8 s)

/-- `LD H,(IX+d)` (R404). -/
def exec_ld_h__ixd (d : Byte) (s : State) : Res := finish (loadByte .h (s.idxAddr .ix d) 19 s)

/-- `LD IXH,A` (R419). -/
def exec_ld_ixh_a (s : State) : Res := .next (ld8 .ixh .a 8 s)

/-- `LD IXL,B` (R419). -/
def exec_ld_ixl_b (s : State) : Res := .next (ld8 .ixl .b 8 s)

/-- `LD IXL,C` (R419). -/
def exec_ld_ixl_c (s : State) : Res := .next (ld8 .ixl .c 8 s)

/-- `LD IXL,D` (R419). -/
def exec_ld_ixl_d (s : State) : Res := .next (ld8 .ixl .d 8 s)

/-- `LD IXL,E` (R419). -/
def exec_ld_ixl_e (s : State) : Res := .next (ld8 .ixl .e 8 s)

/-- `LD IXL,IXH` (R419). -/
def exec_ld_ixl_ixh (s : State) : Res := .next (ld8 .ixl .ixh 8 s)

/-- `LD IXL,IXL` (R419). -/
def exec_ld_ixl_ixl (s : State) : Res := .next (ld8 .ixl .ixl 8 s)

/-- `LD L,(IX+d)` (R404). -/
def exec_ld_l__ixd (d : Byte) (s : State) : Res := finish (loadByte .l (s.idxAddr .ix d) 19 s)

/-- `LD IXL,A` (R419). -/
def exec_ld_ixl_a (s : State) : Res := .next (ld8 .ixl .a 8 s)

/-- `LD (IX+d),B` (R406). -/
def exec_ld__ixd__b (d : Byte) (s : State) : Res :=
  finish (storeByte (s.idxAddr .ix d) (s.getR8 .b) 19 s)

/-- `LD (IX+d),C` (R406). -/
def exec_ld__ixd__c (d : Byte) (s : State) : Res :=
  finish (storeByte (s.idxAddr .ix d) (s.getR8 .c) 19 s)

/-- `LD (IX+d),D` (R406). -/
def exec_ld__ixd__d (d : Byte) (s : State) : Res :=
  finish (storeByte (s.idxAddr .ix d) (s.getR8 .d) 19 s)

/-- `LD (IX+d),E` (R406). -/
def exec_ld__ixd__e (d : Byte) (s : State) : Res :=
  finish (storeByte (s.idxAddr .ix d) (s.getR8 .e) 19 s)

/-- `LD (IX+d),H` (R406). -/
def exec_ld__ixd__h (d : Byte) (s : State) : Res :=
  finish (storeByte (s.idxAddr .ix d) (s.getR8 .h) 19 s)

/-- `LD (IX+d),L` (R406). -/
def exec_ld__ixd__l (d : Byte) (s : State) : Res :=
  finish (storeByte (s.idxAddr .ix d) (s.getR8 .l) 19 s)

/-- `LD (IX+d),A` (R406). -/
def exec_ld__ixd__a (d : Byte) (s : State) : Res :=
  finish (storeByte (s.idxAddr .ix d) (s.getR8 .a) 19 s)

/-- `LD A,IXH` (R419). -/
def exec_ld_a_ixh (s : State) : Res := .next (ld8 .a .ixh 8 s)

/-- `LD A,IXL` (R419). -/
def exec_ld_a_ixl (s : State) : Res := .next (ld8 .a .ixl 8 s)

/-- `LD A,(IX+d)` (R404). -/
def exec_ld_a__ixd (d : Byte) (s : State) : Res := finish (loadByte .a (s.idxAddr .ix d) 19 s)

/-- `LD IYH,n` (R420). -/
def exec_ld_iyh_n (n : Byte) (s : State) : Res := .next (ldImm8 .iyh n 11 s)

/-- `LD IYL,n` (R420). -/
def exec_ld_iyl_n (n : Byte) (s : State) : Res := .next (ldImm8 .iyl n 11 s)

/-- `LD (IY+d),n` (R408). -/
def exec_ld__iyd__n (d : Byte) (n : Byte) (s : State) : Res :=
  finish (storeByte (s.idxAddr .iy d) n 19 s)

/-- `LD B,IYH` (R419). -/
def exec_ld_b_iyh (s : State) : Res := .next (ld8 .b .iyh 8 s)

/-- `LD B,IYL` (R419). -/
def exec_ld_b_iyl (s : State) : Res := .next (ld8 .b .iyl 8 s)

/-- `LD B,(IY+d)` (R404). -/
def exec_ld_b__iyd (d : Byte) (s : State) : Res := finish (loadByte .b (s.idxAddr .iy d) 19 s)

/-- `LD C,IYH` (R419). -/
def exec_ld_c_iyh (s : State) : Res := .next (ld8 .c .iyh 8 s)

/-- `LD C,IYL` (R419). -/
def exec_ld_c_iyl (s : State) : Res := .next (ld8 .c .iyl 8 s)

/-- `LD C,(IY+d)` (R404). -/
def exec_ld_c__iyd (d : Byte) (s : State) : Res := finish (loadByte .c (s.idxAddr .iy d) 19 s)

/-- `LD D,IYH` (R419). -/
def exec_ld_d_iyh (s : State) : Res := .next (ld8 .d .iyh 8 s)

/-- `LD D,IYL` (R419). -/
def exec_ld_d_iyl (s : State) : Res := .next (ld8 .d .iyl 8 s)

/-- `LD D,(IY+d)` (R404). -/
def exec_ld_d__iyd (d : Byte) (s : State) : Res := finish (loadByte .d (s.idxAddr .iy d) 19 s)

/-- `LD E,IYH` (R419). -/
def exec_ld_e_iyh (s : State) : Res := .next (ld8 .e .iyh 8 s)

/-- `LD E,IYL` (R419). -/
def exec_ld_e_iyl (s : State) : Res := .next (ld8 .e .iyl 8 s)

/-- `LD E,(IY+d)` (R404). -/
def exec_ld_e__iyd (d : Byte) (s : State) : Res := finish (loadByte .e (s.idxAddr .iy d) 19 s)

/-- `LD IYH,B` (R419). -/
def exec_ld_iyh_b (s : State) : Res := .next (ld8 .iyh .b 8 s)

/-- `LD IYH,C` (R419). -/
def exec_ld_iyh_c (s : State) : Res := .next (ld8 .iyh .c 8 s)

/-- `LD IYH,D` (R419). -/
def exec_ld_iyh_d (s : State) : Res := .next (ld8 .iyh .d 8 s)

/-- `LD IYH,E` (R419). -/
def exec_ld_iyh_e (s : State) : Res := .next (ld8 .iyh .e 8 s)

/-- `LD IYH,IYH` (R419). -/
def exec_ld_iyh_iyh (s : State) : Res := .next (ld8 .iyh .iyh 8 s)

/-- `LD IYH,IYL` (R419). -/
def exec_ld_iyh_iyl (s : State) : Res := .next (ld8 .iyh .iyl 8 s)

/-- `LD H,(IY+d)` (R404). -/
def exec_ld_h__iyd (d : Byte) (s : State) : Res := finish (loadByte .h (s.idxAddr .iy d) 19 s)

/-- `LD IYH,A` (R419). -/
def exec_ld_iyh_a (s : State) : Res := .next (ld8 .iyh .a 8 s)

/-- `LD IYL,B` (R419). -/
def exec_ld_iyl_b (s : State) : Res := .next (ld8 .iyl .b 8 s)

/-- `LD IYL,C` (R419). -/
def exec_ld_iyl_c (s : State) : Res := .next (ld8 .iyl .c 8 s)

/-- `LD IYL,D` (R419). -/
def exec_ld_iyl_d (s : State) : Res := .next (ld8 .iyl .d 8 s)

/-- `LD IYL,E` (R419). -/
def exec_ld_iyl_e (s : State) : Res := .next (ld8 .iyl .e 8 s)

/-- `LD IYL,IYH` (R419). -/
def exec_ld_iyl_iyh (s : State) : Res := .next (ld8 .iyl .iyh 8 s)

/-- `LD IYL,IYL` (R419). -/
def exec_ld_iyl_iyl (s : State) : Res := .next (ld8 .iyl .iyl 8 s)

/-- `LD L,(IY+d)` (R404). -/
def exec_ld_l__iyd (d : Byte) (s : State) : Res := finish (loadByte .l (s.idxAddr .iy d) 19 s)

/-- `LD IYL,A` (R419). -/
def exec_ld_iyl_a (s : State) : Res := .next (ld8 .iyl .a 8 s)

/-- `LD (IY+d),B` (R406). -/
def exec_ld__iyd__b (d : Byte) (s : State) : Res :=
  finish (storeByte (s.idxAddr .iy d) (s.getR8 .b) 19 s)

/-- `LD (IY+d),C` (R406). -/
def exec_ld__iyd__c (d : Byte) (s : State) : Res :=
  finish (storeByte (s.idxAddr .iy d) (s.getR8 .c) 19 s)

/-- `LD (IY+d),D` (R406). -/
def exec_ld__iyd__d (d : Byte) (s : State) : Res :=
  finish (storeByte (s.idxAddr .iy d) (s.getR8 .d) 19 s)

/-- `LD (IY+d),E` (R406). -/
def exec_ld__iyd__e (d : Byte) (s : State) : Res :=
  finish (storeByte (s.idxAddr .iy d) (s.getR8 .e) 19 s)

/-- `LD (IY+d),H` (R406). -/
def exec_ld__iyd__h (d : Byte) (s : State) : Res :=
  finish (storeByte (s.idxAddr .iy d) (s.getR8 .h) 19 s)

/-- `LD (IY+d),L` (R406). -/
def exec_ld__iyd__l (d : Byte) (s : State) : Res :=
  finish (storeByte (s.idxAddr .iy d) (s.getR8 .l) 19 s)

/-- `LD (IY+d),A` (R406). -/
def exec_ld__iyd__a (d : Byte) (s : State) : Res :=
  finish (storeByte (s.idxAddr .iy d) (s.getR8 .a) 19 s)

/-- `LD A,IYH` (R419). -/
def exec_ld_a_iyh (s : State) : Res := .next (ld8 .a .iyh 8 s)

/-- `LD A,IYL` (R419). -/
def exec_ld_a_iyl (s : State) : Res := .next (ld8 .a .iyl 8 s)

/-- `LD A,(IY+d)` (R404). -/
def exec_ld_a__iyd (d : Byte) (s : State) : Res := finish (loadByte .a (s.idxAddr .iy d) 19 s)

end Sys2Proof.Machine
end

