-- ==== Sys2Proof/Machine/Rotate.lean ====
section
/-! DEFINITION. Rotates, shifts, BIT, RES and SET (49_rotate_shift_bit.md). A memory operand is read
once and written once, in that order; the copy forms write a register too (R755). -/

set_option linter.style.nameCheck false

namespace Sys2Proof.Machine

/-- RLCA, RRCA, RLA, RRA: S, Z and P/V stay (R750). -/
def rotA (op : RotOp) (cyc : Nat) (s : State) : State :=
  let r := rot op s.main.a (s.main.f.getLsbD 0)
  ((s.setR8 .a r.1).setF (rotAFlags s.main.f r.1 r.2)).tick cyc

/-- A rotate or shift of a register (R755 to R763). -/
def rotReg (op : RotOp) (r : R8) (s : State) : State :=
  let v := rot op (s.getR8 r) (s.main.f.getLsbD 0)
  ((s.setR8 r v.1).setF (rotFlags v.1 v.2)).tick 8

/-- A byte of memory replaced by what a function makes of it: the `(HL)` and `(XR+d)` forms (R755).
-/
def modMem (f : Byte → Byte) (a : Word) (s : State) : State :=
  (s.noteRead a).write a (f (s.peek a))

/-- A rotate or shift of a byte of memory (R755 to R763). -/
def rotMem (op : RotOp) (a : Word) (cyc : Nat) (s : State) : State :=
  let v := rot op (s.peek a) (s.main.f.getLsbD 0)
  ((modMem (fun _ => v.1) a s).setF (rotFlags v.1 v.2)).tick cyc

/-- A rotate or shift of an indexed byte, with its copy to a register (R755). -/
def rotMemCopy (op : RotOp) (a : Word) (r : R8) (s : State) : State :=
  let v := rot op (s.peek a) (s.main.f.getLsbD 0)
  (((modMem (fun _ => v.1) a s).setR8 r v.1).setF (rotFlags v.1 v.2)).tick 23

/-- `RLD` (R764). -/
def rld (s : State) : State :=
  let t := s.peek s.hl
  let a := (s.main.a &&& 0xF0#8) ||| (t >>> 4)
  (((modMem (fun v => (v <<< 4) ||| (s.main.a &&& 0x0F#8)) s.hl s).setR8 .a a).setF
    (inFlags a s.main.f)).tick 18

/-- `RRD` (R765). -/
def rrd (s : State) : State :=
  let t := s.peek s.hl
  let a := (s.main.a &&& 0xF0#8) ||| (t &&& 0x0F#8)
  (((modMem (fun v => ((s.main.a &&& 0x0F#8) <<< 4) ||| (v >>> 4)) s.hl s).setR8 .a a).setF
    (inFlags a s.main.f)).tick 18

/-- `BIT b,r`: X5 and X3 from the register (R780). -/
def bitReg (b : Fin 8) (r : R8) (s : State) : State :=
  (s.setF (bitFlags b (s.getR8 r) (x53 (s.getR8 r)) s.main.f)).tick 8

/-- `BIT b,(HL)`: X5 and X3 are a free value (R781). Log entry 5. -/
def bitHl (b : Fin 8) (s : State) : State :=
  let t := s.noteRead s.hl
  (t.drawn.setF (bitFlags b (s.peek s.hl) (Config.draw t.draws &&& 0x28#8) s.main.f)).tick 12

/-- `BIT b,(XR+d)`: X5 and X3 from the high byte of the address (R782). -/
def bitMem (b : Fin 8) (a : Word) (s : State) : State :=
  ((s.noteRead a).setF (bitFlags b (s.peek a) (x53 (hi a)) s.main.f)).tick 20

/-- A byte with bit b cleared (R783). -/
def resBit (b : Fin 8) (v : Byte) : Byte := v &&& (0xFF#8 ^^^ bitMask b)

/-- A byte with bit b set (R784). -/
def setBit (b : Fin 8) (v : Byte) : Byte := v ||| bitMask b

/-- `RES b,r` (R783). -/
def resReg (b : Fin 8) (r : R8) (s : State) : State := (s.setR8 r (resBit b (s.getR8 r))).tick 8

/-- `SET b,r` (R784). -/
def setReg (b : Fin 8) (r : R8) (s : State) : State := (s.setR8 r (setBit b (s.getR8 r))).tick 8

/-- `RES b,(HL)` and `RES b,(XR+d)` (R783). -/
def resMem (b : Fin 8) (a : Word) (cyc : Nat) (s : State) : State :=
  (modMem (resBit b) a s).tick cyc

/-- `SET b,(HL)` and `SET b,(XR+d)` (R784). -/
def setMem (b : Fin 8) (a : Word) (cyc : Nat) (s : State) : State :=
  (modMem (setBit b) a s).tick cyc

/-- `RES b,(XR+d),r` (R783). -/
def resMemCopy (b : Fin 8) (a : Word) (r : R8) (s : State) : State :=
  ((modMem (resBit b) a s).setR8 r (resBit b (s.peek a))).tick 23

/-- `SET b,(XR+d),r` (R784). -/
def setMemCopy (b : Fin 8) (a : Word) (r : R8) (s : State) : State :=
  ((modMem (setBit b) a s).setR8 r (setBit b (s.peek a))).tick 23

/-! ## The meanings, one for each mnemonic -/

/-- `RLCA` (R751). -/
def exec_rlca (p : IndexByte) (s : State) : Res := .next (rotA .rlc (4 + extra p) s)

/-- `RRCA` (R752). -/
def exec_rrca (p : IndexByte) (s : State) : Res := .next (rotA .rrc (4 + extra p) s)

/-- `RLA` (R753). -/
def exec_rla (p : IndexByte) (s : State) : Res := .next (rotA .rl (4 + extra p) s)

/-- `RRA` (R754). -/
def exec_rra (p : IndexByte) (s : State) : Res := .next (rotA .rr (4 + extra p) s)

/-- `RLC B` (R756). -/
def exec_rlc_b (s : State) : Res := .next (rotReg .rlc .b s)

/-- `RLC C` (R756). -/
def exec_rlc_c (s : State) : Res := .next (rotReg .rlc .c s)

/-- `RLC D` (R756). -/
def exec_rlc_d (s : State) : Res := .next (rotReg .rlc .d s)

/-- `RLC E` (R756). -/
def exec_rlc_e (s : State) : Res := .next (rotReg .rlc .e s)

/-- `RLC H` (R756). -/
def exec_rlc_h (s : State) : Res := .next (rotReg .rlc .h s)

/-- `RLC L` (R756). -/
def exec_rlc_l (s : State) : Res := .next (rotReg .rlc .l s)

/-- `RLC (HL)` (R756). -/
def exec_rlc__hl (s : State) : Res := finish (rotMem .rlc s.hl 15 s)

/-- `RLC A` (R756). -/
def exec_rlc_a (s : State) : Res := .next (rotReg .rlc .a s)

/-- `RRC B` (R757). -/
def exec_rrc_b (s : State) : Res := .next (rotReg .rrc .b s)

/-- `RRC C` (R757). -/
def exec_rrc_c (s : State) : Res := .next (rotReg .rrc .c s)

/-- `RRC D` (R757). -/
def exec_rrc_d (s : State) : Res := .next (rotReg .rrc .d s)

/-- `RRC E` (R757). -/
def exec_rrc_e (s : State) : Res := .next (rotReg .rrc .e s)

/-- `RRC H` (R757). -/
def exec_rrc_h (s : State) : Res := .next (rotReg .rrc .h s)

/-- `RRC L` (R757). -/
def exec_rrc_l (s : State) : Res := .next (rotReg .rrc .l s)

/-- `RRC (HL)` (R757). -/
def exec_rrc__hl (s : State) : Res := finish (rotMem .rrc s.hl 15 s)

/-- `RRC A` (R757). -/
def exec_rrc_a (s : State) : Res := .next (rotReg .rrc .a s)

/-- `RL B` (R758). -/
def exec_rl_b (s : State) : Res := .next (rotReg .rl .b s)

/-- `RL C` (R758). -/
def exec_rl_c (s : State) : Res := .next (rotReg .rl .c s)

/-- `RL D` (R758). -/
def exec_rl_d (s : State) : Res := .next (rotReg .rl .d s)

/-- `RL E` (R758). -/
def exec_rl_e (s : State) : Res := .next (rotReg .rl .e s)

/-- `RL H` (R758). -/
def exec_rl_h (s : State) : Res := .next (rotReg .rl .h s)

/-- `RL L` (R758). -/
def exec_rl_l (s : State) : Res := .next (rotReg .rl .l s)

/-- `RL (HL)` (R758). -/
def exec_rl__hl (s : State) : Res := finish (rotMem .rl s.hl 15 s)

/-- `RL A` (R758). -/
def exec_rl_a (s : State) : Res := .next (rotReg .rl .a s)

/-- `RR B` (R759). -/
def exec_rr_b (s : State) : Res := .next (rotReg .rr .b s)

/-- `RR C` (R759). -/
def exec_rr_c (s : State) : Res := .next (rotReg .rr .c s)

/-- `RR D` (R759). -/
def exec_rr_d (s : State) : Res := .next (rotReg .rr .d s)

/-- `RR E` (R759). -/
def exec_rr_e (s : State) : Res := .next (rotReg .rr .e s)

/-- `RR H` (R759). -/
def exec_rr_h (s : State) : Res := .next (rotReg .rr .h s)

/-- `RR L` (R759). -/
def exec_rr_l (s : State) : Res := .next (rotReg .rr .l s)

/-- `RR (HL)` (R759). -/
def exec_rr__hl (s : State) : Res := finish (rotMem .rr s.hl 15 s)

/-- `RR A` (R759). -/
def exec_rr_a (s : State) : Res := .next (rotReg .rr .a s)

/-- `SLA B` (R760). -/
def exec_sla_b (s : State) : Res := .next (rotReg .sla .b s)

/-- `SLA C` (R760). -/
def exec_sla_c (s : State) : Res := .next (rotReg .sla .c s)

/-- `SLA D` (R760). -/
def exec_sla_d (s : State) : Res := .next (rotReg .sla .d s)

/-- `SLA E` (R760). -/
def exec_sla_e (s : State) : Res := .next (rotReg .sla .e s)

/-- `SLA H` (R760). -/
def exec_sla_h (s : State) : Res := .next (rotReg .sla .h s)

/-- `SLA L` (R760). -/
def exec_sla_l (s : State) : Res := .next (rotReg .sla .l s)

/-- `SLA (HL)` (R760). -/
def exec_sla__hl (s : State) : Res := finish (rotMem .sla s.hl 15 s)

/-- `SLA A` (R760). -/
def exec_sla_a (s : State) : Res := .next (rotReg .sla .a s)

/-- `SRA B` (R761). -/
def exec_sra_b (s : State) : Res := .next (rotReg .sra .b s)

/-- `SRA C` (R761). -/
def exec_sra_c (s : State) : Res := .next (rotReg .sra .c s)

/-- `SRA D` (R761). -/
def exec_sra_d (s : State) : Res := .next (rotReg .sra .d s)

/-- `SRA E` (R761). -/
def exec_sra_e (s : State) : Res := .next (rotReg .sra .e s)

/-- `SRA H` (R761). -/
def exec_sra_h (s : State) : Res := .next (rotReg .sra .h s)

/-- `SRA L` (R761). -/
def exec_sra_l (s : State) : Res := .next (rotReg .sra .l s)

/-- `SRA (HL)` (R761). -/
def exec_sra__hl (s : State) : Res := finish (rotMem .sra s.hl 15 s)

/-- `SRA A` (R761). -/
def exec_sra_a (s : State) : Res := .next (rotReg .sra .a s)

/-- `SLL B` (R762). -/
def exec_sll_b (s : State) : Res := .next (rotReg .sll .b s)

/-- `SLL C` (R762). -/
def exec_sll_c (s : State) : Res := .next (rotReg .sll .c s)

/-- `SLL D` (R762). -/
def exec_sll_d (s : State) : Res := .next (rotReg .sll .d s)

/-- `SLL E` (R762). -/
def exec_sll_e (s : State) : Res := .next (rotReg .sll .e s)

/-- `SLL H` (R762). -/
def exec_sll_h (s : State) : Res := .next (rotReg .sll .h s)

/-- `SLL L` (R762). -/
def exec_sll_l (s : State) : Res := .next (rotReg .sll .l s)

/-- `SLL (HL)` (R762). -/
def exec_sll__hl (s : State) : Res := finish (rotMem .sll s.hl 15 s)

/-- `SLL A` (R762). -/
def exec_sll_a (s : State) : Res := .next (rotReg .sll .a s)

/-- `SRL B` (R763). -/
def exec_srl_b (s : State) : Res := .next (rotReg .srl .b s)

/-- `SRL C` (R763). -/
def exec_srl_c (s : State) : Res := .next (rotReg .srl .c s)

/-- `SRL D` (R763). -/
def exec_srl_d (s : State) : Res := .next (rotReg .srl .d s)

/-- `SRL E` (R763). -/
def exec_srl_e (s : State) : Res := .next (rotReg .srl .e s)

/-- `SRL H` (R763). -/
def exec_srl_h (s : State) : Res := .next (rotReg .srl .h s)

/-- `SRL L` (R763). -/
def exec_srl_l (s : State) : Res := .next (rotReg .srl .l s)

/-- `SRL (HL)` (R763). -/
def exec_srl__hl (s : State) : Res := finish (rotMem .srl s.hl 15 s)

/-- `SRL A` (R763). -/
def exec_srl_a (s : State) : Res := .next (rotReg .srl .a s)

/-- `BIT 0,B` (R780). -/
def exec_bit_0_b (s : State) : Res := .next (bitReg 0 .b s)

/-- `BIT 0,C` (R780). -/
def exec_bit_0_c (s : State) : Res := .next (bitReg 0 .c s)

/-- `BIT 0,D` (R780). -/
def exec_bit_0_d (s : State) : Res := .next (bitReg 0 .d s)

/-- `BIT 0,E` (R780). -/
def exec_bit_0_e (s : State) : Res := .next (bitReg 0 .e s)

/-- `BIT 0,H` (R780). -/
def exec_bit_0_h (s : State) : Res := .next (bitReg 0 .h s)

/-- `BIT 0,L` (R780). -/
def exec_bit_0_l (s : State) : Res := .next (bitReg 0 .l s)

/-- `BIT 0,(HL)` (R781). -/
def exec_bit_0__hl (s : State) : Res := finish (bitHl 0 s)

/-- `BIT 0,A` (R780). -/
def exec_bit_0_a (s : State) : Res := .next (bitReg 0 .a s)

/-- `BIT 1,B` (R780). -/
def exec_bit_1_b (s : State) : Res := .next (bitReg 1 .b s)

/-- `BIT 1,C` (R780). -/
def exec_bit_1_c (s : State) : Res := .next (bitReg 1 .c s)

/-- `BIT 1,D` (R780). -/
def exec_bit_1_d (s : State) : Res := .next (bitReg 1 .d s)

/-- `BIT 1,E` (R780). -/
def exec_bit_1_e (s : State) : Res := .next (bitReg 1 .e s)

/-- `BIT 1,H` (R780). -/
def exec_bit_1_h (s : State) : Res := .next (bitReg 1 .h s)

/-- `BIT 1,L` (R780). -/
def exec_bit_1_l (s : State) : Res := .next (bitReg 1 .l s)

/-- `BIT 1,(HL)` (R781). -/
def exec_bit_1__hl (s : State) : Res := finish (bitHl 1 s)

/-- `BIT 1,A` (R780). -/
def exec_bit_1_a (s : State) : Res := .next (bitReg 1 .a s)

/-- `BIT 2,B` (R780). -/
def exec_bit_2_b (s : State) : Res := .next (bitReg 2 .b s)

/-- `BIT 2,C` (R780). -/
def exec_bit_2_c (s : State) : Res := .next (bitReg 2 .c s)

/-- `BIT 2,D` (R780). -/
def exec_bit_2_d (s : State) : Res := .next (bitReg 2 .d s)

/-- `BIT 2,E` (R780). -/
def exec_bit_2_e (s : State) : Res := .next (bitReg 2 .e s)

/-- `BIT 2,H` (R780). -/
def exec_bit_2_h (s : State) : Res := .next (bitReg 2 .h s)

/-- `BIT 2,L` (R780). -/
def exec_bit_2_l (s : State) : Res := .next (bitReg 2 .l s)

/-- `BIT 2,(HL)` (R781). -/
def exec_bit_2__hl (s : State) : Res := finish (bitHl 2 s)

/-- `BIT 2,A` (R780). -/
def exec_bit_2_a (s : State) : Res := .next (bitReg 2 .a s)

/-- `BIT 3,B` (R780). -/
def exec_bit_3_b (s : State) : Res := .next (bitReg 3 .b s)

/-- `BIT 3,C` (R780). -/
def exec_bit_3_c (s : State) : Res := .next (bitReg 3 .c s)

/-- `BIT 3,D` (R780). -/
def exec_bit_3_d (s : State) : Res := .next (bitReg 3 .d s)

/-- `BIT 3,E` (R780). -/
def exec_bit_3_e (s : State) : Res := .next (bitReg 3 .e s)

/-- `BIT 3,H` (R780). -/
def exec_bit_3_h (s : State) : Res := .next (bitReg 3 .h s)

/-- `BIT 3,L` (R780). -/
def exec_bit_3_l (s : State) : Res := .next (bitReg 3 .l s)

/-- `BIT 3,(HL)` (R781). -/
def exec_bit_3__hl (s : State) : Res := finish (bitHl 3 s)

/-- `BIT 3,A` (R780). -/
def exec_bit_3_a (s : State) : Res := .next (bitReg 3 .a s)

/-- `BIT 4,B` (R780). -/
def exec_bit_4_b (s : State) : Res := .next (bitReg 4 .b s)

/-- `BIT 4,C` (R780). -/
def exec_bit_4_c (s : State) : Res := .next (bitReg 4 .c s)

/-- `BIT 4,D` (R780). -/
def exec_bit_4_d (s : State) : Res := .next (bitReg 4 .d s)

/-- `BIT 4,E` (R780). -/
def exec_bit_4_e (s : State) : Res := .next (bitReg 4 .e s)

/-- `BIT 4,H` (R780). -/
def exec_bit_4_h (s : State) : Res := .next (bitReg 4 .h s)

/-- `BIT 4,L` (R780). -/
def exec_bit_4_l (s : State) : Res := .next (bitReg 4 .l s)

/-- `BIT 4,(HL)` (R781). -/
def exec_bit_4__hl (s : State) : Res := finish (bitHl 4 s)

/-- `BIT 4,A` (R780). -/
def exec_bit_4_a (s : State) : Res := .next (bitReg 4 .a s)

/-- `BIT 5,B` (R780). -/
def exec_bit_5_b (s : State) : Res := .next (bitReg 5 .b s)

/-- `BIT 5,C` (R780). -/
def exec_bit_5_c (s : State) : Res := .next (bitReg 5 .c s)

/-- `BIT 5,D` (R780). -/
def exec_bit_5_d (s : State) : Res := .next (bitReg 5 .d s)

/-- `BIT 5,E` (R780). -/
def exec_bit_5_e (s : State) : Res := .next (bitReg 5 .e s)

/-- `BIT 5,H` (R780). -/
def exec_bit_5_h (s : State) : Res := .next (bitReg 5 .h s)

/-- `BIT 5,L` (R780). -/
def exec_bit_5_l (s : State) : Res := .next (bitReg 5 .l s)

/-- `BIT 5,(HL)` (R781). -/
def exec_bit_5__hl (s : State) : Res := finish (bitHl 5 s)

/-- `BIT 5,A` (R780). -/
def exec_bit_5_a (s : State) : Res := .next (bitReg 5 .a s)

/-- `BIT 6,B` (R780). -/
def exec_bit_6_b (s : State) : Res := .next (bitReg 6 .b s)

/-- `BIT 6,C` (R780). -/
def exec_bit_6_c (s : State) : Res := .next (bitReg 6 .c s)

/-- `BIT 6,D` (R780). -/
def exec_bit_6_d (s : State) : Res := .next (bitReg 6 .d s)

/-- `BIT 6,E` (R780). -/
def exec_bit_6_e (s : State) : Res := .next (bitReg 6 .e s)

/-- `BIT 6,H` (R780). -/
def exec_bit_6_h (s : State) : Res := .next (bitReg 6 .h s)

/-- `BIT 6,L` (R780). -/
def exec_bit_6_l (s : State) : Res := .next (bitReg 6 .l s)

/-- `BIT 6,(HL)` (R781). -/
def exec_bit_6__hl (s : State) : Res := finish (bitHl 6 s)

/-- `BIT 6,A` (R780). -/
def exec_bit_6_a (s : State) : Res := .next (bitReg 6 .a s)

/-- `BIT 7,B` (R780). -/
def exec_bit_7_b (s : State) : Res := .next (bitReg 7 .b s)

/-- `BIT 7,C` (R780). -/
def exec_bit_7_c (s : State) : Res := .next (bitReg 7 .c s)

/-- `BIT 7,D` (R780). -/
def exec_bit_7_d (s : State) : Res := .next (bitReg 7 .d s)

/-- `BIT 7,E` (R780). -/
def exec_bit_7_e (s : State) : Res := .next (bitReg 7 .e s)

/-- `BIT 7,H` (R780). -/
def exec_bit_7_h (s : State) : Res := .next (bitReg 7 .h s)

/-- `BIT 7,L` (R780). -/
def exec_bit_7_l (s : State) : Res := .next (bitReg 7 .l s)

/-- `BIT 7,(HL)` (R781). -/
def exec_bit_7__hl (s : State) : Res := finish (bitHl 7 s)

/-- `BIT 7,A` (R780). -/
def exec_bit_7_a (s : State) : Res := .next (bitReg 7 .a s)

/-- `RES 0,B` (R783). -/
def exec_res_0_b (s : State) : Res := .next (resReg 0 .b s)

/-- `RES 0,C` (R783). -/
def exec_res_0_c (s : State) : Res := .next (resReg 0 .c s)

/-- `RES 0,D` (R783). -/
def exec_res_0_d (s : State) : Res := .next (resReg 0 .d s)

/-- `RES 0,E` (R783). -/
def exec_res_0_e (s : State) : Res := .next (resReg 0 .e s)

/-- `RES 0,H` (R783). -/
def exec_res_0_h (s : State) : Res := .next (resReg 0 .h s)

/-- `RES 0,L` (R783). -/
def exec_res_0_l (s : State) : Res := .next (resReg 0 .l s)

/-- `RES 0,(HL)` (R783). -/
def exec_res_0__hl (s : State) : Res := finish (resMem 0 s.hl 15 s)

/-- `RES 0,A` (R783). -/
def exec_res_0_a (s : State) : Res := .next (resReg 0 .a s)

/-- `RES 1,B` (R783). -/
def exec_res_1_b (s : State) : Res := .next (resReg 1 .b s)

/-- `RES 1,C` (R783). -/
def exec_res_1_c (s : State) : Res := .next (resReg 1 .c s)

/-- `RES 1,D` (R783). -/
def exec_res_1_d (s : State) : Res := .next (resReg 1 .d s)

/-- `RES 1,E` (R783). -/
def exec_res_1_e (s : State) : Res := .next (resReg 1 .e s)

/-- `RES 1,H` (R783). -/
def exec_res_1_h (s : State) : Res := .next (resReg 1 .h s)

/-- `RES 1,L` (R783). -/
def exec_res_1_l (s : State) : Res := .next (resReg 1 .l s)

/-- `RES 1,(HL)` (R783). -/
def exec_res_1__hl (s : State) : Res := finish (resMem 1 s.hl 15 s)

/-- `RES 1,A` (R783). -/
def exec_res_1_a (s : State) : Res := .next (resReg 1 .a s)

/-- `RES 2,B` (R783). -/
def exec_res_2_b (s : State) : Res := .next (resReg 2 .b s)

/-- `RES 2,C` (R783). -/
def exec_res_2_c (s : State) : Res := .next (resReg 2 .c s)

/-- `RES 2,D` (R783). -/
def exec_res_2_d (s : State) : Res := .next (resReg 2 .d s)

/-- `RES 2,E` (R783). -/
def exec_res_2_e (s : State) : Res := .next (resReg 2 .e s)

/-- `RES 2,H` (R783). -/
def exec_res_2_h (s : State) : Res := .next (resReg 2 .h s)

/-- `RES 2,L` (R783). -/
def exec_res_2_l (s : State) : Res := .next (resReg 2 .l s)

/-- `RES 2,(HL)` (R783). -/
def exec_res_2__hl (s : State) : Res := finish (resMem 2 s.hl 15 s)

/-- `RES 2,A` (R783). -/
def exec_res_2_a (s : State) : Res := .next (resReg 2 .a s)

/-- `RES 3,B` (R783). -/
def exec_res_3_b (s : State) : Res := .next (resReg 3 .b s)

/-- `RES 3,C` (R783). -/
def exec_res_3_c (s : State) : Res := .next (resReg 3 .c s)

/-- `RES 3,D` (R783). -/
def exec_res_3_d (s : State) : Res := .next (resReg 3 .d s)

/-- `RES 3,E` (R783). -/
def exec_res_3_e (s : State) : Res := .next (resReg 3 .e s)

/-- `RES 3,H` (R783). -/
def exec_res_3_h (s : State) : Res := .next (resReg 3 .h s)

/-- `RES 3,L` (R783). -/
def exec_res_3_l (s : State) : Res := .next (resReg 3 .l s)

/-- `RES 3,(HL)` (R783). -/
def exec_res_3__hl (s : State) : Res := finish (resMem 3 s.hl 15 s)

/-- `RES 3,A` (R783). -/
def exec_res_3_a (s : State) : Res := .next (resReg 3 .a s)

/-- `RES 4,B` (R783). -/
def exec_res_4_b (s : State) : Res := .next (resReg 4 .b s)

/-- `RES 4,C` (R783). -/
def exec_res_4_c (s : State) : Res := .next (resReg 4 .c s)

/-- `RES 4,D` (R783). -/
def exec_res_4_d (s : State) : Res := .next (resReg 4 .d s)

/-- `RES 4,E` (R783). -/
def exec_res_4_e (s : State) : Res := .next (resReg 4 .e s)

/-- `RES 4,H` (R783). -/
def exec_res_4_h (s : State) : Res := .next (resReg 4 .h s)

/-- `RES 4,L` (R783). -/
def exec_res_4_l (s : State) : Res := .next (resReg 4 .l s)

/-- `RES 4,(HL)` (R783). -/
def exec_res_4__hl (s : State) : Res := finish (resMem 4 s.hl 15 s)

/-- `RES 4,A` (R783). -/
def exec_res_4_a (s : State) : Res := .next (resReg 4 .a s)

/-- `RES 5,B` (R783). -/
def exec_res_5_b (s : State) : Res := .next (resReg 5 .b s)

/-- `RES 5,C` (R783). -/
def exec_res_5_c (s : State) : Res := .next (resReg 5 .c s)

/-- `RES 5,D` (R783). -/
def exec_res_5_d (s : State) : Res := .next (resReg 5 .d s)

/-- `RES 5,E` (R783). -/
def exec_res_5_e (s : State) : Res := .next (resReg 5 .e s)

/-- `RES 5,H` (R783). -/
def exec_res_5_h (s : State) : Res := .next (resReg 5 .h s)

/-- `RES 5,L` (R783). -/
def exec_res_5_l (s : State) : Res := .next (resReg 5 .l s)

/-- `RES 5,(HL)` (R783). -/
def exec_res_5__hl (s : State) : Res := finish (resMem 5 s.hl 15 s)

/-- `RES 5,A` (R783). -/
def exec_res_5_a (s : State) : Res := .next (resReg 5 .a s)

/-- `RES 6,B` (R783). -/
def exec_res_6_b (s : State) : Res := .next (resReg 6 .b s)

/-- `RES 6,C` (R783). -/
def exec_res_6_c (s : State) : Res := .next (resReg 6 .c s)

/-- `RES 6,D` (R783). -/
def exec_res_6_d (s : State) : Res := .next (resReg 6 .d s)

/-- `RES 6,E` (R783). -/
def exec_res_6_e (s : State) : Res := .next (resReg 6 .e s)

/-- `RES 6,H` (R783). -/
def exec_res_6_h (s : State) : Res := .next (resReg 6 .h s)

/-- `RES 6,L` (R783). -/
def exec_res_6_l (s : State) : Res := .next (resReg 6 .l s)

/-- `RES 6,(HL)` (R783). -/
def exec_res_6__hl (s : State) : Res := finish (resMem 6 s.hl 15 s)

/-- `RES 6,A` (R783). -/
def exec_res_6_a (s : State) : Res := .next (resReg 6 .a s)

/-- `RES 7,B` (R783). -/
def exec_res_7_b (s : State) : Res := .next (resReg 7 .b s)

/-- `RES 7,C` (R783). -/
def exec_res_7_c (s : State) : Res := .next (resReg 7 .c s)

/-- `RES 7,D` (R783). -/
def exec_res_7_d (s : State) : Res := .next (resReg 7 .d s)

/-- `RES 7,E` (R783). -/
def exec_res_7_e (s : State) : Res := .next (resReg 7 .e s)

/-- `RES 7,H` (R783). -/
def exec_res_7_h (s : State) : Res := .next (resReg 7 .h s)

/-- `RES 7,L` (R783). -/
def exec_res_7_l (s : State) : Res := .next (resReg 7 .l s)

/-- `RES 7,(HL)` (R783). -/
def exec_res_7__hl (s : State) : Res := finish (resMem 7 s.hl 15 s)

/-- `RES 7,A` (R783). -/
def exec_res_7_a (s : State) : Res := .next (resReg 7 .a s)

/-- `SET 0,B` (R784). -/
def exec_set_0_b (s : State) : Res := .next (setReg 0 .b s)

/-- `SET 0,C` (R784). -/
def exec_set_0_c (s : State) : Res := .next (setReg 0 .c s)

/-- `SET 0,D` (R784). -/
def exec_set_0_d (s : State) : Res := .next (setReg 0 .d s)

/-- `SET 0,E` (R784). -/
def exec_set_0_e (s : State) : Res := .next (setReg 0 .e s)

/-- `SET 0,H` (R784). -/
def exec_set_0_h (s : State) : Res := .next (setReg 0 .h s)

/-- `SET 0,L` (R784). -/
def exec_set_0_l (s : State) : Res := .next (setReg 0 .l s)

/-- `SET 0,(HL)` (R784). -/
def exec_set_0__hl (s : State) : Res := finish (setMem 0 s.hl 15 s)

/-- `SET 0,A` (R784). -/
def exec_set_0_a (s : State) : Res := .next (setReg 0 .a s)

/-- `SET 1,B` (R784). -/
def exec_set_1_b (s : State) : Res := .next (setReg 1 .b s)

/-- `SET 1,C` (R784). -/
def exec_set_1_c (s : State) : Res := .next (setReg 1 .c s)

/-- `SET 1,D` (R784). -/
def exec_set_1_d (s : State) : Res := .next (setReg 1 .d s)

/-- `SET 1,E` (R784). -/
def exec_set_1_e (s : State) : Res := .next (setReg 1 .e s)

/-- `SET 1,H` (R784). -/
def exec_set_1_h (s : State) : Res := .next (setReg 1 .h s)

/-- `SET 1,L` (R784). -/
def exec_set_1_l (s : State) : Res := .next (setReg 1 .l s)

/-- `SET 1,(HL)` (R784). -/
def exec_set_1__hl (s : State) : Res := finish (setMem 1 s.hl 15 s)

/-- `SET 1,A` (R784). -/
def exec_set_1_a (s : State) : Res := .next (setReg 1 .a s)

/-- `SET 2,B` (R784). -/
def exec_set_2_b (s : State) : Res := .next (setReg 2 .b s)

/-- `SET 2,C` (R784). -/
def exec_set_2_c (s : State) : Res := .next (setReg 2 .c s)

/-- `SET 2,D` (R784). -/
def exec_set_2_d (s : State) : Res := .next (setReg 2 .d s)

/-- `SET 2,E` (R784). -/
def exec_set_2_e (s : State) : Res := .next (setReg 2 .e s)

/-- `SET 2,H` (R784). -/
def exec_set_2_h (s : State) : Res := .next (setReg 2 .h s)

/-- `SET 2,L` (R784). -/
def exec_set_2_l (s : State) : Res := .next (setReg 2 .l s)

/-- `SET 2,(HL)` (R784). -/
def exec_set_2__hl (s : State) : Res := finish (setMem 2 s.hl 15 s)

/-- `SET 2,A` (R784). -/
def exec_set_2_a (s : State) : Res := .next (setReg 2 .a s)

/-- `SET 3,B` (R784). -/
def exec_set_3_b (s : State) : Res := .next (setReg 3 .b s)

/-- `SET 3,C` (R784). -/
def exec_set_3_c (s : State) : Res := .next (setReg 3 .c s)

/-- `SET 3,D` (R784). -/
def exec_set_3_d (s : State) : Res := .next (setReg 3 .d s)

/-- `SET 3,E` (R784). -/
def exec_set_3_e (s : State) : Res := .next (setReg 3 .e s)

/-- `SET 3,H` (R784). -/
def exec_set_3_h (s : State) : Res := .next (setReg 3 .h s)

/-- `SET 3,L` (R784). -/
def exec_set_3_l (s : State) : Res := .next (setReg 3 .l s)

/-- `SET 3,(HL)` (R784). -/
def exec_set_3__hl (s : State) : Res := finish (setMem 3 s.hl 15 s)

/-- `SET 3,A` (R784). -/
def exec_set_3_a (s : State) : Res := .next (setReg 3 .a s)

/-- `SET 4,B` (R784). -/
def exec_set_4_b (s : State) : Res := .next (setReg 4 .b s)

/-- `SET 4,C` (R784). -/
def exec_set_4_c (s : State) : Res := .next (setReg 4 .c s)

/-- `SET 4,D` (R784). -/
def exec_set_4_d (s : State) : Res := .next (setReg 4 .d s)

/-- `SET 4,E` (R784). -/
def exec_set_4_e (s : State) : Res := .next (setReg 4 .e s)

/-- `SET 4,H` (R784). -/
def exec_set_4_h (s : State) : Res := .next (setReg 4 .h s)

/-- `SET 4,L` (R784). -/
def exec_set_4_l (s : State) : Res := .next (setReg 4 .l s)

/-- `SET 4,(HL)` (R784). -/
def exec_set_4__hl (s : State) : Res := finish (setMem 4 s.hl 15 s)

/-- `SET 4,A` (R784). -/
def exec_set_4_a (s : State) : Res := .next (setReg 4 .a s)

/-- `SET 5,B` (R784). -/
def exec_set_5_b (s : State) : Res := .next (setReg 5 .b s)

/-- `SET 5,C` (R784). -/
def exec_set_5_c (s : State) : Res := .next (setReg 5 .c s)

/-- `SET 5,D` (R784). -/
def exec_set_5_d (s : State) : Res := .next (setReg 5 .d s)

/-- `SET 5,E` (R784). -/
def exec_set_5_e (s : State) : Res := .next (setReg 5 .e s)

/-- `SET 5,H` (R784). -/
def exec_set_5_h (s : State) : Res := .next (setReg 5 .h s)

/-- `SET 5,L` (R784). -/
def exec_set_5_l (s : State) : Res := .next (setReg 5 .l s)

/-- `SET 5,(HL)` (R784). -/
def exec_set_5__hl (s : State) : Res := finish (setMem 5 s.hl 15 s)

/-- `SET 5,A` (R784). -/
def exec_set_5_a (s : State) : Res := .next (setReg 5 .a s)

/-- `SET 6,B` (R784). -/
def exec_set_6_b (s : State) : Res := .next (setReg 6 .b s)

/-- `SET 6,C` (R784). -/
def exec_set_6_c (s : State) : Res := .next (setReg 6 .c s)

/-- `SET 6,D` (R784). -/
def exec_set_6_d (s : State) : Res := .next (setReg 6 .d s)

/-- `SET 6,E` (R784). -/
def exec_set_6_e (s : State) : Res := .next (setReg 6 .e s)

/-- `SET 6,H` (R784). -/
def exec_set_6_h (s : State) : Res := .next (setReg 6 .h s)

/-- `SET 6,L` (R784). -/
def exec_set_6_l (s : State) : Res := .next (setReg 6 .l s)

/-- `SET 6,(HL)` (R784). -/
def exec_set_6__hl (s : State) : Res := finish (setMem 6 s.hl 15 s)

/-- `SET 6,A` (R784). -/
def exec_set_6_a (s : State) : Res := .next (setReg 6 .a s)

/-- `SET 7,B` (R784). -/
def exec_set_7_b (s : State) : Res := .next (setReg 7 .b s)

/-- `SET 7,C` (R784). -/
def exec_set_7_c (s : State) : Res := .next (setReg 7 .c s)

/-- `SET 7,D` (R784). -/
def exec_set_7_d (s : State) : Res := .next (setReg 7 .d s)

/-- `SET 7,E` (R784). -/
def exec_set_7_e (s : State) : Res := .next (setReg 7 .e s)

/-- `SET 7,H` (R784). -/
def exec_set_7_h (s : State) : Res := .next (setReg 7 .h s)

/-- `SET 7,L` (R784). -/
def exec_set_7_l (s : State) : Res := .next (setReg 7 .l s)

/-- `SET 7,(HL)` (R784). -/
def exec_set_7__hl (s : State) : Res := finish (setMem 7 s.hl 15 s)

/-- `SET 7,A` (R784). -/
def exec_set_7_a (s : State) : Res := .next (setReg 7 .a s)

/-- `RRD` (R765). -/
def exec_rrd (s : State) : Res := finish (rrd s)

/-- `RLD` (R764). -/
def exec_rld (s : State) : Res := finish (rld s)

/-- `RLC (IX+d),B` (R756). -/
def exec_rlc__ixd__b (d : Byte) (s : State) : Res := finish (rotMemCopy .rlc (s.idxAddr .ix d) .b s)

/-- `RLC (IX+d),C` (R756). -/
def exec_rlc__ixd__c (d : Byte) (s : State) : Res := finish (rotMemCopy .rlc (s.idxAddr .ix d) .c s)

/-- `RLC (IX+d),D` (R756). -/
def exec_rlc__ixd__d (d : Byte) (s : State) : Res := finish (rotMemCopy .rlc (s.idxAddr .ix d) .d s)

/-- `RLC (IX+d),E` (R756). -/
def exec_rlc__ixd__e (d : Byte) (s : State) : Res := finish (rotMemCopy .rlc (s.idxAddr .ix d) .e s)

/-- `RLC (IX+d),H` (R756). -/
def exec_rlc__ixd__h (d : Byte) (s : State) : Res := finish (rotMemCopy .rlc (s.idxAddr .ix d) .h s)

/-- `RLC (IX+d),L` (R756). -/
def exec_rlc__ixd__l (d : Byte) (s : State) : Res := finish (rotMemCopy .rlc (s.idxAddr .ix d) .l s)

/-- `RLC (IX+d)` (R756). -/
def exec_rlc__ixd (d : Byte) (s : State) : Res := finish (rotMem .rlc (s.idxAddr .ix d) 23 s)

/-- `RLC (IX+d),A` (R756). -/
def exec_rlc__ixd__a (d : Byte) (s : State) : Res := finish (rotMemCopy .rlc (s.idxAddr .ix d) .a s)

/-- `RRC (IX+d),B` (R757). -/
def exec_rrc__ixd__b (d : Byte) (s : State) : Res := finish (rotMemCopy .rrc (s.idxAddr .ix d) .b s)

/-- `RRC (IX+d),C` (R757). -/
def exec_rrc__ixd__c (d : Byte) (s : State) : Res := finish (rotMemCopy .rrc (s.idxAddr .ix d) .c s)

/-- `RRC (IX+d),D` (R757). -/
def exec_rrc__ixd__d (d : Byte) (s : State) : Res := finish (rotMemCopy .rrc (s.idxAddr .ix d) .d s)

/-- `RRC (IX+d),E` (R757). -/
def exec_rrc__ixd__e (d : Byte) (s : State) : Res := finish (rotMemCopy .rrc (s.idxAddr .ix d) .e s)

/-- `RRC (IX+d),H` (R757). -/
def exec_rrc__ixd__h (d : Byte) (s : State) : Res := finish (rotMemCopy .rrc (s.idxAddr .ix d) .h s)

/-- `RRC (IX+d),L` (R757). -/
def exec_rrc__ixd__l (d : Byte) (s : State) : Res := finish (rotMemCopy .rrc (s.idxAddr .ix d) .l s)

/-- `RRC (IX+d)` (R757). -/
def exec_rrc__ixd (d : Byte) (s : State) : Res := finish (rotMem .rrc (s.idxAddr .ix d) 23 s)

/-- `RRC (IX+d),A` (R757). -/
def exec_rrc__ixd__a (d : Byte) (s : State) : Res := finish (rotMemCopy .rrc (s.idxAddr .ix d) .a s)

/-- `RL (IX+d),B` (R758). -/
def exec_rl__ixd__b (d : Byte) (s : State) : Res := finish (rotMemCopy .rl (s.idxAddr .ix d) .b s)

/-- `RL (IX+d),C` (R758). -/
def exec_rl__ixd__c (d : Byte) (s : State) : Res := finish (rotMemCopy .rl (s.idxAddr .ix d) .c s)

/-- `RL (IX+d),D` (R758). -/
def exec_rl__ixd__d (d : Byte) (s : State) : Res := finish (rotMemCopy .rl (s.idxAddr .ix d) .d s)

/-- `RL (IX+d),E` (R758). -/
def exec_rl__ixd__e (d : Byte) (s : State) : Res := finish (rotMemCopy .rl (s.idxAddr .ix d) .e s)

/-- `RL (IX+d),H` (R758). -/
def exec_rl__ixd__h (d : Byte) (s : State) : Res := finish (rotMemCopy .rl (s.idxAddr .ix d) .h s)

/-- `RL (IX+d),L` (R758). -/
def exec_rl__ixd__l (d : Byte) (s : State) : Res := finish (rotMemCopy .rl (s.idxAddr .ix d) .l s)

/-- `RL (IX+d)` (R758). -/
def exec_rl__ixd (d : Byte) (s : State) : Res := finish (rotMem .rl (s.idxAddr .ix d) 23 s)

/-- `RL (IX+d),A` (R758). -/
def exec_rl__ixd__a (d : Byte) (s : State) : Res := finish (rotMemCopy .rl (s.idxAddr .ix d) .a s)

/-- `RR (IX+d),B` (R759). -/
def exec_rr__ixd__b (d : Byte) (s : State) : Res := finish (rotMemCopy .rr (s.idxAddr .ix d) .b s)

/-- `RR (IX+d),C` (R759). -/
def exec_rr__ixd__c (d : Byte) (s : State) : Res := finish (rotMemCopy .rr (s.idxAddr .ix d) .c s)

/-- `RR (IX+d),D` (R759). -/
def exec_rr__ixd__d (d : Byte) (s : State) : Res := finish (rotMemCopy .rr (s.idxAddr .ix d) .d s)

/-- `RR (IX+d),E` (R759). -/
def exec_rr__ixd__e (d : Byte) (s : State) : Res := finish (rotMemCopy .rr (s.idxAddr .ix d) .e s)

/-- `RR (IX+d),H` (R759). -/
def exec_rr__ixd__h (d : Byte) (s : State) : Res := finish (rotMemCopy .rr (s.idxAddr .ix d) .h s)

/-- `RR (IX+d),L` (R759). -/
def exec_rr__ixd__l (d : Byte) (s : State) : Res := finish (rotMemCopy .rr (s.idxAddr .ix d) .l s)

/-- `RR (IX+d)` (R759). -/
def exec_rr__ixd (d : Byte) (s : State) : Res := finish (rotMem .rr (s.idxAddr .ix d) 23 s)

/-- `RR (IX+d),A` (R759). -/
def exec_rr__ixd__a (d : Byte) (s : State) : Res := finish (rotMemCopy .rr (s.idxAddr .ix d) .a s)

/-- `SLA (IX+d),B` (R760). -/
def exec_sla__ixd__b (d : Byte) (s : State) : Res := finish (rotMemCopy .sla (s.idxAddr .ix d) .b s)

/-- `SLA (IX+d),C` (R760). -/
def exec_sla__ixd__c (d : Byte) (s : State) : Res := finish (rotMemCopy .sla (s.idxAddr .ix d) .c s)

/-- `SLA (IX+d),D` (R760). -/
def exec_sla__ixd__d (d : Byte) (s : State) : Res := finish (rotMemCopy .sla (s.idxAddr .ix d) .d s)

/-- `SLA (IX+d),E` (R760). -/
def exec_sla__ixd__e (d : Byte) (s : State) : Res := finish (rotMemCopy .sla (s.idxAddr .ix d) .e s)

/-- `SLA (IX+d),H` (R760). -/
def exec_sla__ixd__h (d : Byte) (s : State) : Res := finish (rotMemCopy .sla (s.idxAddr .ix d) .h s)

/-- `SLA (IX+d),L` (R760). -/
def exec_sla__ixd__l (d : Byte) (s : State) : Res := finish (rotMemCopy .sla (s.idxAddr .ix d) .l s)

/-- `SLA (IX+d)` (R760). -/
def exec_sla__ixd (d : Byte) (s : State) : Res := finish (rotMem .sla (s.idxAddr .ix d) 23 s)

/-- `SLA (IX+d),A` (R760). -/
def exec_sla__ixd__a (d : Byte) (s : State) : Res := finish (rotMemCopy .sla (s.idxAddr .ix d) .a s)

/-- `SRA (IX+d),B` (R761). -/
def exec_sra__ixd__b (d : Byte) (s : State) : Res := finish (rotMemCopy .sra (s.idxAddr .ix d) .b s)

/-- `SRA (IX+d),C` (R761). -/
def exec_sra__ixd__c (d : Byte) (s : State) : Res := finish (rotMemCopy .sra (s.idxAddr .ix d) .c s)

/-- `SRA (IX+d),D` (R761). -/
def exec_sra__ixd__d (d : Byte) (s : State) : Res := finish (rotMemCopy .sra (s.idxAddr .ix d) .d s)

/-- `SRA (IX+d),E` (R761). -/
def exec_sra__ixd__e (d : Byte) (s : State) : Res := finish (rotMemCopy .sra (s.idxAddr .ix d) .e s)

/-- `SRA (IX+d),H` (R761). -/
def exec_sra__ixd__h (d : Byte) (s : State) : Res := finish (rotMemCopy .sra (s.idxAddr .ix d) .h s)

/-- `SRA (IX+d),L` (R761). -/
def exec_sra__ixd__l (d : Byte) (s : State) : Res := finish (rotMemCopy .sra (s.idxAddr .ix d) .l s)

/-- `SRA (IX+d)` (R761). -/
def exec_sra__ixd (d : Byte) (s : State) : Res := finish (rotMem .sra (s.idxAddr .ix d) 23 s)

/-- `SRA (IX+d),A` (R761). -/
def exec_sra__ixd__a (d : Byte) (s : State) : Res := finish (rotMemCopy .sra (s.idxAddr .ix d) .a s)

/-- `SLL (IX+d),B` (R762). -/
def exec_sll__ixd__b (d : Byte) (s : State) : Res := finish (rotMemCopy .sll (s.idxAddr .ix d) .b s)

/-- `SLL (IX+d),C` (R762). -/
def exec_sll__ixd__c (d : Byte) (s : State) : Res := finish (rotMemCopy .sll (s.idxAddr .ix d) .c s)

/-- `SLL (IX+d),D` (R762). -/
def exec_sll__ixd__d (d : Byte) (s : State) : Res := finish (rotMemCopy .sll (s.idxAddr .ix d) .d s)

/-- `SLL (IX+d),E` (R762). -/
def exec_sll__ixd__e (d : Byte) (s : State) : Res := finish (rotMemCopy .sll (s.idxAddr .ix d) .e s)

/-- `SLL (IX+d),H` (R762). -/
def exec_sll__ixd__h (d : Byte) (s : State) : Res := finish (rotMemCopy .sll (s.idxAddr .ix d) .h s)

/-- `SLL (IX+d),L` (R762). -/
def exec_sll__ixd__l (d : Byte) (s : State) : Res := finish (rotMemCopy .sll (s.idxAddr .ix d) .l s)

/-- `SLL (IX+d)` (R762). -/
def exec_sll__ixd (d : Byte) (s : State) : Res := finish (rotMem .sll (s.idxAddr .ix d) 23 s)

/-- `SLL (IX+d),A` (R762). -/
def exec_sll__ixd__a (d : Byte) (s : State) : Res := finish (rotMemCopy .sll (s.idxAddr .ix d) .a s)

/-- `SRL (IX+d),B` (R763). -/
def exec_srl__ixd__b (d : Byte) (s : State) : Res := finish (rotMemCopy .srl (s.idxAddr .ix d) .b s)

/-- `SRL (IX+d),C` (R763). -/
def exec_srl__ixd__c (d : Byte) (s : State) : Res := finish (rotMemCopy .srl (s.idxAddr .ix d) .c s)

/-- `SRL (IX+d),D` (R763). -/
def exec_srl__ixd__d (d : Byte) (s : State) : Res := finish (rotMemCopy .srl (s.idxAddr .ix d) .d s)

/-- `SRL (IX+d),E` (R763). -/
def exec_srl__ixd__e (d : Byte) (s : State) : Res := finish (rotMemCopy .srl (s.idxAddr .ix d) .e s)

/-- `SRL (IX+d),H` (R763). -/
def exec_srl__ixd__h (d : Byte) (s : State) : Res := finish (rotMemCopy .srl (s.idxAddr .ix d) .h s)

/-- `SRL (IX+d),L` (R763). -/
def exec_srl__ixd__l (d : Byte) (s : State) : Res := finish (rotMemCopy .srl (s.idxAddr .ix d) .l s)

/-- `SRL (IX+d)` (R763). -/
def exec_srl__ixd (d : Byte) (s : State) : Res := finish (rotMem .srl (s.idxAddr .ix d) 23 s)

/-- `SRL (IX+d),A` (R763). -/
def exec_srl__ixd__a (d : Byte) (s : State) : Res := finish (rotMemCopy .srl (s.idxAddr .ix d) .a s)

/-- `BIT 0,(IX+d)` (R782). -/
def exec_bit_0__ixd (_z : BitVec 3) (d : Byte) (s : State) : Res :=
  finish (bitMem 0 (s.idxAddr .ix d) s)

/-- `BIT 1,(IX+d)` (R782). -/
def exec_bit_1__ixd (_z : BitVec 3) (d : Byte) (s : State) : Res :=
  finish (bitMem 1 (s.idxAddr .ix d) s)

/-- `BIT 2,(IX+d)` (R782). -/
def exec_bit_2__ixd (_z : BitVec 3) (d : Byte) (s : State) : Res :=
  finish (bitMem 2 (s.idxAddr .ix d) s)

/-- `BIT 3,(IX+d)` (R782). -/
def exec_bit_3__ixd (_z : BitVec 3) (d : Byte) (s : State) : Res :=
  finish (bitMem 3 (s.idxAddr .ix d) s)

/-- `BIT 4,(IX+d)` (R782). -/
def exec_bit_4__ixd (_z : BitVec 3) (d : Byte) (s : State) : Res :=
  finish (bitMem 4 (s.idxAddr .ix d) s)

/-- `BIT 5,(IX+d)` (R782). -/
def exec_bit_5__ixd (_z : BitVec 3) (d : Byte) (s : State) : Res :=
  finish (bitMem 5 (s.idxAddr .ix d) s)

/-- `BIT 6,(IX+d)` (R782). -/
def exec_bit_6__ixd (_z : BitVec 3) (d : Byte) (s : State) : Res :=
  finish (bitMem 6 (s.idxAddr .ix d) s)

/-- `BIT 7,(IX+d)` (R782). -/
def exec_bit_7__ixd (_z : BitVec 3) (d : Byte) (s : State) : Res :=
  finish (bitMem 7 (s.idxAddr .ix d) s)

/-- `RES 0,(IX+d),B` (R783). -/
def exec_res_0__ixd__b (d : Byte) (s : State) : Res := finish (resMemCopy 0 (s.idxAddr .ix d) .b s)

/-- `RES 0,(IX+d),C` (R783). -/
def exec_res_0__ixd__c (d : Byte) (s : State) : Res := finish (resMemCopy 0 (s.idxAddr .ix d) .c s)

/-- `RES 0,(IX+d),D` (R783). -/
def exec_res_0__ixd__d (d : Byte) (s : State) : Res := finish (resMemCopy 0 (s.idxAddr .ix d) .d s)

/-- `RES 0,(IX+d),E` (R783). -/
def exec_res_0__ixd__e (d : Byte) (s : State) : Res := finish (resMemCopy 0 (s.idxAddr .ix d) .e s)

/-- `RES 0,(IX+d),H` (R783). -/
def exec_res_0__ixd__h (d : Byte) (s : State) : Res := finish (resMemCopy 0 (s.idxAddr .ix d) .h s)

/-- `RES 0,(IX+d),L` (R783). -/
def exec_res_0__ixd__l (d : Byte) (s : State) : Res := finish (resMemCopy 0 (s.idxAddr .ix d) .l s)

/-- `RES 0,(IX+d)` (R783). -/
def exec_res_0__ixd (d : Byte) (s : State) : Res := finish (resMem 0 (s.idxAddr .ix d) 23 s)

/-- `RES 0,(IX+d),A` (R783). -/
def exec_res_0__ixd__a (d : Byte) (s : State) : Res := finish (resMemCopy 0 (s.idxAddr .ix d) .a s)

/-- `RES 1,(IX+d),B` (R783). -/
def exec_res_1__ixd__b (d : Byte) (s : State) : Res := finish (resMemCopy 1 (s.idxAddr .ix d) .b s)

/-- `RES 1,(IX+d),C` (R783). -/
def exec_res_1__ixd__c (d : Byte) (s : State) : Res := finish (resMemCopy 1 (s.idxAddr .ix d) .c s)

/-- `RES 1,(IX+d),D` (R783). -/
def exec_res_1__ixd__d (d : Byte) (s : State) : Res := finish (resMemCopy 1 (s.idxAddr .ix d) .d s)

/-- `RES 1,(IX+d),E` (R783). -/
def exec_res_1__ixd__e (d : Byte) (s : State) : Res := finish (resMemCopy 1 (s.idxAddr .ix d) .e s)

/-- `RES 1,(IX+d),H` (R783). -/
def exec_res_1__ixd__h (d : Byte) (s : State) : Res := finish (resMemCopy 1 (s.idxAddr .ix d) .h s)

/-- `RES 1,(IX+d),L` (R783). -/
def exec_res_1__ixd__l (d : Byte) (s : State) : Res := finish (resMemCopy 1 (s.idxAddr .ix d) .l s)

/-- `RES 1,(IX+d)` (R783). -/
def exec_res_1__ixd (d : Byte) (s : State) : Res := finish (resMem 1 (s.idxAddr .ix d) 23 s)

/-- `RES 1,(IX+d),A` (R783). -/
def exec_res_1__ixd__a (d : Byte) (s : State) : Res := finish (resMemCopy 1 (s.idxAddr .ix d) .a s)

/-- `RES 2,(IX+d),B` (R783). -/
def exec_res_2__ixd__b (d : Byte) (s : State) : Res := finish (resMemCopy 2 (s.idxAddr .ix d) .b s)

/-- `RES 2,(IX+d),C` (R783). -/
def exec_res_2__ixd__c (d : Byte) (s : State) : Res := finish (resMemCopy 2 (s.idxAddr .ix d) .c s)

/-- `RES 2,(IX+d),D` (R783). -/
def exec_res_2__ixd__d (d : Byte) (s : State) : Res := finish (resMemCopy 2 (s.idxAddr .ix d) .d s)

/-- `RES 2,(IX+d),E` (R783). -/
def exec_res_2__ixd__e (d : Byte) (s : State) : Res := finish (resMemCopy 2 (s.idxAddr .ix d) .e s)

/-- `RES 2,(IX+d),H` (R783). -/
def exec_res_2__ixd__h (d : Byte) (s : State) : Res := finish (resMemCopy 2 (s.idxAddr .ix d) .h s)

/-- `RES 2,(IX+d),L` (R783). -/
def exec_res_2__ixd__l (d : Byte) (s : State) : Res := finish (resMemCopy 2 (s.idxAddr .ix d) .l s)

/-- `RES 2,(IX+d)` (R783). -/
def exec_res_2__ixd (d : Byte) (s : State) : Res := finish (resMem 2 (s.idxAddr .ix d) 23 s)

/-- `RES 2,(IX+d),A` (R783). -/
def exec_res_2__ixd__a (d : Byte) (s : State) : Res := finish (resMemCopy 2 (s.idxAddr .ix d) .a s)

/-- `RES 3,(IX+d),B` (R783). -/
def exec_res_3__ixd__b (d : Byte) (s : State) : Res := finish (resMemCopy 3 (s.idxAddr .ix d) .b s)

/-- `RES 3,(IX+d),C` (R783). -/
def exec_res_3__ixd__c (d : Byte) (s : State) : Res := finish (resMemCopy 3 (s.idxAddr .ix d) .c s)

/-- `RES 3,(IX+d),D` (R783). -/
def exec_res_3__ixd__d (d : Byte) (s : State) : Res := finish (resMemCopy 3 (s.idxAddr .ix d) .d s)

/-- `RES 3,(IX+d),E` (R783). -/
def exec_res_3__ixd__e (d : Byte) (s : State) : Res := finish (resMemCopy 3 (s.idxAddr .ix d) .e s)

/-- `RES 3,(IX+d),H` (R783). -/
def exec_res_3__ixd__h (d : Byte) (s : State) : Res := finish (resMemCopy 3 (s.idxAddr .ix d) .h s)

/-- `RES 3,(IX+d),L` (R783). -/
def exec_res_3__ixd__l (d : Byte) (s : State) : Res := finish (resMemCopy 3 (s.idxAddr .ix d) .l s)

/-- `RES 3,(IX+d)` (R783). -/
def exec_res_3__ixd (d : Byte) (s : State) : Res := finish (resMem 3 (s.idxAddr .ix d) 23 s)

/-- `RES 3,(IX+d),A` (R783). -/
def exec_res_3__ixd__a (d : Byte) (s : State) : Res := finish (resMemCopy 3 (s.idxAddr .ix d) .a s)

/-- `RES 4,(IX+d),B` (R783). -/
def exec_res_4__ixd__b (d : Byte) (s : State) : Res := finish (resMemCopy 4 (s.idxAddr .ix d) .b s)

/-- `RES 4,(IX+d),C` (R783). -/
def exec_res_4__ixd__c (d : Byte) (s : State) : Res := finish (resMemCopy 4 (s.idxAddr .ix d) .c s)

/-- `RES 4,(IX+d),D` (R783). -/
def exec_res_4__ixd__d (d : Byte) (s : State) : Res := finish (resMemCopy 4 (s.idxAddr .ix d) .d s)

/-- `RES 4,(IX+d),E` (R783). -/
def exec_res_4__ixd__e (d : Byte) (s : State) : Res := finish (resMemCopy 4 (s.idxAddr .ix d) .e s)

/-- `RES 4,(IX+d),H` (R783). -/
def exec_res_4__ixd__h (d : Byte) (s : State) : Res := finish (resMemCopy 4 (s.idxAddr .ix d) .h s)

/-- `RES 4,(IX+d),L` (R783). -/
def exec_res_4__ixd__l (d : Byte) (s : State) : Res := finish (resMemCopy 4 (s.idxAddr .ix d) .l s)

/-- `RES 4,(IX+d)` (R783). -/
def exec_res_4__ixd (d : Byte) (s : State) : Res := finish (resMem 4 (s.idxAddr .ix d) 23 s)

/-- `RES 4,(IX+d),A` (R783). -/
def exec_res_4__ixd__a (d : Byte) (s : State) : Res := finish (resMemCopy 4 (s.idxAddr .ix d) .a s)

/-- `RES 5,(IX+d),B` (R783). -/
def exec_res_5__ixd__b (d : Byte) (s : State) : Res := finish (resMemCopy 5 (s.idxAddr .ix d) .b s)

/-- `RES 5,(IX+d),C` (R783). -/
def exec_res_5__ixd__c (d : Byte) (s : State) : Res := finish (resMemCopy 5 (s.idxAddr .ix d) .c s)

/-- `RES 5,(IX+d),D` (R783). -/
def exec_res_5__ixd__d (d : Byte) (s : State) : Res := finish (resMemCopy 5 (s.idxAddr .ix d) .d s)

/-- `RES 5,(IX+d),E` (R783). -/
def exec_res_5__ixd__e (d : Byte) (s : State) : Res := finish (resMemCopy 5 (s.idxAddr .ix d) .e s)

/-- `RES 5,(IX+d),H` (R783). -/
def exec_res_5__ixd__h (d : Byte) (s : State) : Res := finish (resMemCopy 5 (s.idxAddr .ix d) .h s)

/-- `RES 5,(IX+d),L` (R783). -/
def exec_res_5__ixd__l (d : Byte) (s : State) : Res := finish (resMemCopy 5 (s.idxAddr .ix d) .l s)

/-- `RES 5,(IX+d)` (R783). -/
def exec_res_5__ixd (d : Byte) (s : State) : Res := finish (resMem 5 (s.idxAddr .ix d) 23 s)

/-- `RES 5,(IX+d),A` (R783). -/
def exec_res_5__ixd__a (d : Byte) (s : State) : Res := finish (resMemCopy 5 (s.idxAddr .ix d) .a s)

/-- `RES 6,(IX+d),B` (R783). -/
def exec_res_6__ixd__b (d : Byte) (s : State) : Res := finish (resMemCopy 6 (s.idxAddr .ix d) .b s)

/-- `RES 6,(IX+d),C` (R783). -/
def exec_res_6__ixd__c (d : Byte) (s : State) : Res := finish (resMemCopy 6 (s.idxAddr .ix d) .c s)

/-- `RES 6,(IX+d),D` (R783). -/
def exec_res_6__ixd__d (d : Byte) (s : State) : Res := finish (resMemCopy 6 (s.idxAddr .ix d) .d s)

/-- `RES 6,(IX+d),E` (R783). -/
def exec_res_6__ixd__e (d : Byte) (s : State) : Res := finish (resMemCopy 6 (s.idxAddr .ix d) .e s)

/-- `RES 6,(IX+d),H` (R783). -/
def exec_res_6__ixd__h (d : Byte) (s : State) : Res := finish (resMemCopy 6 (s.idxAddr .ix d) .h s)

/-- `RES 6,(IX+d),L` (R783). -/
def exec_res_6__ixd__l (d : Byte) (s : State) : Res := finish (resMemCopy 6 (s.idxAddr .ix d) .l s)

/-- `RES 6,(IX+d)` (R783). -/
def exec_res_6__ixd (d : Byte) (s : State) : Res := finish (resMem 6 (s.idxAddr .ix d) 23 s)

/-- `RES 6,(IX+d),A` (R783). -/
def exec_res_6__ixd__a (d : Byte) (s : State) : Res := finish (resMemCopy 6 (s.idxAddr .ix d) .a s)

/-- `RES 7,(IX+d),B` (R783). -/
def exec_res_7__ixd__b (d : Byte) (s : State) : Res := finish (resMemCopy 7 (s.idxAddr .ix d) .b s)

/-- `RES 7,(IX+d),C` (R783). -/
def exec_res_7__ixd__c (d : Byte) (s : State) : Res := finish (resMemCopy 7 (s.idxAddr .ix d) .c s)

/-- `RES 7,(IX+d),D` (R783). -/
def exec_res_7__ixd__d (d : Byte) (s : State) : Res := finish (resMemCopy 7 (s.idxAddr .ix d) .d s)

/-- `RES 7,(IX+d),E` (R783). -/
def exec_res_7__ixd__e (d : Byte) (s : State) : Res := finish (resMemCopy 7 (s.idxAddr .ix d) .e s)

/-- `RES 7,(IX+d),H` (R783). -/
def exec_res_7__ixd__h (d : Byte) (s : State) : Res := finish (resMemCopy 7 (s.idxAddr .ix d) .h s)

/-- `RES 7,(IX+d),L` (R783). -/
def exec_res_7__ixd__l (d : Byte) (s : State) : Res := finish (resMemCopy 7 (s.idxAddr .ix d) .l s)

/-- `RES 7,(IX+d)` (R783). -/
def exec_res_7__ixd (d : Byte) (s : State) : Res := finish (resMem 7 (s.idxAddr .ix d) 23 s)

/-- `RES 7,(IX+d),A` (R783). -/
def exec_res_7__ixd__a (d : Byte) (s : State) : Res := finish (resMemCopy 7 (s.idxAddr .ix d) .a s)

/-- `SET 0,(IX+d),B` (R784). -/
def exec_set_0__ixd__b (d : Byte) (s : State) : Res := finish (setMemCopy 0 (s.idxAddr .ix d) .b s)

/-- `SET 0,(IX+d),C` (R784). -/
def exec_set_0__ixd__c (d : Byte) (s : State) : Res := finish (setMemCopy 0 (s.idxAddr .ix d) .c s)

/-- `SET 0,(IX+d),D` (R784). -/
def exec_set_0__ixd__d (d : Byte) (s : State) : Res := finish (setMemCopy 0 (s.idxAddr .ix d) .d s)

/-- `SET 0,(IX+d),E` (R784). -/
def exec_set_0__ixd__e (d : Byte) (s : State) : Res := finish (setMemCopy 0 (s.idxAddr .ix d) .e s)

/-- `SET 0,(IX+d),H` (R784). -/
def exec_set_0__ixd__h (d : Byte) (s : State) : Res := finish (setMemCopy 0 (s.idxAddr .ix d) .h s)

/-- `SET 0,(IX+d),L` (R784). -/
def exec_set_0__ixd__l (d : Byte) (s : State) : Res := finish (setMemCopy 0 (s.idxAddr .ix d) .l s)

/-- `SET 0,(IX+d)` (R784). -/
def exec_set_0__ixd (d : Byte) (s : State) : Res := finish (setMem 0 (s.idxAddr .ix d) 23 s)

/-- `SET 0,(IX+d),A` (R784). -/
def exec_set_0__ixd__a (d : Byte) (s : State) : Res := finish (setMemCopy 0 (s.idxAddr .ix d) .a s)

/-- `SET 1,(IX+d),B` (R784). -/
def exec_set_1__ixd__b (d : Byte) (s : State) : Res := finish (setMemCopy 1 (s.idxAddr .ix d) .b s)

/-- `SET 1,(IX+d),C` (R784). -/
def exec_set_1__ixd__c (d : Byte) (s : State) : Res := finish (setMemCopy 1 (s.idxAddr .ix d) .c s)

/-- `SET 1,(IX+d),D` (R784). -/
def exec_set_1__ixd__d (d : Byte) (s : State) : Res := finish (setMemCopy 1 (s.idxAddr .ix d) .d s)

/-- `SET 1,(IX+d),E` (R784). -/
def exec_set_1__ixd__e (d : Byte) (s : State) : Res := finish (setMemCopy 1 (s.idxAddr .ix d) .e s)

/-- `SET 1,(IX+d),H` (R784). -/
def exec_set_1__ixd__h (d : Byte) (s : State) : Res := finish (setMemCopy 1 (s.idxAddr .ix d) .h s)

/-- `SET 1,(IX+d),L` (R784). -/
def exec_set_1__ixd__l (d : Byte) (s : State) : Res := finish (setMemCopy 1 (s.idxAddr .ix d) .l s)

/-- `SET 1,(IX+d)` (R784). -/
def exec_set_1__ixd (d : Byte) (s : State) : Res := finish (setMem 1 (s.idxAddr .ix d) 23 s)

/-- `SET 1,(IX+d),A` (R784). -/
def exec_set_1__ixd__a (d : Byte) (s : State) : Res := finish (setMemCopy 1 (s.idxAddr .ix d) .a s)

/-- `SET 2,(IX+d),B` (R784). -/
def exec_set_2__ixd__b (d : Byte) (s : State) : Res := finish (setMemCopy 2 (s.idxAddr .ix d) .b s)

/-- `SET 2,(IX+d),C` (R784). -/
def exec_set_2__ixd__c (d : Byte) (s : State) : Res := finish (setMemCopy 2 (s.idxAddr .ix d) .c s)

/-- `SET 2,(IX+d),D` (R784). -/
def exec_set_2__ixd__d (d : Byte) (s : State) : Res := finish (setMemCopy 2 (s.idxAddr .ix d) .d s)

/-- `SET 2,(IX+d),E` (R784). -/
def exec_set_2__ixd__e (d : Byte) (s : State) : Res := finish (setMemCopy 2 (s.idxAddr .ix d) .e s)

/-- `SET 2,(IX+d),H` (R784). -/
def exec_set_2__ixd__h (d : Byte) (s : State) : Res := finish (setMemCopy 2 (s.idxAddr .ix d) .h s)

/-- `SET 2,(IX+d),L` (R784). -/
def exec_set_2__ixd__l (d : Byte) (s : State) : Res := finish (setMemCopy 2 (s.idxAddr .ix d) .l s)

/-- `SET 2,(IX+d)` (R784). -/
def exec_set_2__ixd (d : Byte) (s : State) : Res := finish (setMem 2 (s.idxAddr .ix d) 23 s)

/-- `SET 2,(IX+d),A` (R784). -/
def exec_set_2__ixd__a (d : Byte) (s : State) : Res := finish (setMemCopy 2 (s.idxAddr .ix d) .a s)

/-- `SET 3,(IX+d),B` (R784). -/
def exec_set_3__ixd__b (d : Byte) (s : State) : Res := finish (setMemCopy 3 (s.idxAddr .ix d) .b s)

/-- `SET 3,(IX+d),C` (R784). -/
def exec_set_3__ixd__c (d : Byte) (s : State) : Res := finish (setMemCopy 3 (s.idxAddr .ix d) .c s)

/-- `SET 3,(IX+d),D` (R784). -/
def exec_set_3__ixd__d (d : Byte) (s : State) : Res := finish (setMemCopy 3 (s.idxAddr .ix d) .d s)

/-- `SET 3,(IX+d),E` (R784). -/
def exec_set_3__ixd__e (d : Byte) (s : State) : Res := finish (setMemCopy 3 (s.idxAddr .ix d) .e s)

/-- `SET 3,(IX+d),H` (R784). -/
def exec_set_3__ixd__h (d : Byte) (s : State) : Res := finish (setMemCopy 3 (s.idxAddr .ix d) .h s)

/-- `SET 3,(IX+d),L` (R784). -/
def exec_set_3__ixd__l (d : Byte) (s : State) : Res := finish (setMemCopy 3 (s.idxAddr .ix d) .l s)

/-- `SET 3,(IX+d)` (R784). -/
def exec_set_3__ixd (d : Byte) (s : State) : Res := finish (setMem 3 (s.idxAddr .ix d) 23 s)

/-- `SET 3,(IX+d),A` (R784). -/
def exec_set_3__ixd__a (d : Byte) (s : State) : Res := finish (setMemCopy 3 (s.idxAddr .ix d) .a s)

/-- `SET 4,(IX+d),B` (R784). -/
def exec_set_4__ixd__b (d : Byte) (s : State) : Res := finish (setMemCopy 4 (s.idxAddr .ix d) .b s)

/-- `SET 4,(IX+d),C` (R784). -/
def exec_set_4__ixd__c (d : Byte) (s : State) : Res := finish (setMemCopy 4 (s.idxAddr .ix d) .c s)

/-- `SET 4,(IX+d),D` (R784). -/
def exec_set_4__ixd__d (d : Byte) (s : State) : Res := finish (setMemCopy 4 (s.idxAddr .ix d) .d s)

/-- `SET 4,(IX+d),E` (R784). -/
def exec_set_4__ixd__e (d : Byte) (s : State) : Res := finish (setMemCopy 4 (s.idxAddr .ix d) .e s)

/-- `SET 4,(IX+d),H` (R784). -/
def exec_set_4__ixd__h (d : Byte) (s : State) : Res := finish (setMemCopy 4 (s.idxAddr .ix d) .h s)

/-- `SET 4,(IX+d),L` (R784). -/
def exec_set_4__ixd__l (d : Byte) (s : State) : Res := finish (setMemCopy 4 (s.idxAddr .ix d) .l s)

/-- `SET 4,(IX+d)` (R784). -/
def exec_set_4__ixd (d : Byte) (s : State) : Res := finish (setMem 4 (s.idxAddr .ix d) 23 s)

/-- `SET 4,(IX+d),A` (R784). -/
def exec_set_4__ixd__a (d : Byte) (s : State) : Res := finish (setMemCopy 4 (s.idxAddr .ix d) .a s)

/-- `SET 5,(IX+d),B` (R784). -/
def exec_set_5__ixd__b (d : Byte) (s : State) : Res := finish (setMemCopy 5 (s.idxAddr .ix d) .b s)

/-- `SET 5,(IX+d),C` (R784). -/
def exec_set_5__ixd__c (d : Byte) (s : State) : Res := finish (setMemCopy 5 (s.idxAddr .ix d) .c s)

/-- `SET 5,(IX+d),D` (R784). -/
def exec_set_5__ixd__d (d : Byte) (s : State) : Res := finish (setMemCopy 5 (s.idxAddr .ix d) .d s)

/-- `SET 5,(IX+d),E` (R784). -/
def exec_set_5__ixd__e (d : Byte) (s : State) : Res := finish (setMemCopy 5 (s.idxAddr .ix d) .e s)

/-- `SET 5,(IX+d),H` (R784). -/
def exec_set_5__ixd__h (d : Byte) (s : State) : Res := finish (setMemCopy 5 (s.idxAddr .ix d) .h s)

/-- `SET 5,(IX+d),L` (R784). -/
def exec_set_5__ixd__l (d : Byte) (s : State) : Res := finish (setMemCopy 5 (s.idxAddr .ix d) .l s)

/-- `SET 5,(IX+d)` (R784). -/
def exec_set_5__ixd (d : Byte) (s : State) : Res := finish (setMem 5 (s.idxAddr .ix d) 23 s)

/-- `SET 5,(IX+d),A` (R784). -/
def exec_set_5__ixd__a (d : Byte) (s : State) : Res := finish (setMemCopy 5 (s.idxAddr .ix d) .a s)

/-- `SET 6,(IX+d),B` (R784). -/
def exec_set_6__ixd__b (d : Byte) (s : State) : Res := finish (setMemCopy 6 (s.idxAddr .ix d) .b s)

/-- `SET 6,(IX+d),C` (R784). -/
def exec_set_6__ixd__c (d : Byte) (s : State) : Res := finish (setMemCopy 6 (s.idxAddr .ix d) .c s)

/-- `SET 6,(IX+d),D` (R784). -/
def exec_set_6__ixd__d (d : Byte) (s : State) : Res := finish (setMemCopy 6 (s.idxAddr .ix d) .d s)

/-- `SET 6,(IX+d),E` (R784). -/
def exec_set_6__ixd__e (d : Byte) (s : State) : Res := finish (setMemCopy 6 (s.idxAddr .ix d) .e s)

/-- `SET 6,(IX+d),H` (R784). -/
def exec_set_6__ixd__h (d : Byte) (s : State) : Res := finish (setMemCopy 6 (s.idxAddr .ix d) .h s)

/-- `SET 6,(IX+d),L` (R784). -/
def exec_set_6__ixd__l (d : Byte) (s : State) : Res := finish (setMemCopy 6 (s.idxAddr .ix d) .l s)

/-- `SET 6,(IX+d)` (R784). -/
def exec_set_6__ixd (d : Byte) (s : State) : Res := finish (setMem 6 (s.idxAddr .ix d) 23 s)

/-- `SET 6,(IX+d),A` (R784). -/
def exec_set_6__ixd__a (d : Byte) (s : State) : Res := finish (setMemCopy 6 (s.idxAddr .ix d) .a s)

/-- `SET 7,(IX+d),B` (R784). -/
def exec_set_7__ixd__b (d : Byte) (s : State) : Res := finish (setMemCopy 7 (s.idxAddr .ix d) .b s)

/-- `SET 7,(IX+d),C` (R784). -/
def exec_set_7__ixd__c (d : Byte) (s : State) : Res := finish (setMemCopy 7 (s.idxAddr .ix d) .c s)

/-- `SET 7,(IX+d),D` (R784). -/
def exec_set_7__ixd__d (d : Byte) (s : State) : Res := finish (setMemCopy 7 (s.idxAddr .ix d) .d s)

/-- `SET 7,(IX+d),E` (R784). -/
def exec_set_7__ixd__e (d : Byte) (s : State) : Res := finish (setMemCopy 7 (s.idxAddr .ix d) .e s)

/-- `SET 7,(IX+d),H` (R784). -/
def exec_set_7__ixd__h (d : Byte) (s : State) : Res := finish (setMemCopy 7 (s.idxAddr .ix d) .h s)

/-- `SET 7,(IX+d),L` (R784). -/
def exec_set_7__ixd__l (d : Byte) (s : State) : Res := finish (setMemCopy 7 (s.idxAddr .ix d) .l s)

/-- `SET 7,(IX+d)` (R784). -/
def exec_set_7__ixd (d : Byte) (s : State) : Res := finish (setMem 7 (s.idxAddr .ix d) 23 s)

/-- `SET 7,(IX+d),A` (R784). -/
def exec_set_7__ixd__a (d : Byte) (s : State) : Res := finish (setMemCopy 7 (s.idxAddr .ix d) .a s)

/-- `RLC (IY+d),B` (R756). -/
def exec_rlc__iyd__b (d : Byte) (s : State) : Res := finish (rotMemCopy .rlc (s.idxAddr .iy d) .b s)

/-- `RLC (IY+d),C` (R756). -/
def exec_rlc__iyd__c (d : Byte) (s : State) : Res := finish (rotMemCopy .rlc (s.idxAddr .iy d) .c s)

/-- `RLC (IY+d),D` (R756). -/
def exec_rlc__iyd__d (d : Byte) (s : State) : Res := finish (rotMemCopy .rlc (s.idxAddr .iy d) .d s)

/-- `RLC (IY+d),E` (R756). -/
def exec_rlc__iyd__e (d : Byte) (s : State) : Res := finish (rotMemCopy .rlc (s.idxAddr .iy d) .e s)

/-- `RLC (IY+d),H` (R756). -/
def exec_rlc__iyd__h (d : Byte) (s : State) : Res := finish (rotMemCopy .rlc (s.idxAddr .iy d) .h s)

/-- `RLC (IY+d),L` (R756). -/
def exec_rlc__iyd__l (d : Byte) (s : State) : Res := finish (rotMemCopy .rlc (s.idxAddr .iy d) .l s)

/-- `RLC (IY+d)` (R756). -/
def exec_rlc__iyd (d : Byte) (s : State) : Res := finish (rotMem .rlc (s.idxAddr .iy d) 23 s)

/-- `RLC (IY+d),A` (R756). -/
def exec_rlc__iyd__a (d : Byte) (s : State) : Res := finish (rotMemCopy .rlc (s.idxAddr .iy d) .a s)

/-- `RRC (IY+d),B` (R757). -/
def exec_rrc__iyd__b (d : Byte) (s : State) : Res := finish (rotMemCopy .rrc (s.idxAddr .iy d) .b s)

/-- `RRC (IY+d),C` (R757). -/
def exec_rrc__iyd__c (d : Byte) (s : State) : Res := finish (rotMemCopy .rrc (s.idxAddr .iy d) .c s)

/-- `RRC (IY+d),D` (R757). -/
def exec_rrc__iyd__d (d : Byte) (s : State) : Res := finish (rotMemCopy .rrc (s.idxAddr .iy d) .d s)

/-- `RRC (IY+d),E` (R757). -/
def exec_rrc__iyd__e (d : Byte) (s : State) : Res := finish (rotMemCopy .rrc (s.idxAddr .iy d) .e s)

/-- `RRC (IY+d),H` (R757). -/
def exec_rrc__iyd__h (d : Byte) (s : State) : Res := finish (rotMemCopy .rrc (s.idxAddr .iy d) .h s)

/-- `RRC (IY+d),L` (R757). -/
def exec_rrc__iyd__l (d : Byte) (s : State) : Res := finish (rotMemCopy .rrc (s.idxAddr .iy d) .l s)

/-- `RRC (IY+d)` (R757). -/
def exec_rrc__iyd (d : Byte) (s : State) : Res := finish (rotMem .rrc (s.idxAddr .iy d) 23 s)

/-- `RRC (IY+d),A` (R757). -/
def exec_rrc__iyd__a (d : Byte) (s : State) : Res := finish (rotMemCopy .rrc (s.idxAddr .iy d) .a s)

/-- `RL (IY+d),B` (R758). -/
def exec_rl__iyd__b (d : Byte) (s : State) : Res := finish (rotMemCopy .rl (s.idxAddr .iy d) .b s)

/-- `RL (IY+d),C` (R758). -/
def exec_rl__iyd__c (d : Byte) (s : State) : Res := finish (rotMemCopy .rl (s.idxAddr .iy d) .c s)

/-- `RL (IY+d),D` (R758). -/
def exec_rl__iyd__d (d : Byte) (s : State) : Res := finish (rotMemCopy .rl (s.idxAddr .iy d) .d s)

/-- `RL (IY+d),E` (R758). -/
def exec_rl__iyd__e (d : Byte) (s : State) : Res := finish (rotMemCopy .rl (s.idxAddr .iy d) .e s)

/-- `RL (IY+d),H` (R758). -/
def exec_rl__iyd__h (d : Byte) (s : State) : Res := finish (rotMemCopy .rl (s.idxAddr .iy d) .h s)

/-- `RL (IY+d),L` (R758). -/
def exec_rl__iyd__l (d : Byte) (s : State) : Res := finish (rotMemCopy .rl (s.idxAddr .iy d) .l s)

/-- `RL (IY+d)` (R758). -/
def exec_rl__iyd (d : Byte) (s : State) : Res := finish (rotMem .rl (s.idxAddr .iy d) 23 s)

/-- `RL (IY+d),A` (R758). -/
def exec_rl__iyd__a (d : Byte) (s : State) : Res := finish (rotMemCopy .rl (s.idxAddr .iy d) .a s)

/-- `RR (IY+d),B` (R759). -/
def exec_rr__iyd__b (d : Byte) (s : State) : Res := finish (rotMemCopy .rr (s.idxAddr .iy d) .b s)

/-- `RR (IY+d),C` (R759). -/
def exec_rr__iyd__c (d : Byte) (s : State) : Res := finish (rotMemCopy .rr (s.idxAddr .iy d) .c s)

/-- `RR (IY+d),D` (R759). -/
def exec_rr__iyd__d (d : Byte) (s : State) : Res := finish (rotMemCopy .rr (s.idxAddr .iy d) .d s)

/-- `RR (IY+d),E` (R759). -/
def exec_rr__iyd__e (d : Byte) (s : State) : Res := finish (rotMemCopy .rr (s.idxAddr .iy d) .e s)

/-- `RR (IY+d),H` (R759). -/
def exec_rr__iyd__h (d : Byte) (s : State) : Res := finish (rotMemCopy .rr (s.idxAddr .iy d) .h s)

/-- `RR (IY+d),L` (R759). -/
def exec_rr__iyd__l (d : Byte) (s : State) : Res := finish (rotMemCopy .rr (s.idxAddr .iy d) .l s)

/-- `RR (IY+d)` (R759). -/
def exec_rr__iyd (d : Byte) (s : State) : Res := finish (rotMem .rr (s.idxAddr .iy d) 23 s)

/-- `RR (IY+d),A` (R759). -/
def exec_rr__iyd__a (d : Byte) (s : State) : Res := finish (rotMemCopy .rr (s.idxAddr .iy d) .a s)

/-- `SLA (IY+d),B` (R760). -/
def exec_sla__iyd__b (d : Byte) (s : State) : Res := finish (rotMemCopy .sla (s.idxAddr .iy d) .b s)

/-- `SLA (IY+d),C` (R760). -/
def exec_sla__iyd__c (d : Byte) (s : State) : Res := finish (rotMemCopy .sla (s.idxAddr .iy d) .c s)

/-- `SLA (IY+d),D` (R760). -/
def exec_sla__iyd__d (d : Byte) (s : State) : Res := finish (rotMemCopy .sla (s.idxAddr .iy d) .d s)

/-- `SLA (IY+d),E` (R760). -/
def exec_sla__iyd__e (d : Byte) (s : State) : Res := finish (rotMemCopy .sla (s.idxAddr .iy d) .e s)

/-- `SLA (IY+d),H` (R760). -/
def exec_sla__iyd__h (d : Byte) (s : State) : Res := finish (rotMemCopy .sla (s.idxAddr .iy d) .h s)

/-- `SLA (IY+d),L` (R760). -/
def exec_sla__iyd__l (d : Byte) (s : State) : Res := finish (rotMemCopy .sla (s.idxAddr .iy d) .l s)

/-- `SLA (IY+d)` (R760). -/
def exec_sla__iyd (d : Byte) (s : State) : Res := finish (rotMem .sla (s.idxAddr .iy d) 23 s)

/-- `SLA (IY+d),A` (R760). -/
def exec_sla__iyd__a (d : Byte) (s : State) : Res := finish (rotMemCopy .sla (s.idxAddr .iy d) .a s)

/-- `SRA (IY+d),B` (R761). -/
def exec_sra__iyd__b (d : Byte) (s : State) : Res := finish (rotMemCopy .sra (s.idxAddr .iy d) .b s)

/-- `SRA (IY+d),C` (R761). -/
def exec_sra__iyd__c (d : Byte) (s : State) : Res := finish (rotMemCopy .sra (s.idxAddr .iy d) .c s)

/-- `SRA (IY+d),D` (R761). -/
def exec_sra__iyd__d (d : Byte) (s : State) : Res := finish (rotMemCopy .sra (s.idxAddr .iy d) .d s)

/-- `SRA (IY+d),E` (R761). -/
def exec_sra__iyd__e (d : Byte) (s : State) : Res := finish (rotMemCopy .sra (s.idxAddr .iy d) .e s)

/-- `SRA (IY+d),H` (R761). -/
def exec_sra__iyd__h (d : Byte) (s : State) : Res := finish (rotMemCopy .sra (s.idxAddr .iy d) .h s)

/-- `SRA (IY+d),L` (R761). -/
def exec_sra__iyd__l (d : Byte) (s : State) : Res := finish (rotMemCopy .sra (s.idxAddr .iy d) .l s)

/-- `SRA (IY+d)` (R761). -/
def exec_sra__iyd (d : Byte) (s : State) : Res := finish (rotMem .sra (s.idxAddr .iy d) 23 s)

/-- `SRA (IY+d),A` (R761). -/
def exec_sra__iyd__a (d : Byte) (s : State) : Res := finish (rotMemCopy .sra (s.idxAddr .iy d) .a s)

/-- `SLL (IY+d),B` (R762). -/
def exec_sll__iyd__b (d : Byte) (s : State) : Res := finish (rotMemCopy .sll (s.idxAddr .iy d) .b s)

/-- `SLL (IY+d),C` (R762). -/
def exec_sll__iyd__c (d : Byte) (s : State) : Res := finish (rotMemCopy .sll (s.idxAddr .iy d) .c s)

/-- `SLL (IY+d),D` (R762). -/
def exec_sll__iyd__d (d : Byte) (s : State) : Res := finish (rotMemCopy .sll (s.idxAddr .iy d) .d s)

/-- `SLL (IY+d),E` (R762). -/
def exec_sll__iyd__e (d : Byte) (s : State) : Res := finish (rotMemCopy .sll (s.idxAddr .iy d) .e s)

/-- `SLL (IY+d),H` (R762). -/
def exec_sll__iyd__h (d : Byte) (s : State) : Res := finish (rotMemCopy .sll (s.idxAddr .iy d) .h s)

/-- `SLL (IY+d),L` (R762). -/
def exec_sll__iyd__l (d : Byte) (s : State) : Res := finish (rotMemCopy .sll (s.idxAddr .iy d) .l s)

/-- `SLL (IY+d)` (R762). -/
def exec_sll__iyd (d : Byte) (s : State) : Res := finish (rotMem .sll (s.idxAddr .iy d) 23 s)

/-- `SLL (IY+d),A` (R762). -/
def exec_sll__iyd__a (d : Byte) (s : State) : Res := finish (rotMemCopy .sll (s.idxAddr .iy d) .a s)

/-- `SRL (IY+d),B` (R763). -/
def exec_srl__iyd__b (d : Byte) (s : State) : Res := finish (rotMemCopy .srl (s.idxAddr .iy d) .b s)

/-- `SRL (IY+d),C` (R763). -/
def exec_srl__iyd__c (d : Byte) (s : State) : Res := finish (rotMemCopy .srl (s.idxAddr .iy d) .c s)

/-- `SRL (IY+d),D` (R763). -/
def exec_srl__iyd__d (d : Byte) (s : State) : Res := finish (rotMemCopy .srl (s.idxAddr .iy d) .d s)

/-- `SRL (IY+d),E` (R763). -/
def exec_srl__iyd__e (d : Byte) (s : State) : Res := finish (rotMemCopy .srl (s.idxAddr .iy d) .e s)

/-- `SRL (IY+d),H` (R763). -/
def exec_srl__iyd__h (d : Byte) (s : State) : Res := finish (rotMemCopy .srl (s.idxAddr .iy d) .h s)

/-- `SRL (IY+d),L` (R763). -/
def exec_srl__iyd__l (d : Byte) (s : State) : Res := finish (rotMemCopy .srl (s.idxAddr .iy d) .l s)

/-- `SRL (IY+d)` (R763). -/
def exec_srl__iyd (d : Byte) (s : State) : Res := finish (rotMem .srl (s.idxAddr .iy d) 23 s)

/-- `SRL (IY+d),A` (R763). -/
def exec_srl__iyd__a (d : Byte) (s : State) : Res := finish (rotMemCopy .srl (s.idxAddr .iy d) .a s)

/-- `BIT 0,(IY+d)` (R782). -/
def exec_bit_0__iyd (_z : BitVec 3) (d : Byte) (s : State) : Res :=
  finish (bitMem 0 (s.idxAddr .iy d) s)

/-- `BIT 1,(IY+d)` (R782). -/
def exec_bit_1__iyd (_z : BitVec 3) (d : Byte) (s : State) : Res :=
  finish (bitMem 1 (s.idxAddr .iy d) s)

/-- `BIT 2,(IY+d)` (R782). -/
def exec_bit_2__iyd (_z : BitVec 3) (d : Byte) (s : State) : Res :=
  finish (bitMem 2 (s.idxAddr .iy d) s)

/-- `BIT 3,(IY+d)` (R782). -/
def exec_bit_3__iyd (_z : BitVec 3) (d : Byte) (s : State) : Res :=
  finish (bitMem 3 (s.idxAddr .iy d) s)

/-- `BIT 4,(IY+d)` (R782). -/
def exec_bit_4__iyd (_z : BitVec 3) (d : Byte) (s : State) : Res :=
  finish (bitMem 4 (s.idxAddr .iy d) s)

/-- `BIT 5,(IY+d)` (R782). -/
def exec_bit_5__iyd (_z : BitVec 3) (d : Byte) (s : State) : Res :=
  finish (bitMem 5 (s.idxAddr .iy d) s)

/-- `BIT 6,(IY+d)` (R782). -/
def exec_bit_6__iyd (_z : BitVec 3) (d : Byte) (s : State) : Res :=
  finish (bitMem 6 (s.idxAddr .iy d) s)

/-- `BIT 7,(IY+d)` (R782). -/
def exec_bit_7__iyd (_z : BitVec 3) (d : Byte) (s : State) : Res :=
  finish (bitMem 7 (s.idxAddr .iy d) s)

/-- `RES 0,(IY+d),B` (R783). -/
def exec_res_0__iyd__b (d : Byte) (s : State) : Res := finish (resMemCopy 0 (s.idxAddr .iy d) .b s)

/-- `RES 0,(IY+d),C` (R783). -/
def exec_res_0__iyd__c (d : Byte) (s : State) : Res := finish (resMemCopy 0 (s.idxAddr .iy d) .c s)

/-- `RES 0,(IY+d),D` (R783). -/
def exec_res_0__iyd__d (d : Byte) (s : State) : Res := finish (resMemCopy 0 (s.idxAddr .iy d) .d s)

/-- `RES 0,(IY+d),E` (R783). -/
def exec_res_0__iyd__e (d : Byte) (s : State) : Res := finish (resMemCopy 0 (s.idxAddr .iy d) .e s)

/-- `RES 0,(IY+d),H` (R783). -/
def exec_res_0__iyd__h (d : Byte) (s : State) : Res := finish (resMemCopy 0 (s.idxAddr .iy d) .h s)

/-- `RES 0,(IY+d),L` (R783). -/
def exec_res_0__iyd__l (d : Byte) (s : State) : Res := finish (resMemCopy 0 (s.idxAddr .iy d) .l s)

/-- `RES 0,(IY+d)` (R783). -/
def exec_res_0__iyd (d : Byte) (s : State) : Res := finish (resMem 0 (s.idxAddr .iy d) 23 s)

/-- `RES 0,(IY+d),A` (R783). -/
def exec_res_0__iyd__a (d : Byte) (s : State) : Res := finish (resMemCopy 0 (s.idxAddr .iy d) .a s)

/-- `RES 1,(IY+d),B` (R783). -/
def exec_res_1__iyd__b (d : Byte) (s : State) : Res := finish (resMemCopy 1 (s.idxAddr .iy d) .b s)

/-- `RES 1,(IY+d),C` (R783). -/
def exec_res_1__iyd__c (d : Byte) (s : State) : Res := finish (resMemCopy 1 (s.idxAddr .iy d) .c s)

/-- `RES 1,(IY+d),D` (R783). -/
def exec_res_1__iyd__d (d : Byte) (s : State) : Res := finish (resMemCopy 1 (s.idxAddr .iy d) .d s)

/-- `RES 1,(IY+d),E` (R783). -/
def exec_res_1__iyd__e (d : Byte) (s : State) : Res := finish (resMemCopy 1 (s.idxAddr .iy d) .e s)

/-- `RES 1,(IY+d),H` (R783). -/
def exec_res_1__iyd__h (d : Byte) (s : State) : Res := finish (resMemCopy 1 (s.idxAddr .iy d) .h s)

/-- `RES 1,(IY+d),L` (R783). -/
def exec_res_1__iyd__l (d : Byte) (s : State) : Res := finish (resMemCopy 1 (s.idxAddr .iy d) .l s)

/-- `RES 1,(IY+d)` (R783). -/
def exec_res_1__iyd (d : Byte) (s : State) : Res := finish (resMem 1 (s.idxAddr .iy d) 23 s)

/-- `RES 1,(IY+d),A` (R783). -/
def exec_res_1__iyd__a (d : Byte) (s : State) : Res := finish (resMemCopy 1 (s.idxAddr .iy d) .a s)

/-- `RES 2,(IY+d),B` (R783). -/
def exec_res_2__iyd__b (d : Byte) (s : State) : Res := finish (resMemCopy 2 (s.idxAddr .iy d) .b s)

/-- `RES 2,(IY+d),C` (R783). -/
def exec_res_2__iyd__c (d : Byte) (s : State) : Res := finish (resMemCopy 2 (s.idxAddr .iy d) .c s)

/-- `RES 2,(IY+d),D` (R783). -/
def exec_res_2__iyd__d (d : Byte) (s : State) : Res := finish (resMemCopy 2 (s.idxAddr .iy d) .d s)

/-- `RES 2,(IY+d),E` (R783). -/
def exec_res_2__iyd__e (d : Byte) (s : State) : Res := finish (resMemCopy 2 (s.idxAddr .iy d) .e s)

/-- `RES 2,(IY+d),H` (R783). -/
def exec_res_2__iyd__h (d : Byte) (s : State) : Res := finish (resMemCopy 2 (s.idxAddr .iy d) .h s)

/-- `RES 2,(IY+d),L` (R783). -/
def exec_res_2__iyd__l (d : Byte) (s : State) : Res := finish (resMemCopy 2 (s.idxAddr .iy d) .l s)

/-- `RES 2,(IY+d)` (R783). -/
def exec_res_2__iyd (d : Byte) (s : State) : Res := finish (resMem 2 (s.idxAddr .iy d) 23 s)

/-- `RES 2,(IY+d),A` (R783). -/
def exec_res_2__iyd__a (d : Byte) (s : State) : Res := finish (resMemCopy 2 (s.idxAddr .iy d) .a s)

/-- `RES 3,(IY+d),B` (R783). -/
def exec_res_3__iyd__b (d : Byte) (s : State) : Res := finish (resMemCopy 3 (s.idxAddr .iy d) .b s)

/-- `RES 3,(IY+d),C` (R783). -/
def exec_res_3__iyd__c (d : Byte) (s : State) : Res := finish (resMemCopy 3 (s.idxAddr .iy d) .c s)

/-- `RES 3,(IY+d),D` (R783). -/
def exec_res_3__iyd__d (d : Byte) (s : State) : Res := finish (resMemCopy 3 (s.idxAddr .iy d) .d s)

/-- `RES 3,(IY+d),E` (R783). -/
def exec_res_3__iyd__e (d : Byte) (s : State) : Res := finish (resMemCopy 3 (s.idxAddr .iy d) .e s)

/-- `RES 3,(IY+d),H` (R783). -/
def exec_res_3__iyd__h (d : Byte) (s : State) : Res := finish (resMemCopy 3 (s.idxAddr .iy d) .h s)

/-- `RES 3,(IY+d),L` (R783). -/
def exec_res_3__iyd__l (d : Byte) (s : State) : Res := finish (resMemCopy 3 (s.idxAddr .iy d) .l s)

/-- `RES 3,(IY+d)` (R783). -/
def exec_res_3__iyd (d : Byte) (s : State) : Res := finish (resMem 3 (s.idxAddr .iy d) 23 s)

/-- `RES 3,(IY+d),A` (R783). -/
def exec_res_3__iyd__a (d : Byte) (s : State) : Res := finish (resMemCopy 3 (s.idxAddr .iy d) .a s)

/-- `RES 4,(IY+d),B` (R783). -/
def exec_res_4__iyd__b (d : Byte) (s : State) : Res := finish (resMemCopy 4 (s.idxAddr .iy d) .b s)

/-- `RES 4,(IY+d),C` (R783). -/
def exec_res_4__iyd__c (d : Byte) (s : State) : Res := finish (resMemCopy 4 (s.idxAddr .iy d) .c s)

/-- `RES 4,(IY+d),D` (R783). -/
def exec_res_4__iyd__d (d : Byte) (s : State) : Res := finish (resMemCopy 4 (s.idxAddr .iy d) .d s)

/-- `RES 4,(IY+d),E` (R783). -/
def exec_res_4__iyd__e (d : Byte) (s : State) : Res := finish (resMemCopy 4 (s.idxAddr .iy d) .e s)

/-- `RES 4,(IY+d),H` (R783). -/
def exec_res_4__iyd__h (d : Byte) (s : State) : Res := finish (resMemCopy 4 (s.idxAddr .iy d) .h s)

/-- `RES 4,(IY+d),L` (R783). -/
def exec_res_4__iyd__l (d : Byte) (s : State) : Res := finish (resMemCopy 4 (s.idxAddr .iy d) .l s)

/-- `RES 4,(IY+d)` (R783). -/
def exec_res_4__iyd (d : Byte) (s : State) : Res := finish (resMem 4 (s.idxAddr .iy d) 23 s)

/-- `RES 4,(IY+d),A` (R783). -/
def exec_res_4__iyd__a (d : Byte) (s : State) : Res := finish (resMemCopy 4 (s.idxAddr .iy d) .a s)

/-- `RES 5,(IY+d),B` (R783). -/
def exec_res_5__iyd__b (d : Byte) (s : State) : Res := finish (resMemCopy 5 (s.idxAddr .iy d) .b s)

/-- `RES 5,(IY+d),C` (R783). -/
def exec_res_5__iyd__c (d : Byte) (s : State) : Res := finish (resMemCopy 5 (s.idxAddr .iy d) .c s)

/-- `RES 5,(IY+d),D` (R783). -/
def exec_res_5__iyd__d (d : Byte) (s : State) : Res := finish (resMemCopy 5 (s.idxAddr .iy d) .d s)

/-- `RES 5,(IY+d),E` (R783). -/
def exec_res_5__iyd__e (d : Byte) (s : State) : Res := finish (resMemCopy 5 (s.idxAddr .iy d) .e s)

/-- `RES 5,(IY+d),H` (R783). -/
def exec_res_5__iyd__h (d : Byte) (s : State) : Res := finish (resMemCopy 5 (s.idxAddr .iy d) .h s)

/-- `RES 5,(IY+d),L` (R783). -/
def exec_res_5__iyd__l (d : Byte) (s : State) : Res := finish (resMemCopy 5 (s.idxAddr .iy d) .l s)

/-- `RES 5,(IY+d)` (R783). -/
def exec_res_5__iyd (d : Byte) (s : State) : Res := finish (resMem 5 (s.idxAddr .iy d) 23 s)

/-- `RES 5,(IY+d),A` (R783). -/
def exec_res_5__iyd__a (d : Byte) (s : State) : Res := finish (resMemCopy 5 (s.idxAddr .iy d) .a s)

/-- `RES 6,(IY+d),B` (R783). -/
def exec_res_6__iyd__b (d : Byte) (s : State) : Res := finish (resMemCopy 6 (s.idxAddr .iy d) .b s)

/-- `RES 6,(IY+d),C` (R783). -/
def exec_res_6__iyd__c (d : Byte) (s : State) : Res := finish (resMemCopy 6 (s.idxAddr .iy d) .c s)

/-- `RES 6,(IY+d),D` (R783). -/
def exec_res_6__iyd__d (d : Byte) (s : State) : Res := finish (resMemCopy 6 (s.idxAddr .iy d) .d s)

/-- `RES 6,(IY+d),E` (R783). -/
def exec_res_6__iyd__e (d : Byte) (s : State) : Res := finish (resMemCopy 6 (s.idxAddr .iy d) .e s)

/-- `RES 6,(IY+d),H` (R783). -/
def exec_res_6__iyd__h (d : Byte) (s : State) : Res := finish (resMemCopy 6 (s.idxAddr .iy d) .h s)

/-- `RES 6,(IY+d),L` (R783). -/
def exec_res_6__iyd__l (d : Byte) (s : State) : Res := finish (resMemCopy 6 (s.idxAddr .iy d) .l s)

/-- `RES 6,(IY+d)` (R783). -/
def exec_res_6__iyd (d : Byte) (s : State) : Res := finish (resMem 6 (s.idxAddr .iy d) 23 s)

/-- `RES 6,(IY+d),A` (R783). -/
def exec_res_6__iyd__a (d : Byte) (s : State) : Res := finish (resMemCopy 6 (s.idxAddr .iy d) .a s)

/-- `RES 7,(IY+d),B` (R783). -/
def exec_res_7__iyd__b (d : Byte) (s : State) : Res := finish (resMemCopy 7 (s.idxAddr .iy d) .b s)

/-- `RES 7,(IY+d),C` (R783). -/
def exec_res_7__iyd__c (d : Byte) (s : State) : Res := finish (resMemCopy 7 (s.idxAddr .iy d) .c s)

/-- `RES 7,(IY+d),D` (R783). -/
def exec_res_7__iyd__d (d : Byte) (s : State) : Res := finish (resMemCopy 7 (s.idxAddr .iy d) .d s)

/-- `RES 7,(IY+d),E` (R783). -/
def exec_res_7__iyd__e (d : Byte) (s : State) : Res := finish (resMemCopy 7 (s.idxAddr .iy d) .e s)

/-- `RES 7,(IY+d),H` (R783). -/
def exec_res_7__iyd__h (d : Byte) (s : State) : Res := finish (resMemCopy 7 (s.idxAddr .iy d) .h s)

/-- `RES 7,(IY+d),L` (R783). -/
def exec_res_7__iyd__l (d : Byte) (s : State) : Res := finish (resMemCopy 7 (s.idxAddr .iy d) .l s)

/-- `RES 7,(IY+d)` (R783). -/
def exec_res_7__iyd (d : Byte) (s : State) : Res := finish (resMem 7 (s.idxAddr .iy d) 23 s)

/-- `RES 7,(IY+d),A` (R783). -/
def exec_res_7__iyd__a (d : Byte) (s : State) : Res := finish (resMemCopy 7 (s.idxAddr .iy d) .a s)

/-- `SET 0,(IY+d),B` (R784). -/
def exec_set_0__iyd__b (d : Byte) (s : State) : Res := finish (setMemCopy 0 (s.idxAddr .iy d) .b s)

/-- `SET 0,(IY+d),C` (R784). -/
def exec_set_0__iyd__c (d : Byte) (s : State) : Res := finish (setMemCopy 0 (s.idxAddr .iy d) .c s)

/-- `SET 0,(IY+d),D` (R784). -/
def exec_set_0__iyd__d (d : Byte) (s : State) : Res := finish (setMemCopy 0 (s.idxAddr .iy d) .d s)

/-- `SET 0,(IY+d),E` (R784). -/
def exec_set_0__iyd__e (d : Byte) (s : State) : Res := finish (setMemCopy 0 (s.idxAddr .iy d) .e s)

/-- `SET 0,(IY+d),H` (R784). -/
def exec_set_0__iyd__h (d : Byte) (s : State) : Res := finish (setMemCopy 0 (s.idxAddr .iy d) .h s)

/-- `SET 0,(IY+d),L` (R784). -/
def exec_set_0__iyd__l (d : Byte) (s : State) : Res := finish (setMemCopy 0 (s.idxAddr .iy d) .l s)

/-- `SET 0,(IY+d)` (R784). -/
def exec_set_0__iyd (d : Byte) (s : State) : Res := finish (setMem 0 (s.idxAddr .iy d) 23 s)

/-- `SET 0,(IY+d),A` (R784). -/
def exec_set_0__iyd__a (d : Byte) (s : State) : Res := finish (setMemCopy 0 (s.idxAddr .iy d) .a s)

/-- `SET 1,(IY+d),B` (R784). -/
def exec_set_1__iyd__b (d : Byte) (s : State) : Res := finish (setMemCopy 1 (s.idxAddr .iy d) .b s)

/-- `SET 1,(IY+d),C` (R784). -/
def exec_set_1__iyd__c (d : Byte) (s : State) : Res := finish (setMemCopy 1 (s.idxAddr .iy d) .c s)

/-- `SET 1,(IY+d),D` (R784). -/
def exec_set_1__iyd__d (d : Byte) (s : State) : Res := finish (setMemCopy 1 (s.idxAddr .iy d) .d s)

/-- `SET 1,(IY+d),E` (R784). -/
def exec_set_1__iyd__e (d : Byte) (s : State) : Res := finish (setMemCopy 1 (s.idxAddr .iy d) .e s)

/-- `SET 1,(IY+d),H` (R784). -/
def exec_set_1__iyd__h (d : Byte) (s : State) : Res := finish (setMemCopy 1 (s.idxAddr .iy d) .h s)

/-- `SET 1,(IY+d),L` (R784). -/
def exec_set_1__iyd__l (d : Byte) (s : State) : Res := finish (setMemCopy 1 (s.idxAddr .iy d) .l s)

/-- `SET 1,(IY+d)` (R784). -/
def exec_set_1__iyd (d : Byte) (s : State) : Res := finish (setMem 1 (s.idxAddr .iy d) 23 s)

/-- `SET 1,(IY+d),A` (R784). -/
def exec_set_1__iyd__a (d : Byte) (s : State) : Res := finish (setMemCopy 1 (s.idxAddr .iy d) .a s)

/-- `SET 2,(IY+d),B` (R784). -/
def exec_set_2__iyd__b (d : Byte) (s : State) : Res := finish (setMemCopy 2 (s.idxAddr .iy d) .b s)

/-- `SET 2,(IY+d),C` (R784). -/
def exec_set_2__iyd__c (d : Byte) (s : State) : Res := finish (setMemCopy 2 (s.idxAddr .iy d) .c s)

/-- `SET 2,(IY+d),D` (R784). -/
def exec_set_2__iyd__d (d : Byte) (s : State) : Res := finish (setMemCopy 2 (s.idxAddr .iy d) .d s)

/-- `SET 2,(IY+d),E` (R784). -/
def exec_set_2__iyd__e (d : Byte) (s : State) : Res := finish (setMemCopy 2 (s.idxAddr .iy d) .e s)

/-- `SET 2,(IY+d),H` (R784). -/
def exec_set_2__iyd__h (d : Byte) (s : State) : Res := finish (setMemCopy 2 (s.idxAddr .iy d) .h s)

/-- `SET 2,(IY+d),L` (R784). -/
def exec_set_2__iyd__l (d : Byte) (s : State) : Res := finish (setMemCopy 2 (s.idxAddr .iy d) .l s)

/-- `SET 2,(IY+d)` (R784). -/
def exec_set_2__iyd (d : Byte) (s : State) : Res := finish (setMem 2 (s.idxAddr .iy d) 23 s)

/-- `SET 2,(IY+d),A` (R784). -/
def exec_set_2__iyd__a (d : Byte) (s : State) : Res := finish (setMemCopy 2 (s.idxAddr .iy d) .a s)

/-- `SET 3,(IY+d),B` (R784). -/
def exec_set_3__iyd__b (d : Byte) (s : State) : Res := finish (setMemCopy 3 (s.idxAddr .iy d) .b s)

/-- `SET 3,(IY+d),C` (R784). -/
def exec_set_3__iyd__c (d : Byte) (s : State) : Res := finish (setMemCopy 3 (s.idxAddr .iy d) .c s)

/-- `SET 3,(IY+d),D` (R784). -/
def exec_set_3__iyd__d (d : Byte) (s : State) : Res := finish (setMemCopy 3 (s.idxAddr .iy d) .d s)

/-- `SET 3,(IY+d),E` (R784). -/
def exec_set_3__iyd__e (d : Byte) (s : State) : Res := finish (setMemCopy 3 (s.idxAddr .iy d) .e s)

/-- `SET 3,(IY+d),H` (R784). -/
def exec_set_3__iyd__h (d : Byte) (s : State) : Res := finish (setMemCopy 3 (s.idxAddr .iy d) .h s)

/-- `SET 3,(IY+d),L` (R784). -/
def exec_set_3__iyd__l (d : Byte) (s : State) : Res := finish (setMemCopy 3 (s.idxAddr .iy d) .l s)

/-- `SET 3,(IY+d)` (R784). -/
def exec_set_3__iyd (d : Byte) (s : State) : Res := finish (setMem 3 (s.idxAddr .iy d) 23 s)

/-- `SET 3,(IY+d),A` (R784). -/
def exec_set_3__iyd__a (d : Byte) (s : State) : Res := finish (setMemCopy 3 (s.idxAddr .iy d) .a s)

/-- `SET 4,(IY+d),B` (R784). -/
def exec_set_4__iyd__b (d : Byte) (s : State) : Res := finish (setMemCopy 4 (s.idxAddr .iy d) .b s)

/-- `SET 4,(IY+d),C` (R784). -/
def exec_set_4__iyd__c (d : Byte) (s : State) : Res := finish (setMemCopy 4 (s.idxAddr .iy d) .c s)

/-- `SET 4,(IY+d),D` (R784). -/
def exec_set_4__iyd__d (d : Byte) (s : State) : Res := finish (setMemCopy 4 (s.idxAddr .iy d) .d s)

/-- `SET 4,(IY+d),E` (R784). -/
def exec_set_4__iyd__e (d : Byte) (s : State) : Res := finish (setMemCopy 4 (s.idxAddr .iy d) .e s)

/-- `SET 4,(IY+d),H` (R784). -/
def exec_set_4__iyd__h (d : Byte) (s : State) : Res := finish (setMemCopy 4 (s.idxAddr .iy d) .h s)

/-- `SET 4,(IY+d),L` (R784). -/
def exec_set_4__iyd__l (d : Byte) (s : State) : Res := finish (setMemCopy 4 (s.idxAddr .iy d) .l s)

/-- `SET 4,(IY+d)` (R784). -/
def exec_set_4__iyd (d : Byte) (s : State) : Res := finish (setMem 4 (s.idxAddr .iy d) 23 s)

/-- `SET 4,(IY+d),A` (R784). -/
def exec_set_4__iyd__a (d : Byte) (s : State) : Res := finish (setMemCopy 4 (s.idxAddr .iy d) .a s)

/-- `SET 5,(IY+d),B` (R784). -/
def exec_set_5__iyd__b (d : Byte) (s : State) : Res := finish (setMemCopy 5 (s.idxAddr .iy d) .b s)

/-- `SET 5,(IY+d),C` (R784). -/
def exec_set_5__iyd__c (d : Byte) (s : State) : Res := finish (setMemCopy 5 (s.idxAddr .iy d) .c s)

/-- `SET 5,(IY+d),D` (R784). -/
def exec_set_5__iyd__d (d : Byte) (s : State) : Res := finish (setMemCopy 5 (s.idxAddr .iy d) .d s)

/-- `SET 5,(IY+d),E` (R784). -/
def exec_set_5__iyd__e (d : Byte) (s : State) : Res := finish (setMemCopy 5 (s.idxAddr .iy d) .e s)

/-- `SET 5,(IY+d),H` (R784). -/
def exec_set_5__iyd__h (d : Byte) (s : State) : Res := finish (setMemCopy 5 (s.idxAddr .iy d) .h s)

/-- `SET 5,(IY+d),L` (R784). -/
def exec_set_5__iyd__l (d : Byte) (s : State) : Res := finish (setMemCopy 5 (s.idxAddr .iy d) .l s)

/-- `SET 5,(IY+d)` (R784). -/
def exec_set_5__iyd (d : Byte) (s : State) : Res := finish (setMem 5 (s.idxAddr .iy d) 23 s)

/-- `SET 5,(IY+d),A` (R784). -/
def exec_set_5__iyd__a (d : Byte) (s : State) : Res := finish (setMemCopy 5 (s.idxAddr .iy d) .a s)

/-- `SET 6,(IY+d),B` (R784). -/
def exec_set_6__iyd__b (d : Byte) (s : State) : Res := finish (setMemCopy 6 (s.idxAddr .iy d) .b s)

/-- `SET 6,(IY+d),C` (R784). -/
def exec_set_6__iyd__c (d : Byte) (s : State) : Res := finish (setMemCopy 6 (s.idxAddr .iy d) .c s)

/-- `SET 6,(IY+d),D` (R784). -/
def exec_set_6__iyd__d (d : Byte) (s : State) : Res := finish (setMemCopy 6 (s.idxAddr .iy d) .d s)

/-- `SET 6,(IY+d),E` (R784). -/
def exec_set_6__iyd__e (d : Byte) (s : State) : Res := finish (setMemCopy 6 (s.idxAddr .iy d) .e s)

/-- `SET 6,(IY+d),H` (R784). -/
def exec_set_6__iyd__h (d : Byte) (s : State) : Res := finish (setMemCopy 6 (s.idxAddr .iy d) .h s)

/-- `SET 6,(IY+d),L` (R784). -/
def exec_set_6__iyd__l (d : Byte) (s : State) : Res := finish (setMemCopy 6 (s.idxAddr .iy d) .l s)

/-- `SET 6,(IY+d)` (R784). -/
def exec_set_6__iyd (d : Byte) (s : State) : Res := finish (setMem 6 (s.idxAddr .iy d) 23 s)

/-- `SET 6,(IY+d),A` (R784). -/
def exec_set_6__iyd__a (d : Byte) (s : State) : Res := finish (setMemCopy 6 (s.idxAddr .iy d) .a s)

/-- `SET 7,(IY+d),B` (R784). -/
def exec_set_7__iyd__b (d : Byte) (s : State) : Res := finish (setMemCopy 7 (s.idxAddr .iy d) .b s)

/-- `SET 7,(IY+d),C` (R784). -/
def exec_set_7__iyd__c (d : Byte) (s : State) : Res := finish (setMemCopy 7 (s.idxAddr .iy d) .c s)

/-- `SET 7,(IY+d),D` (R784). -/
def exec_set_7__iyd__d (d : Byte) (s : State) : Res := finish (setMemCopy 7 (s.idxAddr .iy d) .d s)

/-- `SET 7,(IY+d),E` (R784). -/
def exec_set_7__iyd__e (d : Byte) (s : State) : Res := finish (setMemCopy 7 (s.idxAddr .iy d) .e s)

/-- `SET 7,(IY+d),H` (R784). -/
def exec_set_7__iyd__h (d : Byte) (s : State) : Res := finish (setMemCopy 7 (s.idxAddr .iy d) .h s)

/-- `SET 7,(IY+d),L` (R784). -/
def exec_set_7__iyd__l (d : Byte) (s : State) : Res := finish (setMemCopy 7 (s.idxAddr .iy d) .l s)

/-- `SET 7,(IY+d)` (R784). -/
def exec_set_7__iyd (d : Byte) (s : State) : Res := finish (setMem 7 (s.idxAddr .iy d) 23 s)

/-- `SET 7,(IY+d),A` (R784). -/
def exec_set_7__iyd__a (d : Byte) (s : State) : Res := finish (setMemCopy 7 (s.idxAddr .iy d) .a s)

end Sys2Proof.Machine
end

