-- ==== Sys2Proof/Machine/Fields.lean ====
section
/-! DEFINITION. The dispatch loop of R231 as the spec writes it: one byte at a time, each handler
reading the fields x, y, z, p and q of its opcode (R203, R210 to R214) and fetching its own operands
(R239). It is the meaning of the rows that go on with the dispatch (R232 to R236), and the reading
that a step over decoded instructions is compared with. -/

set_option linter.style.nameCheck false

namespace Sys2Proof.Machine

/-! ## Operands fetched by a handler -/

/-- A handler with one operand byte: `FetchByte()` (R204, R207). -/
def withByte (f : Byte → State → State) (s : State) : State := f (s.peek s.pc) s.fetchByte

/-- A handler with an operand word: `FetchWord()` (R205). -/
def withWord (f : Word → State → State) (s : State) : State := f (s.peekWord s.pc) s.fetchWord

/-- A handler with a memory operand: (HL), or (XR+d) under an index byte, where d is fetched first
(R206, R218), with the cycles of either form. -/
def withMem (base idx : Nat) (f : Word → Nat → State → State) (s : State) : State :=
  match s.pfx with
  | .none => f s.hl base s
  | .dd => withByte (fun d t => f (t.idxAddr .ix d) idx t) s
  | .fd => withByte (fun d t => f (t.idxAddr .iy d) idx t) s

/-! ## The base, DD and FD tables (R250, R253, R217 to R222) -/

/-- Opcodes 0x00 to 0x3F. -/
def runX0 (op : Byte) (s : State) : State :=
  let px := s.pfx
  let x := extra px
  match fz op with
  | 0 =>
    match fy op with
    | 0 => nop (4 + x) s
    | 1 => exAf (4 + x) s
    | 2 => withByte (fun e => djnz e x) s
    | 3 => withByte (fun e => jumpRel e (12 + x)) s
    | y => withByte (fun e => jumpRelIf (ccCode (y - 4)) e x) s
  | 1 =>
    if fq op = 0 then withWord (fun nn => ldImm16 (rpCode px (fp op)) nn (10 + x)) s
    else addPair (hlx px) (rpCode px (fp op)) (11 + x) s
  | 2 =>
    match fy op with
    | 0 => storeByte (s.getR16 .bc) s.main.a (7 + x) s
    | 1 => loadByte .a (s.getR16 .bc) (7 + x) s
    | 2 => storeByte (s.getR16 .de) s.main.a (7 + x) s
    | 3 => loadByte .a (s.getR16 .de) (7 + x) s
    | 4 => withWord (fun nn t => storeWord nn (t.getR16 (hlx px)) (16 + x) t) s
    | 5 => withWord (fun nn => loadWord (hlx px) nn (16 + x)) s
    | 6 => withWord (fun nn t => storeByte nn t.main.a (13 + x) t) s
    | _ => withWord (fun nn => loadByte .a nn (13 + x)) s
  | 3 =>
    if fq op = 0 then incPair (rpCode px (fp op)) (6 + x) s
    else decPair (rpCode px (fp op)) (6 + x) s
  | 4 => if fy op = 6 then withMem 11 23 incMem s else incReg (r8CodeX px (fy op)) (4 + x) s
  | 5 => if fy op = 6 then withMem 11 23 decMem s else decReg (r8CodeX px (fy op)) (4 + x) s
  | 6 =>
    if fy op = 6 then withMem 10 19 (fun a cyc => withByte (fun n => storeByte a n cyc)) s
    else withByte (fun n => ldImm8 (r8CodeX px (fy op)) n (7 + x)) s
  | _ =>
    match fy op with
    | 4 => daa (4 + x) s
    | 5 => cpl (4 + x) s
    | 6 => scf (4 + x) s
    | 7 => ccf (4 + x) s
    | y => rotA (rotCode y) (4 + x) s

/-- Opcodes 0x40 to 0x7F: loads, and HALT at 0x76. A register beside a memory operand is the real H
or L (R219). -/
def runX1 (op : Byte) (s : State) : State :=
  let px := s.pfx
  let x := extra px
  if op = 0x76#8 then halt (4 + x) s
  else if fz op = 6 then withMem 7 19 (loadByte (r8Code (fy op))) s
  else if fy op = 6 then
    withMem 7 19 (fun a cyc t => storeByte a (t.getR8 (r8Code (fz op))) cyc t) s
  else ld8 (r8CodeX px (fy op)) (r8CodeX px (fz op)) (4 + x) s

/-- Opcodes 0x80 to 0xBF: the accumulator operations. -/
def runX2 (op : Byte) (s : State) : State :=
  let px := s.pfx
  if fz op = 6 then withMem 7 19 (aluMem (aluCode (fy op))) s
  else alu (aluCode (fy op)) (s.getR8 (r8CodeX px (fz op))) (4 + extra px) s

/-- Opcodes 0xC0 to 0xFF, but for the leading bytes. -/
def runX3 (op : Byte) (s : State) : State :=
  let px := s.pfx
  let x := extra px
  match fz op with
  | 0 => retIf (ccCode (fy op)) x s
  | 1 =>
    if fq op = 0 then pop16 (rp2Code px (fp op)) (10 + x) s
    else
      match fp op with
      | 0 => ret (10 + x) s
      | 1 => exx (4 + x) s
      | 2 => jumpTo (s.getR16 (hlx px)) (4 + x) s
      | _ => ldSp (hlx px) (6 + x) s
  | 2 => withWord (fun nn => jumpIf (ccCode (fy op)) nn (10 + x)) s
  | 3 =>
    match fy op with
    | 0 => withWord (fun nn => jumpTo nn (10 + x)) s
    | 2 => withByte (fun n t => outPort n t.main.a (11 + x) t) s
    | 3 => withByte (fun n => inA n (11 + x)) s
    | 4 => exSp (hlx px) (19 + x) s
    | 5 => exDeHl (4 + x) s
    | 6 => di (4 + x) s
    | _ => ei (4 + x) s
  | 4 => withWord (fun nn => callIf (ccCode (fy op)) nn x) s
  | 5 =>
    if fq op = 0 then push16 (rp2Code px (fp op)) (11 + x) s
    else withWord (fun nn => call nn (17 + x)) s
  | 6 => withByte (fun n => alu (aluCode (fy op)) n (7 + x)) s
  | _ => call (pair 0#8 (op &&& 0x38#8)) (11 + x) s

/-- The handler of a base entry, or of a DD/FD entry where `prefix` is set (R234). -/
def runMain (op : Byte) (s : State) : State :=
  match fx op with
  | 0 => runX0 op s
  | 1 => runX1 op s
  | 2 => runX2 op s
  | _ => runX3 op s

/-! ## The CB table and the indexed bit-operation table (R251, R254, R755) -/

/-- The bit number of BIT, RES and SET (R208). -/
def bitNo (op : Byte) : Fin 8 := ⟨fy op % 8, Nat.mod_lt _ (by decide)⟩

/-- The handler of a CB entry (R232). -/
def runCB (op : Byte) (s : State) : State :=
  let r := r8Code (fz op)
  match fx op with
  | 0 => if fz op = 6 then rotMem (rotCode (fy op)) s.hl 15 s else rotReg (rotCode (fy op)) r s
  | 1 => if fz op = 6 then bitHl (bitNo op) s else bitReg (bitNo op) r s
  | 2 => if fz op = 6 then resMem (bitNo op) s.hl 15 s else resReg (bitNo op) r s
  | _ => if fz op = 6 then setMem (bitNo op) s.hl 15 s else setReg (bitNo op) r s

/-- The handler of a DDCB/FDCB entry, with its displacement (R236). -/
def runXCB (d op : Byte) (s : State) : State :=
  let r := r8Code (fz op)
  let a := s.idxAddr (xrOf s.pfx) d
  match fx op with
  | 0 =>
    if fz op = 6 then rotMem (rotCode (fy op)) a 23 s else rotMemCopy (rotCode (fy op)) a r s
  | 1 => bitMem (bitNo op) a s
  | 2 => if fz op = 6 then resMem (bitNo op) a 23 s else resMemCopy (bitNo op) a r s
  | _ => if fz op = 6 then setMem (bitNo op) a 23 s else setMemCopy (bitNo op) a r s

/-! ## The ED table (R252) -/

/-- ED 0x40 to 0x7F. -/
def runED1 (op : Byte) (s : State) : State :=
  match fz op with
  | 0 => if fy op = 6 then inF s else inReg (r8Code (fy op)) s
  | 1 =>
    if fy op = 6 then outPort s.main.c s.params.outC0Value 12 s
    else outPort s.main.c (s.getR8 (r8Code (fy op))) 12 s
  | 2 => if fq op = 0 then sbcHl (rpCode .none (fp op)) s else adcHl (rpCode .none (fp op)) s
  | 3 =>
    if fq op = 0 then
      withWord (fun nn t => storeWord nn (t.getR16 (rpCode .none (fp op))) 20 t) s
    else withWord (fun nn => loadWord (rpCode .none (fp op)) nn 20) s
  | 4 => neg s
  | 5 => retInt s
  | 6 => setIm (imCode (fy op)) s
  | _ =>
    match fy op with
    | 0 => ldIA s
    | 1 => ldRA s
    | 2 => ldSpecial s.i s
    | 3 => ldSpecial s.r s
    | 4 => rrd s
    | 5 => rld s
    | _ => nop 8 s

/-- ED 0x80 to 0xBF: the block instructions, y = 4 to 7 and z = 0 to 3. -/
def runED2 (op : Byte) (s : State) : State :=
  if fy op < 4 ∨ 3 < fz op then nop 8 s
  else
    let up := decide (fy op = 4 ∨ fy op = 6)
    let again := decide (6 ≤ fy op)
    match fz op with
    | 0 => if again then transferRepeat up s else transferOnce up s
    | 1 => if again then searchRepeat up s else searchOnce up s
    | 2 => if again then blockInRepeat up s else blockInOnce up s
    | _ => if again then blockOutRepeat up s else blockOutOnce up s

/-- The handler of an ED entry, which never substitutes IX or IY (R233). -/
def runED (op : Byte) (s : State) : State :=
  match fx op with
  | 1 => runED1 op s
  | 2 => runED2 op s
  | _ => nop 8 s

/-! ## The loop (R231) -/

/-- How many DD and FD bytes in a row the loop follows: with all 65536 addresses holding one, the
chain is endless (R238). Log entry 10. -/
def chainFuel : Nat := 65536

/-- A DD, FD or ED byte that follows an index byte adds 4 cycles (R235). -/
def State.supersede (s : State) : State :=
  match s.pfx with
  | .none => s
  | .dd => s.tick 4
  | .fd => s.tick 4

/-- The end of the loop: `prefix` is 0x00 again (R231). -/
def leave (s : State) : Res := endInstr (finish s)

/-- The ED branch of the loop, after the ED byte (R233, R235). -/
def afterED (s : State) : Res :=
  let t : State := s.supersede.setPfx .none
  leave (runED (t.peek t.pc) t.fetchOpcode)

/-- The CB branch of the loop, after the CB byte, with no index byte (R232). -/
def afterCB (s : State) : Res := leave (runCB (s.peek s.pc) s.fetchOpcode)

/-- The CB branch of the loop, after the CB byte, with an index byte: d, then the opcode (R236). -/
def afterXCB (s : State) : Res :=
  let t := s.fetchByte
  leave (runXCB (s.peek s.pc) (t.peek t.pc) t.fetchByte)

/-- The loop of R231, from its start: one opcode fetch a round. Where the chain is endless the step
never completes (R238). -/
def dispatchLoop : Nat → State → Res
  | 0, s => if s.portFailed then s.stop else .fault .endlessIndexChain
  | fuel + 1, s =>
    let op := s.peek s.pc
    let t := s.fetchOpcode
    if op = 0xDD#8 then dispatchLoop fuel (t.supersede.setPfx .dd)
    else if op = 0xFD#8 then dispatchLoop fuel (t.supersede.setPfx .fd)
    else if op = 0xED#8 then afterED t
    else if op = 0xCB#8 then
      match t.pfx with
      | .none => afterCB t
      | .dd => afterXCB t
      | .fd => afterXCB t
    else leave (runMain op t)

/-- `ExecuteInstruction()` of R231. -/
def executeInstruction (s : State) : Res := dispatchLoop (chainFuel + 2) (s.setPfx .none)

/-! ## The meanings of the rows that go on with the dispatch

Each is the rest of the loop after the row's own bytes (log entry 14). -/

/-- The index byte of an index register (R23). -/
def idxByte : IdxReg → IndexByte
  | .ix => .dd
  | .iy => .fd

/-- `prefix CB` (R232). -/
def exec_prefix_cb (s : State) : Res := afterCB s

/-- `prefix ED` (R233). -/
def exec_prefix_ed (s : State) : Res := afterED (s.setPfx .none)

/-- `prefix DD` (R234). -/
def exec_prefix_dd (s : State) : Res := dispatchLoop chainFuel (s.setPfx .dd)

/-- `prefix FD` (R234). -/
def exec_prefix_fd (s : State) : Res := dispatchLoop chainFuel (s.setPfx .fd)

/-- `prefix DDCB` (R236). -/
def exec_prefix_ddcb (s : State) : Res := afterXCB (s.setPfx .dd)

/-- `prefix FDCB` (R236). -/
def exec_prefix_fdcb (s : State) : Res := afterXCB (s.setPfx .fd)

/-- DD after an index byte: the last one counts (R235). -/
def exec_prefix_dd__supersedes (x : IdxReg) (s : State) : Res :=
  dispatchLoop chainFuel ((s.setPfx (idxByte x)).supersede.setPfx .dd)

/-- FD after an index byte: the last one counts (R235). -/
def exec_prefix_fd__supersedes (x : IdxReg) (s : State) : Res :=
  dispatchLoop chainFuel ((s.setPfx (idxByte x)).supersede.setPfx .fd)

/-- ED after an index byte: the index byte is dropped (R235). -/
def exec_prefix_ed__index_prefix_dropped (x : IdxReg) (s : State) : Res :=
  afterED (s.setPfx (idxByte x))

end Sys2Proof.Machine
end

