-- ==== Sys2Proof/Machine/Dispatch.lean ====
section
/-! DEFINITION. One arm for each constructor of `Instr`: a direct call of its meaning. -/

namespace Sys2Proof.Machine

/-- The meaning of an instruction whose bytes are fetched: PC stands past them (log entry 13). -/
def exec (i : Instr) (s : State) : Host.Outcome State Fault Refusal :=
  match i with
  | .nop p => Sys2Proof.Machine.exec_nop p s
  | .ld_bc_nn p nn => Sys2Proof.Machine.exec_ld_bc_nn p nn s
  | .ld__bc__a p => Sys2Proof.Machine.exec_ld__bc__a p s
  | .inc_bc p => Sys2Proof.Machine.exec_inc_bc p s
  | .inc_b p => Sys2Proof.Machine.exec_inc_b p s
  | .dec_b p => Sys2Proof.Machine.exec_dec_b p s
  | .ld_b_n p n => Sys2Proof.Machine.exec_ld_b_n p n s
  | .rlca p => Sys2Proof.Machine.exec_rlca p s
  | .ex_af_af p => Sys2Proof.Machine.exec_ex_af_af p s
  | .add_hl_bc => Sys2Proof.Machine.exec_add_hl_bc s
  | .ld_a__bc p => Sys2Proof.Machine.exec_ld_a__bc p s
  | .dec_bc p => Sys2Proof.Machine.exec_dec_bc p s
  | .inc_c p => Sys2Proof.Machine.exec_inc_c p s
  | .dec_c p => Sys2Proof.Machine.exec_dec_c p s
  | .ld_c_n p n => Sys2Proof.Machine.exec_ld_c_n p n s
  | .rrca p => Sys2Proof.Machine.exec_rrca p s
  | .djnz_e p e => Sys2Proof.Machine.exec_djnz_e p e s
  | .ld_de_nn p nn => Sys2Proof.Machine.exec_ld_de_nn p nn s
  | .ld__de__a p => Sys2Proof.Machine.exec_ld__de__a p s
  | .inc_de p => Sys2Proof.Machine.exec_inc_de p s
  | .inc_d p => Sys2Proof.Machine.exec_inc_d p s
  | .dec_d p => Sys2Proof.Machine.exec_dec_d p s
  | .ld_d_n p n => Sys2Proof.Machine.exec_ld_d_n p n s
  | .rla p => Sys2Proof.Machine.exec_rla p s
  | .jr_e p e => Sys2Proof.Machine.exec_jr_e p e s
  | .add_hl_de => Sys2Proof.Machine.exec_add_hl_de s
  | .ld_a__de p => Sys2Proof.Machine.exec_ld_a__de p s
  | .dec_de p => Sys2Proof.Machine.exec_dec_de p s
  | .inc_e p => Sys2Proof.Machine.exec_inc_e p s
  | .dec_e p => Sys2Proof.Machine.exec_dec_e p s
  | .ld_e_n p n => Sys2Proof.Machine.exec_ld_e_n p n s
  | .rra p => Sys2Proof.Machine.exec_rra p s
  | .jr_nz_e p e => Sys2Proof.Machine.exec_jr_nz_e p e s
  | .ld_hl_nn nn => Sys2Proof.Machine.exec_ld_hl_nn nn s
  | .ld__nn__hl nn => Sys2Proof.Machine.exec_ld__nn__hl nn s
  | .inc_hl => Sys2Proof.Machine.exec_inc_hl s
  | .inc_h => Sys2Proof.Machine.exec_inc_h s
  | .dec_h => Sys2Proof.Machine.exec_dec_h s
  | .ld_h_n n => Sys2Proof.Machine.exec_ld_h_n n s
  | .daa p => Sys2Proof.Machine.exec_daa p s
  | .jr_z_e p e => Sys2Proof.Machine.exec_jr_z_e p e s
  | .add_hl_hl => Sys2Proof.Machine.exec_add_hl_hl s
  | .ld_hl__nn nn => Sys2Proof.Machine.exec_ld_hl__nn nn s
  | .dec_hl => Sys2Proof.Machine.exec_dec_hl s
  | .inc_l => Sys2Proof.Machine.exec_inc_l s
  | .dec_l => Sys2Proof.Machine.exec_dec_l s
  | .ld_l_n n => Sys2Proof.Machine.exec_ld_l_n n s
  | .cpl p => Sys2Proof.Machine.exec_cpl p s
  | .jr_nc_e p e => Sys2Proof.Machine.exec_jr_nc_e p e s
  | .ld_sp_nn p nn => Sys2Proof.Machine.exec_ld_sp_nn p nn s
  | .ld__nn__a p nn => Sys2Proof.Machine.exec_ld__nn__a p nn s
  | .inc_sp p => Sys2Proof.Machine.exec_inc_sp p s
  | .inc__hl => Sys2Proof.Machine.exec_inc__hl s
  | .dec__hl => Sys2Proof.Machine.exec_dec__hl s
  | .ld__hl__n n => Sys2Proof.Machine.exec_ld__hl__n n s
  | .scf p => Sys2Proof.Machine.exec_scf p s
  | .jr_c_e p e => Sys2Proof.Machine.exec_jr_c_e p e s
  | .add_hl_sp => Sys2Proof.Machine.exec_add_hl_sp s
  | .ld_a__nn p nn => Sys2Proof.Machine.exec_ld_a__nn p nn s
  | .dec_sp p => Sys2Proof.Machine.exec_dec_sp p s
  | .inc_a p => Sys2Proof.Machine.exec_inc_a p s
  | .dec_a p => Sys2Proof.Machine.exec_dec_a p s
  | .ld_a_n p n => Sys2Proof.Machine.exec_ld_a_n p n s
  | .ccf p => Sys2Proof.Machine.exec_ccf p s
  | .ld_b_b p => Sys2Proof.Machine.exec_ld_b_b p s
  | .ld_b_c p => Sys2Proof.Machine.exec_ld_b_c p s
  | .ld_b_d p => Sys2Proof.Machine.exec_ld_b_d p s
  | .ld_b_e p => Sys2Proof.Machine.exec_ld_b_e p s
  | .ld_b_h => Sys2Proof.Machine.exec_ld_b_h s
  | .ld_b_l => Sys2Proof.Machine.exec_ld_b_l s
  | .ld_b__hl => Sys2Proof.Machine.exec_ld_b__hl s
  | .ld_b_a p => Sys2Proof.Machine.exec_ld_b_a p s
  | .ld_c_b p => Sys2Proof.Machine.exec_ld_c_b p s
  | .ld_c_c p => Sys2Proof.Machine.exec_ld_c_c p s
  | .ld_c_d p => Sys2Proof.Machine.exec_ld_c_d p s
  | .ld_c_e p => Sys2Proof.Machine.exec_ld_c_e p s
  | .ld_c_h => Sys2Proof.Machine.exec_ld_c_h s
  | .ld_c_l => Sys2Proof.Machine.exec_ld_c_l s
  | .ld_c__hl => Sys2Proof.Machine.exec_ld_c__hl s
  | .ld_c_a p => Sys2Proof.Machine.exec_ld_c_a p s
  | .ld_d_b p => Sys2Proof.Machine.exec_ld_d_b p s
  | .ld_d_c p => Sys2Proof.Machine.exec_ld_d_c p s
  | .ld_d_d p => Sys2Proof.Machine.exec_ld_d_d p s
  | .ld_d_e p => Sys2Proof.Machine.exec_ld_d_e p s
  | .ld_d_h => Sys2Proof.Machine.exec_ld_d_h s
  | .ld_d_l => Sys2Proof.Machine.exec_ld_d_l s
  | .ld_d__hl => Sys2Proof.Machine.exec_ld_d__hl s
  | .ld_d_a p => Sys2Proof.Machine.exec_ld_d_a p s
  | .ld_e_b p => Sys2Proof.Machine.exec_ld_e_b p s
  | .ld_e_c p => Sys2Proof.Machine.exec_ld_e_c p s
  | .ld_e_d p => Sys2Proof.Machine.exec_ld_e_d p s
  | .ld_e_e p => Sys2Proof.Machine.exec_ld_e_e p s
  | .ld_e_h => Sys2Proof.Machine.exec_ld_e_h s
  | .ld_e_l => Sys2Proof.Machine.exec_ld_e_l s
  | .ld_e__hl => Sys2Proof.Machine.exec_ld_e__hl s
  | .ld_e_a p => Sys2Proof.Machine.exec_ld_e_a p s
  | .ld_h_b => Sys2Proof.Machine.exec_ld_h_b s
  | .ld_h_c => Sys2Proof.Machine.exec_ld_h_c s
  | .ld_h_d => Sys2Proof.Machine.exec_ld_h_d s
  | .ld_h_e => Sys2Proof.Machine.exec_ld_h_e s
  | .ld_h_h => Sys2Proof.Machine.exec_ld_h_h s
  | .ld_h_l => Sys2Proof.Machine.exec_ld_h_l s
  | .ld_h__hl => Sys2Proof.Machine.exec_ld_h__hl s
  | .ld_h_a => Sys2Proof.Machine.exec_ld_h_a s
  | .ld_l_b => Sys2Proof.Machine.exec_ld_l_b s
  | .ld_l_c => Sys2Proof.Machine.exec_ld_l_c s
  | .ld_l_d => Sys2Proof.Machine.exec_ld_l_d s
  | .ld_l_e => Sys2Proof.Machine.exec_ld_l_e s
  | .ld_l_h => Sys2Proof.Machine.exec_ld_l_h s
  | .ld_l_l => Sys2Proof.Machine.exec_ld_l_l s
  | .ld_l__hl => Sys2Proof.Machine.exec_ld_l__hl s
  | .ld_l_a => Sys2Proof.Machine.exec_ld_l_a s
  | .ld__hl__b => Sys2Proof.Machine.exec_ld__hl__b s
  | .ld__hl__c => Sys2Proof.Machine.exec_ld__hl__c s
  | .ld__hl__d => Sys2Proof.Machine.exec_ld__hl__d s
  | .ld__hl__e => Sys2Proof.Machine.exec_ld__hl__e s
  | .ld__hl__h => Sys2Proof.Machine.exec_ld__hl__h s
  | .ld__hl__l => Sys2Proof.Machine.exec_ld__hl__l s
  | .halt p => Sys2Proof.Machine.exec_halt p s
  | .ld__hl__a => Sys2Proof.Machine.exec_ld__hl__a s
  | .ld_a_b p => Sys2Proof.Machine.exec_ld_a_b p s
  | .ld_a_c p => Sys2Proof.Machine.exec_ld_a_c p s
  | .ld_a_d p => Sys2Proof.Machine.exec_ld_a_d p s
  | .ld_a_e p => Sys2Proof.Machine.exec_ld_a_e p s
  | .ld_a_h => Sys2Proof.Machine.exec_ld_a_h s
  | .ld_a_l => Sys2Proof.Machine.exec_ld_a_l s
  | .ld_a__hl => Sys2Proof.Machine.exec_ld_a__hl s
  | .ld_a_a p => Sys2Proof.Machine.exec_ld_a_a p s
  | .add_a_b p => Sys2Proof.Machine.exec_add_a_b p s
  | .add_a_c p => Sys2Proof.Machine.exec_add_a_c p s
  | .add_a_d p => Sys2Proof.Machine.exec_add_a_d p s
  | .add_a_e p => Sys2Proof.Machine.exec_add_a_e p s
  | .add_a_h => Sys2Proof.Machine.exec_add_a_h s
  | .add_a_l => Sys2Proof.Machine.exec_add_a_l s
  | .add_a__hl => Sys2Proof.Machine.exec_add_a__hl s
  | .add_a_a p => Sys2Proof.Machine.exec_add_a_a p s
  | .adc_a_b p => Sys2Proof.Machine.exec_adc_a_b p s
  | .adc_a_c p => Sys2Proof.Machine.exec_adc_a_c p s
  | .adc_a_d p => Sys2Proof.Machine.exec_adc_a_d p s
  | .adc_a_e p => Sys2Proof.Machine.exec_adc_a_e p s
  | .adc_a_h => Sys2Proof.Machine.exec_adc_a_h s
  | .adc_a_l => Sys2Proof.Machine.exec_adc_a_l s
  | .adc_a__hl => Sys2Proof.Machine.exec_adc_a__hl s
  | .adc_a_a p => Sys2Proof.Machine.exec_adc_a_a p s
  | .sub_b p => Sys2Proof.Machine.exec_sub_b p s
  | .sub_c p => Sys2Proof.Machine.exec_sub_c p s
  | .sub_d p => Sys2Proof.Machine.exec_sub_d p s
  | .sub_e p => Sys2Proof.Machine.exec_sub_e p s
  | .sub_h => Sys2Proof.Machine.exec_sub_h s
  | .sub_l => Sys2Proof.Machine.exec_sub_l s
  | .sub__hl => Sys2Proof.Machine.exec_sub__hl s
  | .sub_a p => Sys2Proof.Machine.exec_sub_a p s
  | .sbc_a_b p => Sys2Proof.Machine.exec_sbc_a_b p s
  | .sbc_a_c p => Sys2Proof.Machine.exec_sbc_a_c p s
  | .sbc_a_d p => Sys2Proof.Machine.exec_sbc_a_d p s
  | .sbc_a_e p => Sys2Proof.Machine.exec_sbc_a_e p s
  | .sbc_a_h => Sys2Proof.Machine.exec_sbc_a_h s
  | .sbc_a_l => Sys2Proof.Machine.exec_sbc_a_l s
  | .sbc_a__hl => Sys2Proof.Machine.exec_sbc_a__hl s
  | .sbc_a_a p => Sys2Proof.Machine.exec_sbc_a_a p s
  | .and_b p => Sys2Proof.Machine.exec_and_b p s
  | .and_c p => Sys2Proof.Machine.exec_and_c p s
  | .and_d p => Sys2Proof.Machine.exec_and_d p s
  | .and_e p => Sys2Proof.Machine.exec_and_e p s
  | .and_h => Sys2Proof.Machine.exec_and_h s
  | .and_l => Sys2Proof.Machine.exec_and_l s
  | .and__hl => Sys2Proof.Machine.exec_and__hl s
  | .and_a p => Sys2Proof.Machine.exec_and_a p s
  | .xor_b p => Sys2Proof.Machine.exec_xor_b p s
  | .xor_c p => Sys2Proof.Machine.exec_xor_c p s
  | .xor_d p => Sys2Proof.Machine.exec_xor_d p s
  | .xor_e p => Sys2Proof.Machine.exec_xor_e p s
  | .xor_h => Sys2Proof.Machine.exec_xor_h s
  | .xor_l => Sys2Proof.Machine.exec_xor_l s
  | .xor__hl => Sys2Proof.Machine.exec_xor__hl s
  | .xor_a p => Sys2Proof.Machine.exec_xor_a p s
  | .or_b p => Sys2Proof.Machine.exec_or_b p s
  | .or_c p => Sys2Proof.Machine.exec_or_c p s
  | .or_d p => Sys2Proof.Machine.exec_or_d p s
  | .or_e p => Sys2Proof.Machine.exec_or_e p s
  | .or_h => Sys2Proof.Machine.exec_or_h s
  | .or_l => Sys2Proof.Machine.exec_or_l s
  | .or__hl => Sys2Proof.Machine.exec_or__hl s
  | .or_a p => Sys2Proof.Machine.exec_or_a p s
  | .cp_b p => Sys2Proof.Machine.exec_cp_b p s
  | .cp_c p => Sys2Proof.Machine.exec_cp_c p s
  | .cp_d p => Sys2Proof.Machine.exec_cp_d p s
  | .cp_e p => Sys2Proof.Machine.exec_cp_e p s
  | .cp_h => Sys2Proof.Machine.exec_cp_h s
  | .cp_l => Sys2Proof.Machine.exec_cp_l s
  | .cp__hl => Sys2Proof.Machine.exec_cp__hl s
  | .cp_a p => Sys2Proof.Machine.exec_cp_a p s
  | .ret_nz p => Sys2Proof.Machine.exec_ret_nz p s
  | .pop_bc p => Sys2Proof.Machine.exec_pop_bc p s
  | .jp_nz_nn p nn => Sys2Proof.Machine.exec_jp_nz_nn p nn s
  | .jp_nn p nn => Sys2Proof.Machine.exec_jp_nn p nn s
  | .call_nz_nn p nn => Sys2Proof.Machine.exec_call_nz_nn p nn s
  | .push_bc p => Sys2Proof.Machine.exec_push_bc p s
  | .add_a_n p n => Sys2Proof.Machine.exec_add_a_n p n s
  | .rst_00h p => Sys2Proof.Machine.exec_rst_00h p s
  | .ret_z p => Sys2Proof.Machine.exec_ret_z p s
  | .ret p => Sys2Proof.Machine.exec_ret p s
  | .jp_z_nn p nn => Sys2Proof.Machine.exec_jp_z_nn p nn s
  | .prefix_cb => Sys2Proof.Machine.exec_prefix_cb s
  | .call_z_nn p nn => Sys2Proof.Machine.exec_call_z_nn p nn s
  | .call_nn p nn => Sys2Proof.Machine.exec_call_nn p nn s
  | .adc_a_n p n => Sys2Proof.Machine.exec_adc_a_n p n s
  | .rst_08h p => Sys2Proof.Machine.exec_rst_08h p s
  | .ret_nc p => Sys2Proof.Machine.exec_ret_nc p s
  | .pop_de p => Sys2Proof.Machine.exec_pop_de p s
  | .jp_nc_nn p nn => Sys2Proof.Machine.exec_jp_nc_nn p nn s
  | .out__n__a p n => Sys2Proof.Machine.exec_out__n__a p n s
  | .call_nc_nn p nn => Sys2Proof.Machine.exec_call_nc_nn p nn s
  | .push_de p => Sys2Proof.Machine.exec_push_de p s
  | .sub_n p n => Sys2Proof.Machine.exec_sub_n p n s
  | .rst_10h p => Sys2Proof.Machine.exec_rst_10h p s
  | .ret_c p => Sys2Proof.Machine.exec_ret_c p s
  | .exx p => Sys2Proof.Machine.exec_exx p s
  | .jp_c_nn p nn => Sys2Proof.Machine.exec_jp_c_nn p nn s
  | .in_a__n p n => Sys2Proof.Machine.exec_in_a__n p n s
  | .call_c_nn p nn => Sys2Proof.Machine.exec_call_c_nn p nn s
  | .prefix_dd => Sys2Proof.Machine.exec_prefix_dd s
  | .sbc_a_n p n => Sys2Proof.Machine.exec_sbc_a_n p n s
  | .rst_18h p => Sys2Proof.Machine.exec_rst_18h p s
  | .ret_po p => Sys2Proof.Machine.exec_ret_po p s
  | .pop_hl => Sys2Proof.Machine.exec_pop_hl s
  | .jp_po_nn p nn => Sys2Proof.Machine.exec_jp_po_nn p nn s
  | .ex__sp__hl => Sys2Proof.Machine.exec_ex__sp__hl s
  | .call_po_nn p nn => Sys2Proof.Machine.exec_call_po_nn p nn s
  | .push_hl => Sys2Proof.Machine.exec_push_hl s
  | .and_n p n => Sys2Proof.Machine.exec_and_n p n s
  | .rst_20h p => Sys2Proof.Machine.exec_rst_20h p s
  | .ret_pe p => Sys2Proof.Machine.exec_ret_pe p s
  | .jp__hl => Sys2Proof.Machine.exec_jp__hl s
  | .jp_pe_nn p nn => Sys2Proof.Machine.exec_jp_pe_nn p nn s
  | .ex_de_hl p => Sys2Proof.Machine.exec_ex_de_hl p s
  | .call_pe_nn p nn => Sys2Proof.Machine.exec_call_pe_nn p nn s
  | .prefix_ed => Sys2Proof.Machine.exec_prefix_ed s
  | .xor_n p n => Sys2Proof.Machine.exec_xor_n p n s
  | .rst_28h p => Sys2Proof.Machine.exec_rst_28h p s
  | .ret_p p => Sys2Proof.Machine.exec_ret_p p s
  | .pop_af p => Sys2Proof.Machine.exec_pop_af p s
  | .jp_p_nn p nn => Sys2Proof.Machine.exec_jp_p_nn p nn s
  | .di p => Sys2Proof.Machine.exec_di p s
  | .call_p_nn p nn => Sys2Proof.Machine.exec_call_p_nn p nn s
  | .push_af p => Sys2Proof.Machine.exec_push_af p s
  | .or_n p n => Sys2Proof.Machine.exec_or_n p n s
  | .rst_30h p => Sys2Proof.Machine.exec_rst_30h p s
  | .ret_m p => Sys2Proof.Machine.exec_ret_m p s
  | .ld_sp_hl => Sys2Proof.Machine.exec_ld_sp_hl s
  | .jp_m_nn p nn => Sys2Proof.Machine.exec_jp_m_nn p nn s
  | .ei p => Sys2Proof.Machine.exec_ei p s
  | .call_m_nn p nn => Sys2Proof.Machine.exec_call_m_nn p nn s
  | .prefix_fd => Sys2Proof.Machine.exec_prefix_fd s
  | .cp_n p n => Sys2Proof.Machine.exec_cp_n p n s
  | .rst_38h p => Sys2Proof.Machine.exec_rst_38h p s
  | .rlc_b => Sys2Proof.Machine.exec_rlc_b s
  | .rlc_c => Sys2Proof.Machine.exec_rlc_c s
  | .rlc_d => Sys2Proof.Machine.exec_rlc_d s
  | .rlc_e => Sys2Proof.Machine.exec_rlc_e s
  | .rlc_h => Sys2Proof.Machine.exec_rlc_h s
  | .rlc_l => Sys2Proof.Machine.exec_rlc_l s
  | .rlc__hl => Sys2Proof.Machine.exec_rlc__hl s
  | .rlc_a => Sys2Proof.Machine.exec_rlc_a s
  | .rrc_b => Sys2Proof.Machine.exec_rrc_b s
  | .rrc_c => Sys2Proof.Machine.exec_rrc_c s
  | .rrc_d => Sys2Proof.Machine.exec_rrc_d s
  | .rrc_e => Sys2Proof.Machine.exec_rrc_e s
  | .rrc_h => Sys2Proof.Machine.exec_rrc_h s
  | .rrc_l => Sys2Proof.Machine.exec_rrc_l s
  | .rrc__hl => Sys2Proof.Machine.exec_rrc__hl s
  | .rrc_a => Sys2Proof.Machine.exec_rrc_a s
  | .rl_b => Sys2Proof.Machine.exec_rl_b s
  | .rl_c => Sys2Proof.Machine.exec_rl_c s
  | .rl_d => Sys2Proof.Machine.exec_rl_d s
  | .rl_e => Sys2Proof.Machine.exec_rl_e s
  | .rl_h => Sys2Proof.Machine.exec_rl_h s
  | .rl_l => Sys2Proof.Machine.exec_rl_l s
  | .rl__hl => Sys2Proof.Machine.exec_rl__hl s
  | .rl_a => Sys2Proof.Machine.exec_rl_a s
  | .rr_b => Sys2Proof.Machine.exec_rr_b s
  | .rr_c => Sys2Proof.Machine.exec_rr_c s
  | .rr_d => Sys2Proof.Machine.exec_rr_d s
  | .rr_e => Sys2Proof.Machine.exec_rr_e s
  | .rr_h => Sys2Proof.Machine.exec_rr_h s
  | .rr_l => Sys2Proof.Machine.exec_rr_l s
  | .rr__hl => Sys2Proof.Machine.exec_rr__hl s
  | .rr_a => Sys2Proof.Machine.exec_rr_a s
  | .sla_b => Sys2Proof.Machine.exec_sla_b s
  | .sla_c => Sys2Proof.Machine.exec_sla_c s
  | .sla_d => Sys2Proof.Machine.exec_sla_d s
  | .sla_e => Sys2Proof.Machine.exec_sla_e s
  | .sla_h => Sys2Proof.Machine.exec_sla_h s
  | .sla_l => Sys2Proof.Machine.exec_sla_l s
  | .sla__hl => Sys2Proof.Machine.exec_sla__hl s
  | .sla_a => Sys2Proof.Machine.exec_sla_a s
  | .sra_b => Sys2Proof.Machine.exec_sra_b s
  | .sra_c => Sys2Proof.Machine.exec_sra_c s
  | .sra_d => Sys2Proof.Machine.exec_sra_d s
  | .sra_e => Sys2Proof.Machine.exec_sra_e s
  | .sra_h => Sys2Proof.Machine.exec_sra_h s
  | .sra_l => Sys2Proof.Machine.exec_sra_l s
  | .sra__hl => Sys2Proof.Machine.exec_sra__hl s
  | .sra_a => Sys2Proof.Machine.exec_sra_a s
  | .sll_b => Sys2Proof.Machine.exec_sll_b s
  | .sll_c => Sys2Proof.Machine.exec_sll_c s
  | .sll_d => Sys2Proof.Machine.exec_sll_d s
  | .sll_e => Sys2Proof.Machine.exec_sll_e s
  | .sll_h => Sys2Proof.Machine.exec_sll_h s
  | .sll_l => Sys2Proof.Machine.exec_sll_l s
  | .sll__hl => Sys2Proof.Machine.exec_sll__hl s
  | .sll_a => Sys2Proof.Machine.exec_sll_a s
  | .srl_b => Sys2Proof.Machine.exec_srl_b s
  | .srl_c => Sys2Proof.Machine.exec_srl_c s
  | .srl_d => Sys2Proof.Machine.exec_srl_d s
  | .srl_e => Sys2Proof.Machine.exec_srl_e s
  | .srl_h => Sys2Proof.Machine.exec_srl_h s
  | .srl_l => Sys2Proof.Machine.exec_srl_l s
  | .srl__hl => Sys2Proof.Machine.exec_srl__hl s
  | .srl_a => Sys2Proof.Machine.exec_srl_a s
  | .bit_0_b => Sys2Proof.Machine.exec_bit_0_b s
  | .bit_0_c => Sys2Proof.Machine.exec_bit_0_c s
  | .bit_0_d => Sys2Proof.Machine.exec_bit_0_d s
  | .bit_0_e => Sys2Proof.Machine.exec_bit_0_e s
  | .bit_0_h => Sys2Proof.Machine.exec_bit_0_h s
  | .bit_0_l => Sys2Proof.Machine.exec_bit_0_l s
  | .bit_0__hl => Sys2Proof.Machine.exec_bit_0__hl s
  | .bit_0_a => Sys2Proof.Machine.exec_bit_0_a s
  | .bit_1_b => Sys2Proof.Machine.exec_bit_1_b s
  | .bit_1_c => Sys2Proof.Machine.exec_bit_1_c s
  | .bit_1_d => Sys2Proof.Machine.exec_bit_1_d s
  | .bit_1_e => Sys2Proof.Machine.exec_bit_1_e s
  | .bit_1_h => Sys2Proof.Machine.exec_bit_1_h s
  | .bit_1_l => Sys2Proof.Machine.exec_bit_1_l s
  | .bit_1__hl => Sys2Proof.Machine.exec_bit_1__hl s
  | .bit_1_a => Sys2Proof.Machine.exec_bit_1_a s
  | .bit_2_b => Sys2Proof.Machine.exec_bit_2_b s
  | .bit_2_c => Sys2Proof.Machine.exec_bit_2_c s
  | .bit_2_d => Sys2Proof.Machine.exec_bit_2_d s
  | .bit_2_e => Sys2Proof.Machine.exec_bit_2_e s
  | .bit_2_h => Sys2Proof.Machine.exec_bit_2_h s
  | .bit_2_l => Sys2Proof.Machine.exec_bit_2_l s
  | .bit_2__hl => Sys2Proof.Machine.exec_bit_2__hl s
  | .bit_2_a => Sys2Proof.Machine.exec_bit_2_a s
  | .bit_3_b => Sys2Proof.Machine.exec_bit_3_b s
  | .bit_3_c => Sys2Proof.Machine.exec_bit_3_c s
  | .bit_3_d => Sys2Proof.Machine.exec_bit_3_d s
  | .bit_3_e => Sys2Proof.Machine.exec_bit_3_e s
  | .bit_3_h => Sys2Proof.Machine.exec_bit_3_h s
  | .bit_3_l => Sys2Proof.Machine.exec_bit_3_l s
  | .bit_3__hl => Sys2Proof.Machine.exec_bit_3__hl s
  | .bit_3_a => Sys2Proof.Machine.exec_bit_3_a s
  | .bit_4_b => Sys2Proof.Machine.exec_bit_4_b s
  | .bit_4_c => Sys2Proof.Machine.exec_bit_4_c s
  | .bit_4_d => Sys2Proof.Machine.exec_bit_4_d s
  | .bit_4_e => Sys2Proof.Machine.exec_bit_4_e s
  | .bit_4_h => Sys2Proof.Machine.exec_bit_4_h s
  | .bit_4_l => Sys2Proof.Machine.exec_bit_4_l s
  | .bit_4__hl => Sys2Proof.Machine.exec_bit_4__hl s
  | .bit_4_a => Sys2Proof.Machine.exec_bit_4_a s
  | .bit_5_b => Sys2Proof.Machine.exec_bit_5_b s
  | .bit_5_c => Sys2Proof.Machine.exec_bit_5_c s
  | .bit_5_d => Sys2Proof.Machine.exec_bit_5_d s
  | .bit_5_e => Sys2Proof.Machine.exec_bit_5_e s
  | .bit_5_h => Sys2Proof.Machine.exec_bit_5_h s
  | .bit_5_l => Sys2Proof.Machine.exec_bit_5_l s
  | .bit_5__hl => Sys2Proof.Machine.exec_bit_5__hl s
  | .bit_5_a => Sys2Proof.Machine.exec_bit_5_a s
  | .bit_6_b => Sys2Proof.Machine.exec_bit_6_b s
  | .bit_6_c => Sys2Proof.Machine.exec_bit_6_c s
  | .bit_6_d => Sys2Proof.Machine.exec_bit_6_d s
  | .bit_6_e => Sys2Proof.Machine.exec_bit_6_e s
  | .bit_6_h => Sys2Proof.Machine.exec_bit_6_h s
  | .bit_6_l => Sys2Proof.Machine.exec_bit_6_l s
  | .bit_6__hl => Sys2Proof.Machine.exec_bit_6__hl s
  | .bit_6_a => Sys2Proof.Machine.exec_bit_6_a s
  | .bit_7_b => Sys2Proof.Machine.exec_bit_7_b s
  | .bit_7_c => Sys2Proof.Machine.exec_bit_7_c s
  | .bit_7_d => Sys2Proof.Machine.exec_bit_7_d s
  | .bit_7_e => Sys2Proof.Machine.exec_bit_7_e s
  | .bit_7_h => Sys2Proof.Machine.exec_bit_7_h s
  | .bit_7_l => Sys2Proof.Machine.exec_bit_7_l s
  | .bit_7__hl => Sys2Proof.Machine.exec_bit_7__hl s
  | .bit_7_a => Sys2Proof.Machine.exec_bit_7_a s
  | .res_0_b => Sys2Proof.Machine.exec_res_0_b s
  | .res_0_c => Sys2Proof.Machine.exec_res_0_c s
  | .res_0_d => Sys2Proof.Machine.exec_res_0_d s
  | .res_0_e => Sys2Proof.Machine.exec_res_0_e s
  | .res_0_h => Sys2Proof.Machine.exec_res_0_h s
  | .res_0_l => Sys2Proof.Machine.exec_res_0_l s
  | .res_0__hl => Sys2Proof.Machine.exec_res_0__hl s
  | .res_0_a => Sys2Proof.Machine.exec_res_0_a s
  | .res_1_b => Sys2Proof.Machine.exec_res_1_b s
  | .res_1_c => Sys2Proof.Machine.exec_res_1_c s
  | .res_1_d => Sys2Proof.Machine.exec_res_1_d s
  | .res_1_e => Sys2Proof.Machine.exec_res_1_e s
  | .res_1_h => Sys2Proof.Machine.exec_res_1_h s
  | .res_1_l => Sys2Proof.Machine.exec_res_1_l s
  | .res_1__hl => Sys2Proof.Machine.exec_res_1__hl s
  | .res_1_a => Sys2Proof.Machine.exec_res_1_a s
  | .res_2_b => Sys2Proof.Machine.exec_res_2_b s
  | .res_2_c => Sys2Proof.Machine.exec_res_2_c s
  | .res_2_d => Sys2Proof.Machine.exec_res_2_d s
  | .res_2_e => Sys2Proof.Machine.exec_res_2_e s
  | .res_2_h => Sys2Proof.Machine.exec_res_2_h s
  | .res_2_l => Sys2Proof.Machine.exec_res_2_l s
  | .res_2__hl => Sys2Proof.Machine.exec_res_2__hl s
  | .res_2_a => Sys2Proof.Machine.exec_res_2_a s
  | .res_3_b => Sys2Proof.Machine.exec_res_3_b s
  | .res_3_c => Sys2Proof.Machine.exec_res_3_c s
  | .res_3_d => Sys2Proof.Machine.exec_res_3_d s
  | .res_3_e => Sys2Proof.Machine.exec_res_3_e s
  | .res_3_h => Sys2Proof.Machine.exec_res_3_h s
  | .res_3_l => Sys2Proof.Machine.exec_res_3_l s
  | .res_3__hl => Sys2Proof.Machine.exec_res_3__hl s
  | .res_3_a => Sys2Proof.Machine.exec_res_3_a s
  | .res_4_b => Sys2Proof.Machine.exec_res_4_b s
  | .res_4_c => Sys2Proof.Machine.exec_res_4_c s
  | .res_4_d => Sys2Proof.Machine.exec_res_4_d s
  | .res_4_e => Sys2Proof.Machine.exec_res_4_e s
  | .res_4_h => Sys2Proof.Machine.exec_res_4_h s
  | .res_4_l => Sys2Proof.Machine.exec_res_4_l s
  | .res_4__hl => Sys2Proof.Machine.exec_res_4__hl s
  | .res_4_a => Sys2Proof.Machine.exec_res_4_a s
  | .res_5_b => Sys2Proof.Machine.exec_res_5_b s
  | .res_5_c => Sys2Proof.Machine.exec_res_5_c s
  | .res_5_d => Sys2Proof.Machine.exec_res_5_d s
  | .res_5_e => Sys2Proof.Machine.exec_res_5_e s
  | .res_5_h => Sys2Proof.Machine.exec_res_5_h s
  | .res_5_l => Sys2Proof.Machine.exec_res_5_l s
  | .res_5__hl => Sys2Proof.Machine.exec_res_5__hl s
  | .res_5_a => Sys2Proof.Machine.exec_res_5_a s
  | .res_6_b => Sys2Proof.Machine.exec_res_6_b s
  | .res_6_c => Sys2Proof.Machine.exec_res_6_c s
  | .res_6_d => Sys2Proof.Machine.exec_res_6_d s
  | .res_6_e => Sys2Proof.Machine.exec_res_6_e s
  | .res_6_h => Sys2Proof.Machine.exec_res_6_h s
  | .res_6_l => Sys2Proof.Machine.exec_res_6_l s
  | .res_6__hl => Sys2Proof.Machine.exec_res_6__hl s
  | .res_6_a => Sys2Proof.Machine.exec_res_6_a s
  | .res_7_b => Sys2Proof.Machine.exec_res_7_b s
  | .res_7_c => Sys2Proof.Machine.exec_res_7_c s
  | .res_7_d => Sys2Proof.Machine.exec_res_7_d s
  | .res_7_e => Sys2Proof.Machine.exec_res_7_e s
  | .res_7_h => Sys2Proof.Machine.exec_res_7_h s
  | .res_7_l => Sys2Proof.Machine.exec_res_7_l s
  | .res_7__hl => Sys2Proof.Machine.exec_res_7__hl s
  | .res_7_a => Sys2Proof.Machine.exec_res_7_a s
  | .set_0_b => Sys2Proof.Machine.exec_set_0_b s
  | .set_0_c => Sys2Proof.Machine.exec_set_0_c s
  | .set_0_d => Sys2Proof.Machine.exec_set_0_d s
  | .set_0_e => Sys2Proof.Machine.exec_set_0_e s
  | .set_0_h => Sys2Proof.Machine.exec_set_0_h s
  | .set_0_l => Sys2Proof.Machine.exec_set_0_l s
  | .set_0__hl => Sys2Proof.Machine.exec_set_0__hl s
  | .set_0_a => Sys2Proof.Machine.exec_set_0_a s
  | .set_1_b => Sys2Proof.Machine.exec_set_1_b s
  | .set_1_c => Sys2Proof.Machine.exec_set_1_c s
  | .set_1_d => Sys2Proof.Machine.exec_set_1_d s
  | .set_1_e => Sys2Proof.Machine.exec_set_1_e s
  | .set_1_h => Sys2Proof.Machine.exec_set_1_h s
  | .set_1_l => Sys2Proof.Machine.exec_set_1_l s
  | .set_1__hl => Sys2Proof.Machine.exec_set_1__hl s
  | .set_1_a => Sys2Proof.Machine.exec_set_1_a s
  | .set_2_b => Sys2Proof.Machine.exec_set_2_b s
  | .set_2_c => Sys2Proof.Machine.exec_set_2_c s
  | .set_2_d => Sys2Proof.Machine.exec_set_2_d s
  | .set_2_e => Sys2Proof.Machine.exec_set_2_e s
  | .set_2_h => Sys2Proof.Machine.exec_set_2_h s
  | .set_2_l => Sys2Proof.Machine.exec_set_2_l s
  | .set_2__hl => Sys2Proof.Machine.exec_set_2__hl s
  | .set_2_a => Sys2Proof.Machine.exec_set_2_a s
  | .set_3_b => Sys2Proof.Machine.exec_set_3_b s
  | .set_3_c => Sys2Proof.Machine.exec_set_3_c s
  | .set_3_d => Sys2Proof.Machine.exec_set_3_d s
  | .set_3_e => Sys2Proof.Machine.exec_set_3_e s
  | .set_3_h => Sys2Proof.Machine.exec_set_3_h s
  | .set_3_l => Sys2Proof.Machine.exec_set_3_l s
  | .set_3__hl => Sys2Proof.Machine.exec_set_3__hl s
  | .set_3_a => Sys2Proof.Machine.exec_set_3_a s
  | .set_4_b => Sys2Proof.Machine.exec_set_4_b s
  | .set_4_c => Sys2Proof.Machine.exec_set_4_c s
  | .set_4_d => Sys2Proof.Machine.exec_set_4_d s
  | .set_4_e => Sys2Proof.Machine.exec_set_4_e s
  | .set_4_h => Sys2Proof.Machine.exec_set_4_h s
  | .set_4_l => Sys2Proof.Machine.exec_set_4_l s
  | .set_4__hl => Sys2Proof.Machine.exec_set_4__hl s
  | .set_4_a => Sys2Proof.Machine.exec_set_4_a s
  | .set_5_b => Sys2Proof.Machine.exec_set_5_b s
  | .set_5_c => Sys2Proof.Machine.exec_set_5_c s
  | .set_5_d => Sys2Proof.Machine.exec_set_5_d s
  | .set_5_e => Sys2Proof.Machine.exec_set_5_e s
  | .set_5_h => Sys2Proof.Machine.exec_set_5_h s
  | .set_5_l => Sys2Proof.Machine.exec_set_5_l s
  | .set_5__hl => Sys2Proof.Machine.exec_set_5__hl s
  | .set_5_a => Sys2Proof.Machine.exec_set_5_a s
  | .set_6_b => Sys2Proof.Machine.exec_set_6_b s
  | .set_6_c => Sys2Proof.Machine.exec_set_6_c s
  | .set_6_d => Sys2Proof.Machine.exec_set_6_d s
  | .set_6_e => Sys2Proof.Machine.exec_set_6_e s
  | .set_6_h => Sys2Proof.Machine.exec_set_6_h s
  | .set_6_l => Sys2Proof.Machine.exec_set_6_l s
  | .set_6__hl => Sys2Proof.Machine.exec_set_6__hl s
  | .set_6_a => Sys2Proof.Machine.exec_set_6_a s
  | .set_7_b => Sys2Proof.Machine.exec_set_7_b s
  | .set_7_c => Sys2Proof.Machine.exec_set_7_c s
  | .set_7_d => Sys2Proof.Machine.exec_set_7_d s
  | .set_7_e => Sys2Proof.Machine.exec_set_7_e s
  | .set_7_h => Sys2Proof.Machine.exec_set_7_h s
  | .set_7_l => Sys2Proof.Machine.exec_set_7_l s
  | .set_7__hl => Sys2Proof.Machine.exec_set_7__hl s
  | .set_7_a => Sys2Proof.Machine.exec_set_7_a s
  | .nop__ed op => Sys2Proof.Machine.exec_nop__ed op s
  | .in_b__c => Sys2Proof.Machine.exec_in_b__c s
  | .out__c__b => Sys2Proof.Machine.exec_out__c__b s
  | .sbc_hl_bc => Sys2Proof.Machine.exec_sbc_hl_bc s
  | .ld__nn__bc nn => Sys2Proof.Machine.exec_ld__nn__bc nn s
  | .neg op => Sys2Proof.Machine.exec_neg op s
  | .retn op => Sys2Proof.Machine.exec_retn op s
  | .im_0 op => Sys2Proof.Machine.exec_im_0 op s
  | .ld_i_a => Sys2Proof.Machine.exec_ld_i_a s
  | .in_c__c => Sys2Proof.Machine.exec_in_c__c s
  | .out__c__c => Sys2Proof.Machine.exec_out__c__c s
  | .adc_hl_bc => Sys2Proof.Machine.exec_adc_hl_bc s
  | .ld_bc__nn nn => Sys2Proof.Machine.exec_ld_bc__nn nn s
  | .reti => Sys2Proof.Machine.exec_reti s
  | .ld_r_a => Sys2Proof.Machine.exec_ld_r_a s
  | .in_d__c => Sys2Proof.Machine.exec_in_d__c s
  | .out__c__d => Sys2Proof.Machine.exec_out__c__d s
  | .sbc_hl_de => Sys2Proof.Machine.exec_sbc_hl_de s
  | .ld__nn__de nn => Sys2Proof.Machine.exec_ld__nn__de nn s
  | .im_1 op => Sys2Proof.Machine.exec_im_1 op s
  | .ld_a_i => Sys2Proof.Machine.exec_ld_a_i s
  | .in_e__c => Sys2Proof.Machine.exec_in_e__c s
  | .out__c__e => Sys2Proof.Machine.exec_out__c__e s
  | .adc_hl_de => Sys2Proof.Machine.exec_adc_hl_de s
  | .ld_de__nn nn => Sys2Proof.Machine.exec_ld_de__nn nn s
  | .im_2 op => Sys2Proof.Machine.exec_im_2 op s
  | .ld_a_r => Sys2Proof.Machine.exec_ld_a_r s
  | .in_h__c => Sys2Proof.Machine.exec_in_h__c s
  | .out__c__h => Sys2Proof.Machine.exec_out__c__h s
  | .sbc_hl_hl => Sys2Proof.Machine.exec_sbc_hl_hl s
  | .ld__nn__hl_ed nn => Sys2Proof.Machine.exec_ld__nn__hl_ed nn s
  | .rrd => Sys2Proof.Machine.exec_rrd s
  | .in_l__c => Sys2Proof.Machine.exec_in_l__c s
  | .out__c__l => Sys2Proof.Machine.exec_out__c__l s
  | .adc_hl_hl => Sys2Proof.Machine.exec_adc_hl_hl s
  | .ld_hl__nn_ed nn => Sys2Proof.Machine.exec_ld_hl__nn_ed nn s
  | .rld => Sys2Proof.Machine.exec_rld s
  | .in_f__c => Sys2Proof.Machine.exec_in_f__c s
  | .out__c__0 => Sys2Proof.Machine.exec_out__c__0 s
  | .sbc_hl_sp => Sys2Proof.Machine.exec_sbc_hl_sp s
  | .ld__nn__sp nn => Sys2Proof.Machine.exec_ld__nn__sp nn s
  | .in_a__c => Sys2Proof.Machine.exec_in_a__c s
  | .out__c__a => Sys2Proof.Machine.exec_out__c__a s
  | .adc_hl_sp => Sys2Proof.Machine.exec_adc_hl_sp s
  | .ld_sp__nn nn => Sys2Proof.Machine.exec_ld_sp__nn nn s
  | .ldi => Sys2Proof.Machine.exec_ldi s
  | .cpi => Sys2Proof.Machine.exec_cpi s
  | .ini => Sys2Proof.Machine.exec_ini s
  | .outi => Sys2Proof.Machine.exec_outi s
  | .ldd => Sys2Proof.Machine.exec_ldd s
  | .cpd => Sys2Proof.Machine.exec_cpd s
  | .ind => Sys2Proof.Machine.exec_ind s
  | .outd => Sys2Proof.Machine.exec_outd s
  | .ldir => Sys2Proof.Machine.exec_ldir s
  | .cpir => Sys2Proof.Machine.exec_cpir s
  | .inir => Sys2Proof.Machine.exec_inir s
  | .otir => Sys2Proof.Machine.exec_otir s
  | .lddr => Sys2Proof.Machine.exec_lddr s
  | .cpdr => Sys2Proof.Machine.exec_cpdr s
  | .indr => Sys2Proof.Machine.exec_indr s
  | .otdr => Sys2Proof.Machine.exec_otdr s
  | .add_ix_bc => Sys2Proof.Machine.exec_add_ix_bc s
  | .add_ix_de => Sys2Proof.Machine.exec_add_ix_de s
  | .ld_ix_nn nn => Sys2Proof.Machine.exec_ld_ix_nn nn s
  | .ld__nn__ix nn => Sys2Proof.Machine.exec_ld__nn__ix nn s
  | .inc_ix => Sys2Proof.Machine.exec_inc_ix s
  | .inc_ixh => Sys2Proof.Machine.exec_inc_ixh s
  | .dec_ixh => Sys2Proof.Machine.exec_dec_ixh s
  | .ld_ixh_n n => Sys2Proof.Machine.exec_ld_ixh_n n s
  | .add_ix_ix => Sys2Proof.Machine.exec_add_ix_ix s
  | .ld_ix__nn nn => Sys2Proof.Machine.exec_ld_ix__nn nn s
  | .dec_ix => Sys2Proof.Machine.exec_dec_ix s
  | .inc_ixl => Sys2Proof.Machine.exec_inc_ixl s
  | .dec_ixl => Sys2Proof.Machine.exec_dec_ixl s
  | .ld_ixl_n n => Sys2Proof.Machine.exec_ld_ixl_n n s
  | .inc__ixd d => Sys2Proof.Machine.exec_inc__ixd d s
  | .dec__ixd d => Sys2Proof.Machine.exec_dec__ixd d s
  | .ld__ixd__n d n => Sys2Proof.Machine.exec_ld__ixd__n d n s
  | .add_ix_sp => Sys2Proof.Machine.exec_add_ix_sp s
  | .ld_b_ixh => Sys2Proof.Machine.exec_ld_b_ixh s
  | .ld_b_ixl => Sys2Proof.Machine.exec_ld_b_ixl s
  | .ld_b__ixd d => Sys2Proof.Machine.exec_ld_b__ixd d s
  | .ld_c_ixh => Sys2Proof.Machine.exec_ld_c_ixh s
  | .ld_c_ixl => Sys2Proof.Machine.exec_ld_c_ixl s
  | .ld_c__ixd d => Sys2Proof.Machine.exec_ld_c__ixd d s
  | .ld_d_ixh => Sys2Proof.Machine.exec_ld_d_ixh s
  | .ld_d_ixl => Sys2Proof.Machine.exec_ld_d_ixl s
  | .ld_d__ixd d => Sys2Proof.Machine.exec_ld_d__ixd d s
  | .ld_e_ixh => Sys2Proof.Machine.exec_ld_e_ixh s
  | .ld_e_ixl => Sys2Proof.Machine.exec_ld_e_ixl s
  | .ld_e__ixd d => Sys2Proof.Machine.exec_ld_e__ixd d s
  | .ld_ixh_b => Sys2Proof.Machine.exec_ld_ixh_b s
  | .ld_ixh_c => Sys2Proof.Machine.exec_ld_ixh_c s
  | .ld_ixh_d => Sys2Proof.Machine.exec_ld_ixh_d s
  | .ld_ixh_e => Sys2Proof.Machine.exec_ld_ixh_e s
  | .ld_ixh_ixh => Sys2Proof.Machine.exec_ld_ixh_ixh s
  | .ld_ixh_ixl => Sys2Proof.Machine.exec_ld_ixh_ixl s
  | .ld_h__ixd d => Sys2Proof.Machine.exec_ld_h__ixd d s
  | .ld_ixh_a => Sys2Proof.Machine.exec_ld_ixh_a s
  | .ld_ixl_b => Sys2Proof.Machine.exec_ld_ixl_b s
  | .ld_ixl_c => Sys2Proof.Machine.exec_ld_ixl_c s
  | .ld_ixl_d => Sys2Proof.Machine.exec_ld_ixl_d s
  | .ld_ixl_e => Sys2Proof.Machine.exec_ld_ixl_e s
  | .ld_ixl_ixh => Sys2Proof.Machine.exec_ld_ixl_ixh s
  | .ld_ixl_ixl => Sys2Proof.Machine.exec_ld_ixl_ixl s
  | .ld_l__ixd d => Sys2Proof.Machine.exec_ld_l__ixd d s
  | .ld_ixl_a => Sys2Proof.Machine.exec_ld_ixl_a s
  | .ld__ixd__b d => Sys2Proof.Machine.exec_ld__ixd__b d s
  | .ld__ixd__c d => Sys2Proof.Machine.exec_ld__ixd__c d s
  | .ld__ixd__d d => Sys2Proof.Machine.exec_ld__ixd__d d s
  | .ld__ixd__e d => Sys2Proof.Machine.exec_ld__ixd__e d s
  | .ld__ixd__h d => Sys2Proof.Machine.exec_ld__ixd__h d s
  | .ld__ixd__l d => Sys2Proof.Machine.exec_ld__ixd__l d s
  | .ld__ixd__a d => Sys2Proof.Machine.exec_ld__ixd__a d s
  | .ld_a_ixh => Sys2Proof.Machine.exec_ld_a_ixh s
  | .ld_a_ixl => Sys2Proof.Machine.exec_ld_a_ixl s
  | .ld_a__ixd d => Sys2Proof.Machine.exec_ld_a__ixd d s
  | .add_a_ixh => Sys2Proof.Machine.exec_add_a_ixh s
  | .add_a_ixl => Sys2Proof.Machine.exec_add_a_ixl s
  | .add_a__ixd d => Sys2Proof.Machine.exec_add_a__ixd d s
  | .adc_a_ixh => Sys2Proof.Machine.exec_adc_a_ixh s
  | .adc_a_ixl => Sys2Proof.Machine.exec_adc_a_ixl s
  | .adc_a__ixd d => Sys2Proof.Machine.exec_adc_a__ixd d s
  | .sub_ixh => Sys2Proof.Machine.exec_sub_ixh s
  | .sub_ixl => Sys2Proof.Machine.exec_sub_ixl s
  | .sub__ixd d => Sys2Proof.Machine.exec_sub__ixd d s
  | .sbc_a_ixh => Sys2Proof.Machine.exec_sbc_a_ixh s
  | .sbc_a_ixl => Sys2Proof.Machine.exec_sbc_a_ixl s
  | .sbc_a__ixd d => Sys2Proof.Machine.exec_sbc_a__ixd d s
  | .and_ixh => Sys2Proof.Machine.exec_and_ixh s
  | .and_ixl => Sys2Proof.Machine.exec_and_ixl s
  | .and__ixd d => Sys2Proof.Machine.exec_and__ixd d s
  | .xor_ixh => Sys2Proof.Machine.exec_xor_ixh s
  | .xor_ixl => Sys2Proof.Machine.exec_xor_ixl s
  | .xor__ixd d => Sys2Proof.Machine.exec_xor__ixd d s
  | .or_ixh => Sys2Proof.Machine.exec_or_ixh s
  | .or_ixl => Sys2Proof.Machine.exec_or_ixl s
  | .or__ixd d => Sys2Proof.Machine.exec_or__ixd d s
  | .cp_ixh => Sys2Proof.Machine.exec_cp_ixh s
  | .cp_ixl => Sys2Proof.Machine.exec_cp_ixl s
  | .cp__ixd d => Sys2Proof.Machine.exec_cp__ixd d s
  | .prefix_ddcb => Sys2Proof.Machine.exec_prefix_ddcb s
  | .prefix_dd__supersedes x => Sys2Proof.Machine.exec_prefix_dd__supersedes x s
  | .pop_ix => Sys2Proof.Machine.exec_pop_ix s
  | .ex__sp__ix => Sys2Proof.Machine.exec_ex__sp__ix s
  | .push_ix => Sys2Proof.Machine.exec_push_ix s
  | .jp__ix => Sys2Proof.Machine.exec_jp__ix s
  | .prefix_ed__index_prefix_dropped x => Sys2Proof.Machine.exec_prefix_ed__index_prefix_dropped x s
  | .ld_sp_ix => Sys2Proof.Machine.exec_ld_sp_ix s
  | .prefix_fd__supersedes x => Sys2Proof.Machine.exec_prefix_fd__supersedes x s
  | .add_iy_bc => Sys2Proof.Machine.exec_add_iy_bc s
  | .add_iy_de => Sys2Proof.Machine.exec_add_iy_de s
  | .ld_iy_nn nn => Sys2Proof.Machine.exec_ld_iy_nn nn s
  | .ld__nn__iy nn => Sys2Proof.Machine.exec_ld__nn__iy nn s
  | .inc_iy => Sys2Proof.Machine.exec_inc_iy s
  | .inc_iyh => Sys2Proof.Machine.exec_inc_iyh s
  | .dec_iyh => Sys2Proof.Machine.exec_dec_iyh s
  | .ld_iyh_n n => Sys2Proof.Machine.exec_ld_iyh_n n s
  | .add_iy_iy => Sys2Proof.Machine.exec_add_iy_iy s
  | .ld_iy__nn nn => Sys2Proof.Machine.exec_ld_iy__nn nn s
  | .dec_iy => Sys2Proof.Machine.exec_dec_iy s
  | .inc_iyl => Sys2Proof.Machine.exec_inc_iyl s
  | .dec_iyl => Sys2Proof.Machine.exec_dec_iyl s
  | .ld_iyl_n n => Sys2Proof.Machine.exec_ld_iyl_n n s
  | .inc__iyd d => Sys2Proof.Machine.exec_inc__iyd d s
  | .dec__iyd d => Sys2Proof.Machine.exec_dec__iyd d s
  | .ld__iyd__n d n => Sys2Proof.Machine.exec_ld__iyd__n d n s
  | .add_iy_sp => Sys2Proof.Machine.exec_add_iy_sp s
  | .ld_b_iyh => Sys2Proof.Machine.exec_ld_b_iyh s
  | .ld_b_iyl => Sys2Proof.Machine.exec_ld_b_iyl s
  | .ld_b__iyd d => Sys2Proof.Machine.exec_ld_b__iyd d s
  | .ld_c_iyh => Sys2Proof.Machine.exec_ld_c_iyh s
  | .ld_c_iyl => Sys2Proof.Machine.exec_ld_c_iyl s
  | .ld_c__iyd d => Sys2Proof.Machine.exec_ld_c__iyd d s
  | .ld_d_iyh => Sys2Proof.Machine.exec_ld_d_iyh s
  | .ld_d_iyl => Sys2Proof.Machine.exec_ld_d_iyl s
  | .ld_d__iyd d => Sys2Proof.Machine.exec_ld_d__iyd d s
  | .ld_e_iyh => Sys2Proof.Machine.exec_ld_e_iyh s
  | .ld_e_iyl => Sys2Proof.Machine.exec_ld_e_iyl s
  | .ld_e__iyd d => Sys2Proof.Machine.exec_ld_e__iyd d s
  | .ld_iyh_b => Sys2Proof.Machine.exec_ld_iyh_b s
  | .ld_iyh_c => Sys2Proof.Machine.exec_ld_iyh_c s
  | .ld_iyh_d => Sys2Proof.Machine.exec_ld_iyh_d s
  | .ld_iyh_e => Sys2Proof.Machine.exec_ld_iyh_e s
  | .ld_iyh_iyh => Sys2Proof.Machine.exec_ld_iyh_iyh s
  | .ld_iyh_iyl => Sys2Proof.Machine.exec_ld_iyh_iyl s
  | .ld_h__iyd d => Sys2Proof.Machine.exec_ld_h__iyd d s
  | .ld_iyh_a => Sys2Proof.Machine.exec_ld_iyh_a s
  | .ld_iyl_b => Sys2Proof.Machine.exec_ld_iyl_b s
  | .ld_iyl_c => Sys2Proof.Machine.exec_ld_iyl_c s
  | .ld_iyl_d => Sys2Proof.Machine.exec_ld_iyl_d s
  | .ld_iyl_e => Sys2Proof.Machine.exec_ld_iyl_e s
  | .ld_iyl_iyh => Sys2Proof.Machine.exec_ld_iyl_iyh s
  | .ld_iyl_iyl => Sys2Proof.Machine.exec_ld_iyl_iyl s
  | .ld_l__iyd d => Sys2Proof.Machine.exec_ld_l__iyd d s
  | .ld_iyl_a => Sys2Proof.Machine.exec_ld_iyl_a s
  | .ld__iyd__b d => Sys2Proof.Machine.exec_ld__iyd__b d s
  | .ld__iyd__c d => Sys2Proof.Machine.exec_ld__iyd__c d s
  | .ld__iyd__d d => Sys2Proof.Machine.exec_ld__iyd__d d s
  | .ld__iyd__e d => Sys2Proof.Machine.exec_ld__iyd__e d s
  | .ld__iyd__h d => Sys2Proof.Machine.exec_ld__iyd__h d s
  | .ld__iyd__l d => Sys2Proof.Machine.exec_ld__iyd__l d s
  | .ld__iyd__a d => Sys2Proof.Machine.exec_ld__iyd__a d s
  | .ld_a_iyh => Sys2Proof.Machine.exec_ld_a_iyh s
  | .ld_a_iyl => Sys2Proof.Machine.exec_ld_a_iyl s
  | .ld_a__iyd d => Sys2Proof.Machine.exec_ld_a__iyd d s
  | .add_a_iyh => Sys2Proof.Machine.exec_add_a_iyh s
  | .add_a_iyl => Sys2Proof.Machine.exec_add_a_iyl s
  | .add_a__iyd d => Sys2Proof.Machine.exec_add_a__iyd d s
  | .adc_a_iyh => Sys2Proof.Machine.exec_adc_a_iyh s
  | .adc_a_iyl => Sys2Proof.Machine.exec_adc_a_iyl s
  | .adc_a__iyd d => Sys2Proof.Machine.exec_adc_a__iyd d s
  | .sub_iyh => Sys2Proof.Machine.exec_sub_iyh s
  | .sub_iyl => Sys2Proof.Machine.exec_sub_iyl s
  | .sub__iyd d => Sys2Proof.Machine.exec_sub__iyd d s
  | .sbc_a_iyh => Sys2Proof.Machine.exec_sbc_a_iyh s
  | .sbc_a_iyl => Sys2Proof.Machine.exec_sbc_a_iyl s
  | .sbc_a__iyd d => Sys2Proof.Machine.exec_sbc_a__iyd d s
  | .and_iyh => Sys2Proof.Machine.exec_and_iyh s
  | .and_iyl => Sys2Proof.Machine.exec_and_iyl s
  | .and__iyd d => Sys2Proof.Machine.exec_and__iyd d s
  | .xor_iyh => Sys2Proof.Machine.exec_xor_iyh s
  | .xor_iyl => Sys2Proof.Machine.exec_xor_iyl s
  | .xor__iyd d => Sys2Proof.Machine.exec_xor__iyd d s
  | .or_iyh => Sys2Proof.Machine.exec_or_iyh s
  | .or_iyl => Sys2Proof.Machine.exec_or_iyl s
  | .or__iyd d => Sys2Proof.Machine.exec_or__iyd d s
  | .cp_iyh => Sys2Proof.Machine.exec_cp_iyh s
  | .cp_iyl => Sys2Proof.Machine.exec_cp_iyl s
  | .cp__iyd d => Sys2Proof.Machine.exec_cp__iyd d s
  | .prefix_fdcb => Sys2Proof.Machine.exec_prefix_fdcb s
  | .pop_iy => Sys2Proof.Machine.exec_pop_iy s
  | .ex__sp__iy => Sys2Proof.Machine.exec_ex__sp__iy s
  | .push_iy => Sys2Proof.Machine.exec_push_iy s
  | .jp__iy => Sys2Proof.Machine.exec_jp__iy s
  | .ld_sp_iy => Sys2Proof.Machine.exec_ld_sp_iy s
  | .rlc__ixd__b d => Sys2Proof.Machine.exec_rlc__ixd__b d s
  | .rlc__ixd__c d => Sys2Proof.Machine.exec_rlc__ixd__c d s
  | .rlc__ixd__d d => Sys2Proof.Machine.exec_rlc__ixd__d d s
  | .rlc__ixd__e d => Sys2Proof.Machine.exec_rlc__ixd__e d s
  | .rlc__ixd__h d => Sys2Proof.Machine.exec_rlc__ixd__h d s
  | .rlc__ixd__l d => Sys2Proof.Machine.exec_rlc__ixd__l d s
  | .rlc__ixd d => Sys2Proof.Machine.exec_rlc__ixd d s
  | .rlc__ixd__a d => Sys2Proof.Machine.exec_rlc__ixd__a d s
  | .rrc__ixd__b d => Sys2Proof.Machine.exec_rrc__ixd__b d s
  | .rrc__ixd__c d => Sys2Proof.Machine.exec_rrc__ixd__c d s
  | .rrc__ixd__d d => Sys2Proof.Machine.exec_rrc__ixd__d d s
  | .rrc__ixd__e d => Sys2Proof.Machine.exec_rrc__ixd__e d s
  | .rrc__ixd__h d => Sys2Proof.Machine.exec_rrc__ixd__h d s
  | .rrc__ixd__l d => Sys2Proof.Machine.exec_rrc__ixd__l d s
  | .rrc__ixd d => Sys2Proof.Machine.exec_rrc__ixd d s
  | .rrc__ixd__a d => Sys2Proof.Machine.exec_rrc__ixd__a d s
  | .rl__ixd__b d => Sys2Proof.Machine.exec_rl__ixd__b d s
  | .rl__ixd__c d => Sys2Proof.Machine.exec_rl__ixd__c d s
  | .rl__ixd__d d => Sys2Proof.Machine.exec_rl__ixd__d d s
  | .rl__ixd__e d => Sys2Proof.Machine.exec_rl__ixd__e d s
  | .rl__ixd__h d => Sys2Proof.Machine.exec_rl__ixd__h d s
  | .rl__ixd__l d => Sys2Proof.Machine.exec_rl__ixd__l d s
  | .rl__ixd d => Sys2Proof.Machine.exec_rl__ixd d s
  | .rl__ixd__a d => Sys2Proof.Machine.exec_rl__ixd__a d s
  | .rr__ixd__b d => Sys2Proof.Machine.exec_rr__ixd__b d s
  | .rr__ixd__c d => Sys2Proof.Machine.exec_rr__ixd__c d s
  | .rr__ixd__d d => Sys2Proof.Machine.exec_rr__ixd__d d s
  | .rr__ixd__e d => Sys2Proof.Machine.exec_rr__ixd__e d s
  | .rr__ixd__h d => Sys2Proof.Machine.exec_rr__ixd__h d s
  | .rr__ixd__l d => Sys2Proof.Machine.exec_rr__ixd__l d s
  | .rr__ixd d => Sys2Proof.Machine.exec_rr__ixd d s
  | .rr__ixd__a d => Sys2Proof.Machine.exec_rr__ixd__a d s
  | .sla__ixd__b d => Sys2Proof.Machine.exec_sla__ixd__b d s
  | .sla__ixd__c d => Sys2Proof.Machine.exec_sla__ixd__c d s
  | .sla__ixd__d d => Sys2Proof.Machine.exec_sla__ixd__d d s
  | .sla__ixd__e d => Sys2Proof.Machine.exec_sla__ixd__e d s
  | .sla__ixd__h d => Sys2Proof.Machine.exec_sla__ixd__h d s
  | .sla__ixd__l d => Sys2Proof.Machine.exec_sla__ixd__l d s
  | .sla__ixd d => Sys2Proof.Machine.exec_sla__ixd d s
  | .sla__ixd__a d => Sys2Proof.Machine.exec_sla__ixd__a d s
  | .sra__ixd__b d => Sys2Proof.Machine.exec_sra__ixd__b d s
  | .sra__ixd__c d => Sys2Proof.Machine.exec_sra__ixd__c d s
  | .sra__ixd__d d => Sys2Proof.Machine.exec_sra__ixd__d d s
  | .sra__ixd__e d => Sys2Proof.Machine.exec_sra__ixd__e d s
  | .sra__ixd__h d => Sys2Proof.Machine.exec_sra__ixd__h d s
  | .sra__ixd__l d => Sys2Proof.Machine.exec_sra__ixd__l d s
  | .sra__ixd d => Sys2Proof.Machine.exec_sra__ixd d s
  | .sra__ixd__a d => Sys2Proof.Machine.exec_sra__ixd__a d s
  | .sll__ixd__b d => Sys2Proof.Machine.exec_sll__ixd__b d s
  | .sll__ixd__c d => Sys2Proof.Machine.exec_sll__ixd__c d s
  | .sll__ixd__d d => Sys2Proof.Machine.exec_sll__ixd__d d s
  | .sll__ixd__e d => Sys2Proof.Machine.exec_sll__ixd__e d s
  | .sll__ixd__h d => Sys2Proof.Machine.exec_sll__ixd__h d s
  | .sll__ixd__l d => Sys2Proof.Machine.exec_sll__ixd__l d s
  | .sll__ixd d => Sys2Proof.Machine.exec_sll__ixd d s
  | .sll__ixd__a d => Sys2Proof.Machine.exec_sll__ixd__a d s
  | .srl__ixd__b d => Sys2Proof.Machine.exec_srl__ixd__b d s
  | .srl__ixd__c d => Sys2Proof.Machine.exec_srl__ixd__c d s
  | .srl__ixd__d d => Sys2Proof.Machine.exec_srl__ixd__d d s
  | .srl__ixd__e d => Sys2Proof.Machine.exec_srl__ixd__e d s
  | .srl__ixd__h d => Sys2Proof.Machine.exec_srl__ixd__h d s
  | .srl__ixd__l d => Sys2Proof.Machine.exec_srl__ixd__l d s
  | .srl__ixd d => Sys2Proof.Machine.exec_srl__ixd d s
  | .srl__ixd__a d => Sys2Proof.Machine.exec_srl__ixd__a d s
  | .bit_0__ixd z d => Sys2Proof.Machine.exec_bit_0__ixd z d s
  | .bit_1__ixd z d => Sys2Proof.Machine.exec_bit_1__ixd z d s
  | .bit_2__ixd z d => Sys2Proof.Machine.exec_bit_2__ixd z d s
  | .bit_3__ixd z d => Sys2Proof.Machine.exec_bit_3__ixd z d s
  | .bit_4__ixd z d => Sys2Proof.Machine.exec_bit_4__ixd z d s
  | .bit_5__ixd z d => Sys2Proof.Machine.exec_bit_5__ixd z d s
  | .bit_6__ixd z d => Sys2Proof.Machine.exec_bit_6__ixd z d s
  | .bit_7__ixd z d => Sys2Proof.Machine.exec_bit_7__ixd z d s
  | .res_0__ixd__b d => Sys2Proof.Machine.exec_res_0__ixd__b d s
  | .res_0__ixd__c d => Sys2Proof.Machine.exec_res_0__ixd__c d s
  | .res_0__ixd__d d => Sys2Proof.Machine.exec_res_0__ixd__d d s
  | .res_0__ixd__e d => Sys2Proof.Machine.exec_res_0__ixd__e d s
  | .res_0__ixd__h d => Sys2Proof.Machine.exec_res_0__ixd__h d s
  | .res_0__ixd__l d => Sys2Proof.Machine.exec_res_0__ixd__l d s
  | .res_0__ixd d => Sys2Proof.Machine.exec_res_0__ixd d s
  | .res_0__ixd__a d => Sys2Proof.Machine.exec_res_0__ixd__a d s
  | .res_1__ixd__b d => Sys2Proof.Machine.exec_res_1__ixd__b d s
  | .res_1__ixd__c d => Sys2Proof.Machine.exec_res_1__ixd__c d s
  | .res_1__ixd__d d => Sys2Proof.Machine.exec_res_1__ixd__d d s
  | .res_1__ixd__e d => Sys2Proof.Machine.exec_res_1__ixd__e d s
  | .res_1__ixd__h d => Sys2Proof.Machine.exec_res_1__ixd__h d s
  | .res_1__ixd__l d => Sys2Proof.Machine.exec_res_1__ixd__l d s
  | .res_1__ixd d => Sys2Proof.Machine.exec_res_1__ixd d s
  | .res_1__ixd__a d => Sys2Proof.Machine.exec_res_1__ixd__a d s
  | .res_2__ixd__b d => Sys2Proof.Machine.exec_res_2__ixd__b d s
  | .res_2__ixd__c d => Sys2Proof.Machine.exec_res_2__ixd__c d s
  | .res_2__ixd__d d => Sys2Proof.Machine.exec_res_2__ixd__d d s
  | .res_2__ixd__e d => Sys2Proof.Machine.exec_res_2__ixd__e d s
  | .res_2__ixd__h d => Sys2Proof.Machine.exec_res_2__ixd__h d s
  | .res_2__ixd__l d => Sys2Proof.Machine.exec_res_2__ixd__l d s
  | .res_2__ixd d => Sys2Proof.Machine.exec_res_2__ixd d s
  | .res_2__ixd__a d => Sys2Proof.Machine.exec_res_2__ixd__a d s
  | .res_3__ixd__b d => Sys2Proof.Machine.exec_res_3__ixd__b d s
  | .res_3__ixd__c d => Sys2Proof.Machine.exec_res_3__ixd__c d s
  | .res_3__ixd__d d => Sys2Proof.Machine.exec_res_3__ixd__d d s
  | .res_3__ixd__e d => Sys2Proof.Machine.exec_res_3__ixd__e d s
  | .res_3__ixd__h d => Sys2Proof.Machine.exec_res_3__ixd__h d s
  | .res_3__ixd__l d => Sys2Proof.Machine.exec_res_3__ixd__l d s
  | .res_3__ixd d => Sys2Proof.Machine.exec_res_3__ixd d s
  | .res_3__ixd__a d => Sys2Proof.Machine.exec_res_3__ixd__a d s
  | .res_4__ixd__b d => Sys2Proof.Machine.exec_res_4__ixd__b d s
  | .res_4__ixd__c d => Sys2Proof.Machine.exec_res_4__ixd__c d s
  | .res_4__ixd__d d => Sys2Proof.Machine.exec_res_4__ixd__d d s
  | .res_4__ixd__e d => Sys2Proof.Machine.exec_res_4__ixd__e d s
  | .res_4__ixd__h d => Sys2Proof.Machine.exec_res_4__ixd__h d s
  | .res_4__ixd__l d => Sys2Proof.Machine.exec_res_4__ixd__l d s
  | .res_4__ixd d => Sys2Proof.Machine.exec_res_4__ixd d s
  | .res_4__ixd__a d => Sys2Proof.Machine.exec_res_4__ixd__a d s
  | .res_5__ixd__b d => Sys2Proof.Machine.exec_res_5__ixd__b d s
  | .res_5__ixd__c d => Sys2Proof.Machine.exec_res_5__ixd__c d s
  | .res_5__ixd__d d => Sys2Proof.Machine.exec_res_5__ixd__d d s
  | .res_5__ixd__e d => Sys2Proof.Machine.exec_res_5__ixd__e d s
  | .res_5__ixd__h d => Sys2Proof.Machine.exec_res_5__ixd__h d s
  | .res_5__ixd__l d => Sys2Proof.Machine.exec_res_5__ixd__l d s
  | .res_5__ixd d => Sys2Proof.Machine.exec_res_5__ixd d s
  | .res_5__ixd__a d => Sys2Proof.Machine.exec_res_5__ixd__a d s
  | .res_6__ixd__b d => Sys2Proof.Machine.exec_res_6__ixd__b d s
  | .res_6__ixd__c d => Sys2Proof.Machine.exec_res_6__ixd__c d s
  | .res_6__ixd__d d => Sys2Proof.Machine.exec_res_6__ixd__d d s
  | .res_6__ixd__e d => Sys2Proof.Machine.exec_res_6__ixd__e d s
  | .res_6__ixd__h d => Sys2Proof.Machine.exec_res_6__ixd__h d s
  | .res_6__ixd__l d => Sys2Proof.Machine.exec_res_6__ixd__l d s
  | .res_6__ixd d => Sys2Proof.Machine.exec_res_6__ixd d s
  | .res_6__ixd__a d => Sys2Proof.Machine.exec_res_6__ixd__a d s
  | .res_7__ixd__b d => Sys2Proof.Machine.exec_res_7__ixd__b d s
  | .res_7__ixd__c d => Sys2Proof.Machine.exec_res_7__ixd__c d s
  | .res_7__ixd__d d => Sys2Proof.Machine.exec_res_7__ixd__d d s
  | .res_7__ixd__e d => Sys2Proof.Machine.exec_res_7__ixd__e d s
  | .res_7__ixd__h d => Sys2Proof.Machine.exec_res_7__ixd__h d s
  | .res_7__ixd__l d => Sys2Proof.Machine.exec_res_7__ixd__l d s
  | .res_7__ixd d => Sys2Proof.Machine.exec_res_7__ixd d s
  | .res_7__ixd__a d => Sys2Proof.Machine.exec_res_7__ixd__a d s
  | .set_0__ixd__b d => Sys2Proof.Machine.exec_set_0__ixd__b d s
  | .set_0__ixd__c d => Sys2Proof.Machine.exec_set_0__ixd__c d s
  | .set_0__ixd__d d => Sys2Proof.Machine.exec_set_0__ixd__d d s
  | .set_0__ixd__e d => Sys2Proof.Machine.exec_set_0__ixd__e d s
  | .set_0__ixd__h d => Sys2Proof.Machine.exec_set_0__ixd__h d s
  | .set_0__ixd__l d => Sys2Proof.Machine.exec_set_0__ixd__l d s
  | .set_0__ixd d => Sys2Proof.Machine.exec_set_0__ixd d s
  | .set_0__ixd__a d => Sys2Proof.Machine.exec_set_0__ixd__a d s
  | .set_1__ixd__b d => Sys2Proof.Machine.exec_set_1__ixd__b d s
  | .set_1__ixd__c d => Sys2Proof.Machine.exec_set_1__ixd__c d s
  | .set_1__ixd__d d => Sys2Proof.Machine.exec_set_1__ixd__d d s
  | .set_1__ixd__e d => Sys2Proof.Machine.exec_set_1__ixd__e d s
  | .set_1__ixd__h d => Sys2Proof.Machine.exec_set_1__ixd__h d s
  | .set_1__ixd__l d => Sys2Proof.Machine.exec_set_1__ixd__l d s
  | .set_1__ixd d => Sys2Proof.Machine.exec_set_1__ixd d s
  | .set_1__ixd__a d => Sys2Proof.Machine.exec_set_1__ixd__a d s
  | .set_2__ixd__b d => Sys2Proof.Machine.exec_set_2__ixd__b d s
  | .set_2__ixd__c d => Sys2Proof.Machine.exec_set_2__ixd__c d s
  | .set_2__ixd__d d => Sys2Proof.Machine.exec_set_2__ixd__d d s
  | .set_2__ixd__e d => Sys2Proof.Machine.exec_set_2__ixd__e d s
  | .set_2__ixd__h d => Sys2Proof.Machine.exec_set_2__ixd__h d s
  | .set_2__ixd__l d => Sys2Proof.Machine.exec_set_2__ixd__l d s
  | .set_2__ixd d => Sys2Proof.Machine.exec_set_2__ixd d s
  | .set_2__ixd__a d => Sys2Proof.Machine.exec_set_2__ixd__a d s
  | .set_3__ixd__b d => Sys2Proof.Machine.exec_set_3__ixd__b d s
  | .set_3__ixd__c d => Sys2Proof.Machine.exec_set_3__ixd__c d s
  | .set_3__ixd__d d => Sys2Proof.Machine.exec_set_3__ixd__d d s
  | .set_3__ixd__e d => Sys2Proof.Machine.exec_set_3__ixd__e d s
  | .set_3__ixd__h d => Sys2Proof.Machine.exec_set_3__ixd__h d s
  | .set_3__ixd__l d => Sys2Proof.Machine.exec_set_3__ixd__l d s
  | .set_3__ixd d => Sys2Proof.Machine.exec_set_3__ixd d s
  | .set_3__ixd__a d => Sys2Proof.Machine.exec_set_3__ixd__a d s
  | .set_4__ixd__b d => Sys2Proof.Machine.exec_set_4__ixd__b d s
  | .set_4__ixd__c d => Sys2Proof.Machine.exec_set_4__ixd__c d s
  | .set_4__ixd__d d => Sys2Proof.Machine.exec_set_4__ixd__d d s
  | .set_4__ixd__e d => Sys2Proof.Machine.exec_set_4__ixd__e d s
  | .set_4__ixd__h d => Sys2Proof.Machine.exec_set_4__ixd__h d s
  | .set_4__ixd__l d => Sys2Proof.Machine.exec_set_4__ixd__l d s
  | .set_4__ixd d => Sys2Proof.Machine.exec_set_4__ixd d s
  | .set_4__ixd__a d => Sys2Proof.Machine.exec_set_4__ixd__a d s
  | .set_5__ixd__b d => Sys2Proof.Machine.exec_set_5__ixd__b d s
  | .set_5__ixd__c d => Sys2Proof.Machine.exec_set_5__ixd__c d s
  | .set_5__ixd__d d => Sys2Proof.Machine.exec_set_5__ixd__d d s
  | .set_5__ixd__e d => Sys2Proof.Machine.exec_set_5__ixd__e d s
  | .set_5__ixd__h d => Sys2Proof.Machine.exec_set_5__ixd__h d s
  | .set_5__ixd__l d => Sys2Proof.Machine.exec_set_5__ixd__l d s
  | .set_5__ixd d => Sys2Proof.Machine.exec_set_5__ixd d s
  | .set_5__ixd__a d => Sys2Proof.Machine.exec_set_5__ixd__a d s
  | .set_6__ixd__b d => Sys2Proof.Machine.exec_set_6__ixd__b d s
  | .set_6__ixd__c d => Sys2Proof.Machine.exec_set_6__ixd__c d s
  | .set_6__ixd__d d => Sys2Proof.Machine.exec_set_6__ixd__d d s
  | .set_6__ixd__e d => Sys2Proof.Machine.exec_set_6__ixd__e d s
  | .set_6__ixd__h d => Sys2Proof.Machine.exec_set_6__ixd__h d s
  | .set_6__ixd__l d => Sys2Proof.Machine.exec_set_6__ixd__l d s
  | .set_6__ixd d => Sys2Proof.Machine.exec_set_6__ixd d s
  | .set_6__ixd__a d => Sys2Proof.Machine.exec_set_6__ixd__a d s
  | .set_7__ixd__b d => Sys2Proof.Machine.exec_set_7__ixd__b d s
  | .set_7__ixd__c d => Sys2Proof.Machine.exec_set_7__ixd__c d s
  | .set_7__ixd__d d => Sys2Proof.Machine.exec_set_7__ixd__d d s
  | .set_7__ixd__e d => Sys2Proof.Machine.exec_set_7__ixd__e d s
  | .set_7__ixd__h d => Sys2Proof.Machine.exec_set_7__ixd__h d s
  | .set_7__ixd__l d => Sys2Proof.Machine.exec_set_7__ixd__l d s
  | .set_7__ixd d => Sys2Proof.Machine.exec_set_7__ixd d s
  | .set_7__ixd__a d => Sys2Proof.Machine.exec_set_7__ixd__a d s
  | .rlc__iyd__b d => Sys2Proof.Machine.exec_rlc__iyd__b d s
  | .rlc__iyd__c d => Sys2Proof.Machine.exec_rlc__iyd__c d s
  | .rlc__iyd__d d => Sys2Proof.Machine.exec_rlc__iyd__d d s
  | .rlc__iyd__e d => Sys2Proof.Machine.exec_rlc__iyd__e d s
  | .rlc__iyd__h d => Sys2Proof.Machine.exec_rlc__iyd__h d s
  | .rlc__iyd__l d => Sys2Proof.Machine.exec_rlc__iyd__l d s
  | .rlc__iyd d => Sys2Proof.Machine.exec_rlc__iyd d s
  | .rlc__iyd__a d => Sys2Proof.Machine.exec_rlc__iyd__a d s
  | .rrc__iyd__b d => Sys2Proof.Machine.exec_rrc__iyd__b d s
  | .rrc__iyd__c d => Sys2Proof.Machine.exec_rrc__iyd__c d s
  | .rrc__iyd__d d => Sys2Proof.Machine.exec_rrc__iyd__d d s
  | .rrc__iyd__e d => Sys2Proof.Machine.exec_rrc__iyd__e d s
  | .rrc__iyd__h d => Sys2Proof.Machine.exec_rrc__iyd__h d s
  | .rrc__iyd__l d => Sys2Proof.Machine.exec_rrc__iyd__l d s
  | .rrc__iyd d => Sys2Proof.Machine.exec_rrc__iyd d s
  | .rrc__iyd__a d => Sys2Proof.Machine.exec_rrc__iyd__a d s
  | .rl__iyd__b d => Sys2Proof.Machine.exec_rl__iyd__b d s
  | .rl__iyd__c d => Sys2Proof.Machine.exec_rl__iyd__c d s
  | .rl__iyd__d d => Sys2Proof.Machine.exec_rl__iyd__d d s
  | .rl__iyd__e d => Sys2Proof.Machine.exec_rl__iyd__e d s
  | .rl__iyd__h d => Sys2Proof.Machine.exec_rl__iyd__h d s
  | .rl__iyd__l d => Sys2Proof.Machine.exec_rl__iyd__l d s
  | .rl__iyd d => Sys2Proof.Machine.exec_rl__iyd d s
  | .rl__iyd__a d => Sys2Proof.Machine.exec_rl__iyd__a d s
  | .rr__iyd__b d => Sys2Proof.Machine.exec_rr__iyd__b d s
  | .rr__iyd__c d => Sys2Proof.Machine.exec_rr__iyd__c d s
  | .rr__iyd__d d => Sys2Proof.Machine.exec_rr__iyd__d d s
  | .rr__iyd__e d => Sys2Proof.Machine.exec_rr__iyd__e d s
  | .rr__iyd__h d => Sys2Proof.Machine.exec_rr__iyd__h d s
  | .rr__iyd__l d => Sys2Proof.Machine.exec_rr__iyd__l d s
  | .rr__iyd d => Sys2Proof.Machine.exec_rr__iyd d s
  | .rr__iyd__a d => Sys2Proof.Machine.exec_rr__iyd__a d s
  | .sla__iyd__b d => Sys2Proof.Machine.exec_sla__iyd__b d s
  | .sla__iyd__c d => Sys2Proof.Machine.exec_sla__iyd__c d s
  | .sla__iyd__d d => Sys2Proof.Machine.exec_sla__iyd__d d s
  | .sla__iyd__e d => Sys2Proof.Machine.exec_sla__iyd__e d s
  | .sla__iyd__h d => Sys2Proof.Machine.exec_sla__iyd__h d s
  | .sla__iyd__l d => Sys2Proof.Machine.exec_sla__iyd__l d s
  | .sla__iyd d => Sys2Proof.Machine.exec_sla__iyd d s
  | .sla__iyd__a d => Sys2Proof.Machine.exec_sla__iyd__a d s
  | .sra__iyd__b d => Sys2Proof.Machine.exec_sra__iyd__b d s
  | .sra__iyd__c d => Sys2Proof.Machine.exec_sra__iyd__c d s
  | .sra__iyd__d d => Sys2Proof.Machine.exec_sra__iyd__d d s
  | .sra__iyd__e d => Sys2Proof.Machine.exec_sra__iyd__e d s
  | .sra__iyd__h d => Sys2Proof.Machine.exec_sra__iyd__h d s
  | .sra__iyd__l d => Sys2Proof.Machine.exec_sra__iyd__l d s
  | .sra__iyd d => Sys2Proof.Machine.exec_sra__iyd d s
  | .sra__iyd__a d => Sys2Proof.Machine.exec_sra__iyd__a d s
  | .sll__iyd__b d => Sys2Proof.Machine.exec_sll__iyd__b d s
  | .sll__iyd__c d => Sys2Proof.Machine.exec_sll__iyd__c d s
  | .sll__iyd__d d => Sys2Proof.Machine.exec_sll__iyd__d d s
  | .sll__iyd__e d => Sys2Proof.Machine.exec_sll__iyd__e d s
  | .sll__iyd__h d => Sys2Proof.Machine.exec_sll__iyd__h d s
  | .sll__iyd__l d => Sys2Proof.Machine.exec_sll__iyd__l d s
  | .sll__iyd d => Sys2Proof.Machine.exec_sll__iyd d s
  | .sll__iyd__a d => Sys2Proof.Machine.exec_sll__iyd__a d s
  | .srl__iyd__b d => Sys2Proof.Machine.exec_srl__iyd__b d s
  | .srl__iyd__c d => Sys2Proof.Machine.exec_srl__iyd__c d s
  | .srl__iyd__d d => Sys2Proof.Machine.exec_srl__iyd__d d s
  | .srl__iyd__e d => Sys2Proof.Machine.exec_srl__iyd__e d s
  | .srl__iyd__h d => Sys2Proof.Machine.exec_srl__iyd__h d s
  | .srl__iyd__l d => Sys2Proof.Machine.exec_srl__iyd__l d s
  | .srl__iyd d => Sys2Proof.Machine.exec_srl__iyd d s
  | .srl__iyd__a d => Sys2Proof.Machine.exec_srl__iyd__a d s
  | .bit_0__iyd z d => Sys2Proof.Machine.exec_bit_0__iyd z d s
  | .bit_1__iyd z d => Sys2Proof.Machine.exec_bit_1__iyd z d s
  | .bit_2__iyd z d => Sys2Proof.Machine.exec_bit_2__iyd z d s
  | .bit_3__iyd z d => Sys2Proof.Machine.exec_bit_3__iyd z d s
  | .bit_4__iyd z d => Sys2Proof.Machine.exec_bit_4__iyd z d s
  | .bit_5__iyd z d => Sys2Proof.Machine.exec_bit_5__iyd z d s
  | .bit_6__iyd z d => Sys2Proof.Machine.exec_bit_6__iyd z d s
  | .bit_7__iyd z d => Sys2Proof.Machine.exec_bit_7__iyd z d s
  | .res_0__iyd__b d => Sys2Proof.Machine.exec_res_0__iyd__b d s
  | .res_0__iyd__c d => Sys2Proof.Machine.exec_res_0__iyd__c d s
  | .res_0__iyd__d d => Sys2Proof.Machine.exec_res_0__iyd__d d s
  | .res_0__iyd__e d => Sys2Proof.Machine.exec_res_0__iyd__e d s
  | .res_0__iyd__h d => Sys2Proof.Machine.exec_res_0__iyd__h d s
  | .res_0__iyd__l d => Sys2Proof.Machine.exec_res_0__iyd__l d s
  | .res_0__iyd d => Sys2Proof.Machine.exec_res_0__iyd d s
  | .res_0__iyd__a d => Sys2Proof.Machine.exec_res_0__iyd__a d s
  | .res_1__iyd__b d => Sys2Proof.Machine.exec_res_1__iyd__b d s
  | .res_1__iyd__c d => Sys2Proof.Machine.exec_res_1__iyd__c d s
  | .res_1__iyd__d d => Sys2Proof.Machine.exec_res_1__iyd__d d s
  | .res_1__iyd__e d => Sys2Proof.Machine.exec_res_1__iyd__e d s
  | .res_1__iyd__h d => Sys2Proof.Machine.exec_res_1__iyd__h d s
  | .res_1__iyd__l d => Sys2Proof.Machine.exec_res_1__iyd__l d s
  | .res_1__iyd d => Sys2Proof.Machine.exec_res_1__iyd d s
  | .res_1__iyd__a d => Sys2Proof.Machine.exec_res_1__iyd__a d s
  | .res_2__iyd__b d => Sys2Proof.Machine.exec_res_2__iyd__b d s
  | .res_2__iyd__c d => Sys2Proof.Machine.exec_res_2__iyd__c d s
  | .res_2__iyd__d d => Sys2Proof.Machine.exec_res_2__iyd__d d s
  | .res_2__iyd__e d => Sys2Proof.Machine.exec_res_2__iyd__e d s
  | .res_2__iyd__h d => Sys2Proof.Machine.exec_res_2__iyd__h d s
  | .res_2__iyd__l d => Sys2Proof.Machine.exec_res_2__iyd__l d s
  | .res_2__iyd d => Sys2Proof.Machine.exec_res_2__iyd d s
  | .res_2__iyd__a d => Sys2Proof.Machine.exec_res_2__iyd__a d s
  | .res_3__iyd__b d => Sys2Proof.Machine.exec_res_3__iyd__b d s
  | .res_3__iyd__c d => Sys2Proof.Machine.exec_res_3__iyd__c d s
  | .res_3__iyd__d d => Sys2Proof.Machine.exec_res_3__iyd__d d s
  | .res_3__iyd__e d => Sys2Proof.Machine.exec_res_3__iyd__e d s
  | .res_3__iyd__h d => Sys2Proof.Machine.exec_res_3__iyd__h d s
  | .res_3__iyd__l d => Sys2Proof.Machine.exec_res_3__iyd__l d s
  | .res_3__iyd d => Sys2Proof.Machine.exec_res_3__iyd d s
  | .res_3__iyd__a d => Sys2Proof.Machine.exec_res_3__iyd__a d s
  | .res_4__iyd__b d => Sys2Proof.Machine.exec_res_4__iyd__b d s
  | .res_4__iyd__c d => Sys2Proof.Machine.exec_res_4__iyd__c d s
  | .res_4__iyd__d d => Sys2Proof.Machine.exec_res_4__iyd__d d s
  | .res_4__iyd__e d => Sys2Proof.Machine.exec_res_4__iyd__e d s
  | .res_4__iyd__h d => Sys2Proof.Machine.exec_res_4__iyd__h d s
  | .res_4__iyd__l d => Sys2Proof.Machine.exec_res_4__iyd__l d s
  | .res_4__iyd d => Sys2Proof.Machine.exec_res_4__iyd d s
  | .res_4__iyd__a d => Sys2Proof.Machine.exec_res_4__iyd__a d s
  | .res_5__iyd__b d => Sys2Proof.Machine.exec_res_5__iyd__b d s
  | .res_5__iyd__c d => Sys2Proof.Machine.exec_res_5__iyd__c d s
  | .res_5__iyd__d d => Sys2Proof.Machine.exec_res_5__iyd__d d s
  | .res_5__iyd__e d => Sys2Proof.Machine.exec_res_5__iyd__e d s
  | .res_5__iyd__h d => Sys2Proof.Machine.exec_res_5__iyd__h d s
  | .res_5__iyd__l d => Sys2Proof.Machine.exec_res_5__iyd__l d s
  | .res_5__iyd d => Sys2Proof.Machine.exec_res_5__iyd d s
  | .res_5__iyd__a d => Sys2Proof.Machine.exec_res_5__iyd__a d s
  | .res_6__iyd__b d => Sys2Proof.Machine.exec_res_6__iyd__b d s
  | .res_6__iyd__c d => Sys2Proof.Machine.exec_res_6__iyd__c d s
  | .res_6__iyd__d d => Sys2Proof.Machine.exec_res_6__iyd__d d s
  | .res_6__iyd__e d => Sys2Proof.Machine.exec_res_6__iyd__e d s
  | .res_6__iyd__h d => Sys2Proof.Machine.exec_res_6__iyd__h d s
  | .res_6__iyd__l d => Sys2Proof.Machine.exec_res_6__iyd__l d s
  | .res_6__iyd d => Sys2Proof.Machine.exec_res_6__iyd d s
  | .res_6__iyd__a d => Sys2Proof.Machine.exec_res_6__iyd__a d s
  | .res_7__iyd__b d => Sys2Proof.Machine.exec_res_7__iyd__b d s
  | .res_7__iyd__c d => Sys2Proof.Machine.exec_res_7__iyd__c d s
  | .res_7__iyd__d d => Sys2Proof.Machine.exec_res_7__iyd__d d s
  | .res_7__iyd__e d => Sys2Proof.Machine.exec_res_7__iyd__e d s
  | .res_7__iyd__h d => Sys2Proof.Machine.exec_res_7__iyd__h d s
  | .res_7__iyd__l d => Sys2Proof.Machine.exec_res_7__iyd__l d s
  | .res_7__iyd d => Sys2Proof.Machine.exec_res_7__iyd d s
  | .res_7__iyd__a d => Sys2Proof.Machine.exec_res_7__iyd__a d s
  | .set_0__iyd__b d => Sys2Proof.Machine.exec_set_0__iyd__b d s
  | .set_0__iyd__c d => Sys2Proof.Machine.exec_set_0__iyd__c d s
  | .set_0__iyd__d d => Sys2Proof.Machine.exec_set_0__iyd__d d s
  | .set_0__iyd__e d => Sys2Proof.Machine.exec_set_0__iyd__e d s
  | .set_0__iyd__h d => Sys2Proof.Machine.exec_set_0__iyd__h d s
  | .set_0__iyd__l d => Sys2Proof.Machine.exec_set_0__iyd__l d s
  | .set_0__iyd d => Sys2Proof.Machine.exec_set_0__iyd d s
  | .set_0__iyd__a d => Sys2Proof.Machine.exec_set_0__iyd__a d s
  | .set_1__iyd__b d => Sys2Proof.Machine.exec_set_1__iyd__b d s
  | .set_1__iyd__c d => Sys2Proof.Machine.exec_set_1__iyd__c d s
  | .set_1__iyd__d d => Sys2Proof.Machine.exec_set_1__iyd__d d s
  | .set_1__iyd__e d => Sys2Proof.Machine.exec_set_1__iyd__e d s
  | .set_1__iyd__h d => Sys2Proof.Machine.exec_set_1__iyd__h d s
  | .set_1__iyd__l d => Sys2Proof.Machine.exec_set_1__iyd__l d s
  | .set_1__iyd d => Sys2Proof.Machine.exec_set_1__iyd d s
  | .set_1__iyd__a d => Sys2Proof.Machine.exec_set_1__iyd__a d s
  | .set_2__iyd__b d => Sys2Proof.Machine.exec_set_2__iyd__b d s
  | .set_2__iyd__c d => Sys2Proof.Machine.exec_set_2__iyd__c d s
  | .set_2__iyd__d d => Sys2Proof.Machine.exec_set_2__iyd__d d s
  | .set_2__iyd__e d => Sys2Proof.Machine.exec_set_2__iyd__e d s
  | .set_2__iyd__h d => Sys2Proof.Machine.exec_set_2__iyd__h d s
  | .set_2__iyd__l d => Sys2Proof.Machine.exec_set_2__iyd__l d s
  | .set_2__iyd d => Sys2Proof.Machine.exec_set_2__iyd d s
  | .set_2__iyd__a d => Sys2Proof.Machine.exec_set_2__iyd__a d s
  | .set_3__iyd__b d => Sys2Proof.Machine.exec_set_3__iyd__b d s
  | .set_3__iyd__c d => Sys2Proof.Machine.exec_set_3__iyd__c d s
  | .set_3__iyd__d d => Sys2Proof.Machine.exec_set_3__iyd__d d s
  | .set_3__iyd__e d => Sys2Proof.Machine.exec_set_3__iyd__e d s
  | .set_3__iyd__h d => Sys2Proof.Machine.exec_set_3__iyd__h d s
  | .set_3__iyd__l d => Sys2Proof.Machine.exec_set_3__iyd__l d s
  | .set_3__iyd d => Sys2Proof.Machine.exec_set_3__iyd d s
  | .set_3__iyd__a d => Sys2Proof.Machine.exec_set_3__iyd__a d s
  | .set_4__iyd__b d => Sys2Proof.Machine.exec_set_4__iyd__b d s
  | .set_4__iyd__c d => Sys2Proof.Machine.exec_set_4__iyd__c d s
  | .set_4__iyd__d d => Sys2Proof.Machine.exec_set_4__iyd__d d s
  | .set_4__iyd__e d => Sys2Proof.Machine.exec_set_4__iyd__e d s
  | .set_4__iyd__h d => Sys2Proof.Machine.exec_set_4__iyd__h d s
  | .set_4__iyd__l d => Sys2Proof.Machine.exec_set_4__iyd__l d s
  | .set_4__iyd d => Sys2Proof.Machine.exec_set_4__iyd d s
  | .set_4__iyd__a d => Sys2Proof.Machine.exec_set_4__iyd__a d s
  | .set_5__iyd__b d => Sys2Proof.Machine.exec_set_5__iyd__b d s
  | .set_5__iyd__c d => Sys2Proof.Machine.exec_set_5__iyd__c d s
  | .set_5__iyd__d d => Sys2Proof.Machine.exec_set_5__iyd__d d s
  | .set_5__iyd__e d => Sys2Proof.Machine.exec_set_5__iyd__e d s
  | .set_5__iyd__h d => Sys2Proof.Machine.exec_set_5__iyd__h d s
  | .set_5__iyd__l d => Sys2Proof.Machine.exec_set_5__iyd__l d s
  | .set_5__iyd d => Sys2Proof.Machine.exec_set_5__iyd d s
  | .set_5__iyd__a d => Sys2Proof.Machine.exec_set_5__iyd__a d s
  | .set_6__iyd__b d => Sys2Proof.Machine.exec_set_6__iyd__b d s
  | .set_6__iyd__c d => Sys2Proof.Machine.exec_set_6__iyd__c d s
  | .set_6__iyd__d d => Sys2Proof.Machine.exec_set_6__iyd__d d s
  | .set_6__iyd__e d => Sys2Proof.Machine.exec_set_6__iyd__e d s
  | .set_6__iyd__h d => Sys2Proof.Machine.exec_set_6__iyd__h d s
  | .set_6__iyd__l d => Sys2Proof.Machine.exec_set_6__iyd__l d s
  | .set_6__iyd d => Sys2Proof.Machine.exec_set_6__iyd d s
  | .set_6__iyd__a d => Sys2Proof.Machine.exec_set_6__iyd__a d s
  | .set_7__iyd__b d => Sys2Proof.Machine.exec_set_7__iyd__b d s
  | .set_7__iyd__c d => Sys2Proof.Machine.exec_set_7__iyd__c d s
  | .set_7__iyd__d d => Sys2Proof.Machine.exec_set_7__iyd__d d s
  | .set_7__iyd__e d => Sys2Proof.Machine.exec_set_7__iyd__e d s
  | .set_7__iyd__h d => Sys2Proof.Machine.exec_set_7__iyd__h d s
  | .set_7__iyd__l d => Sys2Proof.Machine.exec_set_7__iyd__l d s
  | .set_7__iyd d => Sys2Proof.Machine.exec_set_7__iyd d s
  | .set_7__iyd__a d => Sys2Proof.Machine.exec_set_7__iyd__a d s

end Sys2Proof.Machine
end

