-- ==== Sys2Proof/Machine/RunTable.lean ====
section
/-! DEFINITION. The seven tables of Decode.lean once more, each cell holding the MEANING of its
instruction instead of the instruction. Lean's compiler builds no object of an `Instr` constructor
beyond the 245th, so compiled code takes this way round; the theorems here say that it is `exec` of
what Decode.lean decodes, cell by cell, and the kernel checks them. No statement rests on these
tables. -/

namespace Sys2Proof.Machine

/-- One entry: its length, and its meaning as a function of the first two operand bytes. -/
abbrev RunCell := Nat × (Byte → Byte → State → Res)

/-- An entry with no operand byte. -/
def run0 (len : Nat) (f : State → Res) : RunCell := (len, fun _ _ => f)
/-- An entry with one operand byte. -/
def run1 (len : Nat) (f : Byte → State → Res) : RunCell := (len, fun a _ => f a)
/-- An entry with two operand bytes. -/
def run2 (len : Nat) (f : Byte → Byte → State → Res) : RunCell := (len, f)
/-- An entry with an operand word. -/
def runW (len : Nat) (f : Word → State → Res) : RunCell := (len, fun a b => f (wordOf a b))

/-- What a decoded cell means. -/
def runOf (c : Cell) : RunCell := (c.1, fun a b => exec (c.2 a b))

def baseRun0 : List RunCell :=
  [run0 1 (exec_nop .none), runW 3 (exec_ld_bc_nn .none), run0 1 (exec_ld__bc__a .none),
   run0 1 (exec_inc_bc .none), run0 1 (exec_inc_b .none), run0 1 (exec_dec_b .none),
   run1 2 (exec_ld_b_n .none), run0 1 (exec_rlca .none), run0 1 (exec_ex_af_af .none),
   run0 1 exec_add_hl_bc, run0 1 (exec_ld_a__bc .none), run0 1 (exec_dec_bc .none),
   run0 1 (exec_inc_c .none), run0 1 (exec_dec_c .none), run1 2 (exec_ld_c_n .none),
   run0 1 (exec_rrca .none)]

def baseRun1 : List RunCell :=
  [run1 2 (exec_djnz_e .none), runW 3 (exec_ld_de_nn .none), run0 1 (exec_ld__de__a .none),
   run0 1 (exec_inc_de .none), run0 1 (exec_inc_d .none), run0 1 (exec_dec_d .none),
   run1 2 (exec_ld_d_n .none), run0 1 (exec_rla .none), run1 2 (exec_jr_e .none),
   run0 1 exec_add_hl_de, run0 1 (exec_ld_a__de .none), run0 1 (exec_dec_de .none),
   run0 1 (exec_inc_e .none), run0 1 (exec_dec_e .none), run1 2 (exec_ld_e_n .none),
   run0 1 (exec_rra .none)]

def baseRun2 : List RunCell :=
  [run1 2 (exec_jr_nz_e .none), runW 3 exec_ld_hl_nn, runW 3 exec_ld__nn__hl, run0 1 exec_inc_hl,
   run0 1 exec_inc_h, run0 1 exec_dec_h, run1 2 exec_ld_h_n, run0 1 (exec_daa .none),
   run1 2 (exec_jr_z_e .none), run0 1 exec_add_hl_hl, runW 3 exec_ld_hl__nn, run0 1 exec_dec_hl,
   run0 1 exec_inc_l, run0 1 exec_dec_l, run1 2 exec_ld_l_n, run0 1 (exec_cpl .none)]

def baseRun3 : List RunCell :=
  [run1 2 (exec_jr_nc_e .none), runW 3 (exec_ld_sp_nn .none), runW 3 (exec_ld__nn__a .none),
   run0 1 (exec_inc_sp .none), run0 1 exec_inc__hl, run0 1 exec_dec__hl, run1 2 exec_ld__hl__n,
   run0 1 (exec_scf .none), run1 2 (exec_jr_c_e .none), run0 1 exec_add_hl_sp,
   runW 3 (exec_ld_a__nn .none), run0 1 (exec_dec_sp .none), run0 1 (exec_inc_a .none),
   run0 1 (exec_dec_a .none), run1 2 (exec_ld_a_n .none), run0 1 (exec_ccf .none)]

def baseRun4 : List RunCell :=
  [run0 1 (exec_ld_b_b .none), run0 1 (exec_ld_b_c .none), run0 1 (exec_ld_b_d .none),
   run0 1 (exec_ld_b_e .none), run0 1 exec_ld_b_h, run0 1 exec_ld_b_l, run0 1 exec_ld_b__hl,
   run0 1 (exec_ld_b_a .none), run0 1 (exec_ld_c_b .none), run0 1 (exec_ld_c_c .none),
   run0 1 (exec_ld_c_d .none), run0 1 (exec_ld_c_e .none), run0 1 exec_ld_c_h, run0 1 exec_ld_c_l,
   run0 1 exec_ld_c__hl, run0 1 (exec_ld_c_a .none)]

def baseRun5 : List RunCell :=
  [run0 1 (exec_ld_d_b .none), run0 1 (exec_ld_d_c .none), run0 1 (exec_ld_d_d .none),
   run0 1 (exec_ld_d_e .none), run0 1 exec_ld_d_h, run0 1 exec_ld_d_l, run0 1 exec_ld_d__hl,
   run0 1 (exec_ld_d_a .none), run0 1 (exec_ld_e_b .none), run0 1 (exec_ld_e_c .none),
   run0 1 (exec_ld_e_d .none), run0 1 (exec_ld_e_e .none), run0 1 exec_ld_e_h, run0 1 exec_ld_e_l,
   run0 1 exec_ld_e__hl, run0 1 (exec_ld_e_a .none)]

def baseRun6 : List RunCell :=
  [run0 1 exec_ld_h_b, run0 1 exec_ld_h_c, run0 1 exec_ld_h_d, run0 1 exec_ld_h_e,
   run0 1 exec_ld_h_h, run0 1 exec_ld_h_l, run0 1 exec_ld_h__hl, run0 1 exec_ld_h_a,
   run0 1 exec_ld_l_b, run0 1 exec_ld_l_c, run0 1 exec_ld_l_d, run0 1 exec_ld_l_e,
   run0 1 exec_ld_l_h, run0 1 exec_ld_l_l, run0 1 exec_ld_l__hl, run0 1 exec_ld_l_a]

def baseRun7 : List RunCell :=
  [run0 1 exec_ld__hl__b, run0 1 exec_ld__hl__c, run0 1 exec_ld__hl__d, run0 1 exec_ld__hl__e,
   run0 1 exec_ld__hl__h, run0 1 exec_ld__hl__l, run0 1 (exec_halt .none), run0 1 exec_ld__hl__a,
   run0 1 (exec_ld_a_b .none), run0 1 (exec_ld_a_c .none), run0 1 (exec_ld_a_d .none),
   run0 1 (exec_ld_a_e .none), run0 1 exec_ld_a_h, run0 1 exec_ld_a_l, run0 1 exec_ld_a__hl,
   run0 1 (exec_ld_a_a .none)]

def baseRun8 : List RunCell :=
  [run0 1 (exec_add_a_b .none), run0 1 (exec_add_a_c .none), run0 1 (exec_add_a_d .none),
   run0 1 (exec_add_a_e .none), run0 1 exec_add_a_h, run0 1 exec_add_a_l, run0 1 exec_add_a__hl,
   run0 1 (exec_add_a_a .none), run0 1 (exec_adc_a_b .none), run0 1 (exec_adc_a_c .none),
   run0 1 (exec_adc_a_d .none), run0 1 (exec_adc_a_e .none), run0 1 exec_adc_a_h,
   run0 1 exec_adc_a_l, run0 1 exec_adc_a__hl, run0 1 (exec_adc_a_a .none)]

def baseRun9 : List RunCell :=
  [run0 1 (exec_sub_b .none), run0 1 (exec_sub_c .none), run0 1 (exec_sub_d .none),
   run0 1 (exec_sub_e .none), run0 1 exec_sub_h, run0 1 exec_sub_l, run0 1 exec_sub__hl,
   run0 1 (exec_sub_a .none), run0 1 (exec_sbc_a_b .none), run0 1 (exec_sbc_a_c .none),
   run0 1 (exec_sbc_a_d .none), run0 1 (exec_sbc_a_e .none), run0 1 exec_sbc_a_h,
   run0 1 exec_sbc_a_l, run0 1 exec_sbc_a__hl, run0 1 (exec_sbc_a_a .none)]

def baseRunA : List RunCell :=
  [run0 1 (exec_and_b .none), run0 1 (exec_and_c .none), run0 1 (exec_and_d .none),
   run0 1 (exec_and_e .none), run0 1 exec_and_h, run0 1 exec_and_l, run0 1 exec_and__hl,
   run0 1 (exec_and_a .none), run0 1 (exec_xor_b .none), run0 1 (exec_xor_c .none),
   run0 1 (exec_xor_d .none), run0 1 (exec_xor_e .none), run0 1 exec_xor_h, run0 1 exec_xor_l,
   run0 1 exec_xor__hl, run0 1 (exec_xor_a .none)]

def baseRunB : List RunCell :=
  [run0 1 (exec_or_b .none), run0 1 (exec_or_c .none), run0 1 (exec_or_d .none),
   run0 1 (exec_or_e .none), run0 1 exec_or_h, run0 1 exec_or_l, run0 1 exec_or__hl,
   run0 1 (exec_or_a .none), run0 1 (exec_cp_b .none), run0 1 (exec_cp_c .none),
   run0 1 (exec_cp_d .none), run0 1 (exec_cp_e .none), run0 1 exec_cp_h, run0 1 exec_cp_l,
   run0 1 exec_cp__hl, run0 1 (exec_cp_a .none)]

def baseRunC : List RunCell :=
  [run0 1 (exec_ret_nz .none), run0 1 (exec_pop_bc .none), runW 3 (exec_jp_nz_nn .none),
   runW 3 (exec_jp_nn .none), runW 3 (exec_call_nz_nn .none), run0 1 (exec_push_bc .none),
   run1 2 (exec_add_a_n .none), run0 1 (exec_rst_00h .none), run0 1 (exec_ret_z .none),
   run0 1 (exec_ret .none), runW 3 (exec_jp_z_nn .none), run0 1 exec_prefix_cb,
   runW 3 (exec_call_z_nn .none), runW 3 (exec_call_nn .none), run1 2 (exec_adc_a_n .none),
   run0 1 (exec_rst_08h .none)]

def baseRunD : List RunCell :=
  [run0 1 (exec_ret_nc .none), run0 1 (exec_pop_de .none), runW 3 (exec_jp_nc_nn .none),
   run1 2 (exec_out__n__a .none), runW 3 (exec_call_nc_nn .none), run0 1 (exec_push_de .none),
   run1 2 (exec_sub_n .none), run0 1 (exec_rst_10h .none), run0 1 (exec_ret_c .none),
   run0 1 (exec_exx .none), runW 3 (exec_jp_c_nn .none), run1 2 (exec_in_a__n .none),
   runW 3 (exec_call_c_nn .none), run0 1 exec_prefix_dd, run1 2 (exec_sbc_a_n .none),
   run0 1 (exec_rst_18h .none)]

def baseRunE : List RunCell :=
  [run0 1 (exec_ret_po .none), run0 1 exec_pop_hl, runW 3 (exec_jp_po_nn .none),
   run0 1 exec_ex__sp__hl, runW 3 (exec_call_po_nn .none), run0 1 exec_push_hl,
   run1 2 (exec_and_n .none), run0 1 (exec_rst_20h .none), run0 1 (exec_ret_pe .none),
   run0 1 exec_jp__hl, runW 3 (exec_jp_pe_nn .none), run0 1 (exec_ex_de_hl .none),
   runW 3 (exec_call_pe_nn .none), run0 1 exec_prefix_ed, run1 2 (exec_xor_n .none),
   run0 1 (exec_rst_28h .none)]

def baseRunF : List RunCell :=
  [run0 1 (exec_ret_p .none), run0 1 (exec_pop_af .none), runW 3 (exec_jp_p_nn .none),
   run0 1 (exec_di .none), runW 3 (exec_call_p_nn .none), run0 1 (exec_push_af .none),
   run1 2 (exec_or_n .none), run0 1 (exec_rst_30h .none), run0 1 (exec_ret_m .none),
   run0 1 exec_ld_sp_hl, runW 3 (exec_jp_m_nn .none), run0 1 (exec_ei .none),
   runW 3 (exec_call_m_nn .none), run0 1 exec_prefix_fd, run1 2 (exec_cp_n .none),
   run0 1 (exec_rst_38h .none)]

/-- The meanings of the base table. -/
def baseRun : List (List RunCell) :=
  [baseRun0, baseRun1, baseRun2, baseRun3, baseRun4, baseRun5, baseRun6, baseRun7,
   baseRun8, baseRun9, baseRunA, baseRunB, baseRunC, baseRunD, baseRunE, baseRunF]

theorem baseRun0_eq : baseRow0.map runOf = baseRun0 := rfl
theorem baseRun1_eq : baseRow1.map runOf = baseRun1 := rfl
theorem baseRun2_eq : baseRow2.map runOf = baseRun2 := rfl
theorem baseRun3_eq : baseRow3.map runOf = baseRun3 := rfl
theorem baseRun4_eq : baseRow4.map runOf = baseRun4 := rfl
theorem baseRun5_eq : baseRow5.map runOf = baseRun5 := rfl
theorem baseRun6_eq : baseRow6.map runOf = baseRun6 := rfl
theorem baseRun7_eq : baseRow7.map runOf = baseRun7 := rfl
theorem baseRun8_eq : baseRow8.map runOf = baseRun8 := rfl
theorem baseRun9_eq : baseRow9.map runOf = baseRun9 := rfl
theorem baseRunA_eq : baseRowA.map runOf = baseRunA := rfl
theorem baseRunB_eq : baseRowB.map runOf = baseRunB := rfl
theorem baseRunC_eq : baseRowC.map runOf = baseRunC := rfl
theorem baseRunD_eq : baseRowD.map runOf = baseRunD := rfl
theorem baseRunE_eq : baseRowE.map runOf = baseRunE := rfl
theorem baseRunF_eq : baseRowF.map runOf = baseRunF := rfl

/-- The table of meanings is the decoded table, cell by cell. -/
theorem baseRun_eq : baseTable.map (List.map runOf) = baseRun := by
  simp only [baseTable, baseRun, List.map_cons, List.map_nil, baseRun0_eq, baseRun1_eq, baseRun2_eq, baseRun3_eq, baseRun4_eq, baseRun5_eq, baseRun6_eq, baseRun7_eq, baseRun8_eq, baseRun9_eq, baseRunA_eq, baseRunB_eq, baseRunC_eq, baseRunD_eq, baseRunE_eq, baseRunF_eq]

def cbRun0 : List RunCell :=
  [run0 2 exec_rlc_b, run0 2 exec_rlc_c, run0 2 exec_rlc_d, run0 2 exec_rlc_e, run0 2 exec_rlc_h,
   run0 2 exec_rlc_l, run0 2 exec_rlc__hl, run0 2 exec_rlc_a, run0 2 exec_rrc_b, run0 2 exec_rrc_c,
   run0 2 exec_rrc_d, run0 2 exec_rrc_e, run0 2 exec_rrc_h, run0 2 exec_rrc_l, run0 2 exec_rrc__hl,
   run0 2 exec_rrc_a]

def cbRun1 : List RunCell :=
  [run0 2 exec_rl_b, run0 2 exec_rl_c, run0 2 exec_rl_d, run0 2 exec_rl_e, run0 2 exec_rl_h,
   run0 2 exec_rl_l, run0 2 exec_rl__hl, run0 2 exec_rl_a, run0 2 exec_rr_b, run0 2 exec_rr_c,
   run0 2 exec_rr_d, run0 2 exec_rr_e, run0 2 exec_rr_h, run0 2 exec_rr_l, run0 2 exec_rr__hl,
   run0 2 exec_rr_a]

def cbRun2 : List RunCell :=
  [run0 2 exec_sla_b, run0 2 exec_sla_c, run0 2 exec_sla_d, run0 2 exec_sla_e, run0 2 exec_sla_h,
   run0 2 exec_sla_l, run0 2 exec_sla__hl, run0 2 exec_sla_a, run0 2 exec_sra_b, run0 2 exec_sra_c,
   run0 2 exec_sra_d, run0 2 exec_sra_e, run0 2 exec_sra_h, run0 2 exec_sra_l, run0 2 exec_sra__hl,
   run0 2 exec_sra_a]

def cbRun3 : List RunCell :=
  [run0 2 exec_sll_b, run0 2 exec_sll_c, run0 2 exec_sll_d, run0 2 exec_sll_e, run0 2 exec_sll_h,
   run0 2 exec_sll_l, run0 2 exec_sll__hl, run0 2 exec_sll_a, run0 2 exec_srl_b, run0 2 exec_srl_c,
   run0 2 exec_srl_d, run0 2 exec_srl_e, run0 2 exec_srl_h, run0 2 exec_srl_l, run0 2 exec_srl__hl,
   run0 2 exec_srl_a]

def cbRun4 : List RunCell :=
  [run0 2 exec_bit_0_b, run0 2 exec_bit_0_c, run0 2 exec_bit_0_d, run0 2 exec_bit_0_e,
   run0 2 exec_bit_0_h, run0 2 exec_bit_0_l, run0 2 exec_bit_0__hl, run0 2 exec_bit_0_a,
   run0 2 exec_bit_1_b, run0 2 exec_bit_1_c, run0 2 exec_bit_1_d, run0 2 exec_bit_1_e,
   run0 2 exec_bit_1_h, run0 2 exec_bit_1_l, run0 2 exec_bit_1__hl, run0 2 exec_bit_1_a]

def cbRun5 : List RunCell :=
  [run0 2 exec_bit_2_b, run0 2 exec_bit_2_c, run0 2 exec_bit_2_d, run0 2 exec_bit_2_e,
   run0 2 exec_bit_2_h, run0 2 exec_bit_2_l, run0 2 exec_bit_2__hl, run0 2 exec_bit_2_a,
   run0 2 exec_bit_3_b, run0 2 exec_bit_3_c, run0 2 exec_bit_3_d, run0 2 exec_bit_3_e,
   run0 2 exec_bit_3_h, run0 2 exec_bit_3_l, run0 2 exec_bit_3__hl, run0 2 exec_bit_3_a]

def cbRun6 : List RunCell :=
  [run0 2 exec_bit_4_b, run0 2 exec_bit_4_c, run0 2 exec_bit_4_d, run0 2 exec_bit_4_e,
   run0 2 exec_bit_4_h, run0 2 exec_bit_4_l, run0 2 exec_bit_4__hl, run0 2 exec_bit_4_a,
   run0 2 exec_bit_5_b, run0 2 exec_bit_5_c, run0 2 exec_bit_5_d, run0 2 exec_bit_5_e,
   run0 2 exec_bit_5_h, run0 2 exec_bit_5_l, run0 2 exec_bit_5__hl, run0 2 exec_bit_5_a]

def cbRun7 : List RunCell :=
  [run0 2 exec_bit_6_b, run0 2 exec_bit_6_c, run0 2 exec_bit_6_d, run0 2 exec_bit_6_e,
   run0 2 exec_bit_6_h, run0 2 exec_bit_6_l, run0 2 exec_bit_6__hl, run0 2 exec_bit_6_a,
   run0 2 exec_bit_7_b, run0 2 exec_bit_7_c, run0 2 exec_bit_7_d, run0 2 exec_bit_7_e,
   run0 2 exec_bit_7_h, run0 2 exec_bit_7_l, run0 2 exec_bit_7__hl, run0 2 exec_bit_7_a]

def cbRun8 : List RunCell :=
  [run0 2 exec_res_0_b, run0 2 exec_res_0_c, run0 2 exec_res_0_d, run0 2 exec_res_0_e,
   run0 2 exec_res_0_h, run0 2 exec_res_0_l, run0 2 exec_res_0__hl, run0 2 exec_res_0_a,
   run0 2 exec_res_1_b, run0 2 exec_res_1_c, run0 2 exec_res_1_d, run0 2 exec_res_1_e,
   run0 2 exec_res_1_h, run0 2 exec_res_1_l, run0 2 exec_res_1__hl, run0 2 exec_res_1_a]

def cbRun9 : List RunCell :=
  [run0 2 exec_res_2_b, run0 2 exec_res_2_c, run0 2 exec_res_2_d, run0 2 exec_res_2_e,
   run0 2 exec_res_2_h, run0 2 exec_res_2_l, run0 2 exec_res_2__hl, run0 2 exec_res_2_a,
   run0 2 exec_res_3_b, run0 2 exec_res_3_c, run0 2 exec_res_3_d, run0 2 exec_res_3_e,
   run0 2 exec_res_3_h, run0 2 exec_res_3_l, run0 2 exec_res_3__hl, run0 2 exec_res_3_a]

def cbRunA : List RunCell :=
  [run0 2 exec_res_4_b, run0 2 exec_res_4_c, run0 2 exec_res_4_d, run0 2 exec_res_4_e,
   run0 2 exec_res_4_h, run0 2 exec_res_4_l, run0 2 exec_res_4__hl, run0 2 exec_res_4_a,
   run0 2 exec_res_5_b, run0 2 exec_res_5_c, run0 2 exec_res_5_d, run0 2 exec_res_5_e,
   run0 2 exec_res_5_h, run0 2 exec_res_5_l, run0 2 exec_res_5__hl, run0 2 exec_res_5_a]

def cbRunB : List RunCell :=
  [run0 2 exec_res_6_b, run0 2 exec_res_6_c, run0 2 exec_res_6_d, run0 2 exec_res_6_e,
   run0 2 exec_res_6_h, run0 2 exec_res_6_l, run0 2 exec_res_6__hl, run0 2 exec_res_6_a,
   run0 2 exec_res_7_b, run0 2 exec_res_7_c, run0 2 exec_res_7_d, run0 2 exec_res_7_e,
   run0 2 exec_res_7_h, run0 2 exec_res_7_l, run0 2 exec_res_7__hl, run0 2 exec_res_7_a]

def cbRunC : List RunCell :=
  [run0 2 exec_set_0_b, run0 2 exec_set_0_c, run0 2 exec_set_0_d, run0 2 exec_set_0_e,
   run0 2 exec_set_0_h, run0 2 exec_set_0_l, run0 2 exec_set_0__hl, run0 2 exec_set_0_a,
   run0 2 exec_set_1_b, run0 2 exec_set_1_c, run0 2 exec_set_1_d, run0 2 exec_set_1_e,
   run0 2 exec_set_1_h, run0 2 exec_set_1_l, run0 2 exec_set_1__hl, run0 2 exec_set_1_a]

def cbRunD : List RunCell :=
  [run0 2 exec_set_2_b, run0 2 exec_set_2_c, run0 2 exec_set_2_d, run0 2 exec_set_2_e,
   run0 2 exec_set_2_h, run0 2 exec_set_2_l, run0 2 exec_set_2__hl, run0 2 exec_set_2_a,
   run0 2 exec_set_3_b, run0 2 exec_set_3_c, run0 2 exec_set_3_d, run0 2 exec_set_3_e,
   run0 2 exec_set_3_h, run0 2 exec_set_3_l, run0 2 exec_set_3__hl, run0 2 exec_set_3_a]

def cbRunE : List RunCell :=
  [run0 2 exec_set_4_b, run0 2 exec_set_4_c, run0 2 exec_set_4_d, run0 2 exec_set_4_e,
   run0 2 exec_set_4_h, run0 2 exec_set_4_l, run0 2 exec_set_4__hl, run0 2 exec_set_4_a,
   run0 2 exec_set_5_b, run0 2 exec_set_5_c, run0 2 exec_set_5_d, run0 2 exec_set_5_e,
   run0 2 exec_set_5_h, run0 2 exec_set_5_l, run0 2 exec_set_5__hl, run0 2 exec_set_5_a]

def cbRunF : List RunCell :=
  [run0 2 exec_set_6_b, run0 2 exec_set_6_c, run0 2 exec_set_6_d, run0 2 exec_set_6_e,
   run0 2 exec_set_6_h, run0 2 exec_set_6_l, run0 2 exec_set_6__hl, run0 2 exec_set_6_a,
   run0 2 exec_set_7_b, run0 2 exec_set_7_c, run0 2 exec_set_7_d, run0 2 exec_set_7_e,
   run0 2 exec_set_7_h, run0 2 exec_set_7_l, run0 2 exec_set_7__hl, run0 2 exec_set_7_a]

/-- The meanings of the CB table. -/
def cbRun : List (List RunCell) :=
  [cbRun0, cbRun1, cbRun2, cbRun3, cbRun4, cbRun5, cbRun6, cbRun7,
   cbRun8, cbRun9, cbRunA, cbRunB, cbRunC, cbRunD, cbRunE, cbRunF]

theorem cbRun0_eq : cbRow0.map runOf = cbRun0 := rfl
theorem cbRun1_eq : cbRow1.map runOf = cbRun1 := rfl
theorem cbRun2_eq : cbRow2.map runOf = cbRun2 := rfl
theorem cbRun3_eq : cbRow3.map runOf = cbRun3 := rfl
theorem cbRun4_eq : cbRow4.map runOf = cbRun4 := rfl
theorem cbRun5_eq : cbRow5.map runOf = cbRun5 := rfl
theorem cbRun6_eq : cbRow6.map runOf = cbRun6 := rfl
theorem cbRun7_eq : cbRow7.map runOf = cbRun7 := rfl
theorem cbRun8_eq : cbRow8.map runOf = cbRun8 := rfl
theorem cbRun9_eq : cbRow9.map runOf = cbRun9 := rfl
theorem cbRunA_eq : cbRowA.map runOf = cbRunA := rfl
theorem cbRunB_eq : cbRowB.map runOf = cbRunB := rfl
theorem cbRunC_eq : cbRowC.map runOf = cbRunC := rfl
theorem cbRunD_eq : cbRowD.map runOf = cbRunD := rfl
theorem cbRunE_eq : cbRowE.map runOf = cbRunE := rfl
theorem cbRunF_eq : cbRowF.map runOf = cbRunF := rfl

/-- The table of meanings is the decoded table, cell by cell. -/
theorem cbRun_eq : cbTable.map (List.map runOf) = cbRun := by
  simp only [cbTable, cbRun, List.map_cons, List.map_nil, cbRun0_eq, cbRun1_eq, cbRun2_eq, cbRun3_eq, cbRun4_eq, cbRun5_eq, cbRun6_eq, cbRun7_eq, cbRun8_eq, cbRun9_eq, cbRunA_eq, cbRunB_eq, cbRunC_eq, cbRunD_eq, cbRunE_eq, cbRunF_eq]

def edRun0 : List RunCell :=
  [run0 2 (exec_nop__ed 0x00#8), run0 2 (exec_nop__ed 0x01#8), run0 2 (exec_nop__ed 0x02#8),
   run0 2 (exec_nop__ed 0x03#8), run0 2 (exec_nop__ed 0x04#8), run0 2 (exec_nop__ed 0x05#8),
   run0 2 (exec_nop__ed 0x06#8), run0 2 (exec_nop__ed 0x07#8), run0 2 (exec_nop__ed 0x08#8),
   run0 2 (exec_nop__ed 0x09#8), run0 2 (exec_nop__ed 0x0A#8), run0 2 (exec_nop__ed 0x0B#8),
   run0 2 (exec_nop__ed 0x0C#8), run0 2 (exec_nop__ed 0x0D#8), run0 2 (exec_nop__ed 0x0E#8),
   run0 2 (exec_nop__ed 0x0F#8)]

def edRun1 : List RunCell :=
  [run0 2 (exec_nop__ed 0x10#8), run0 2 (exec_nop__ed 0x11#8), run0 2 (exec_nop__ed 0x12#8),
   run0 2 (exec_nop__ed 0x13#8), run0 2 (exec_nop__ed 0x14#8), run0 2 (exec_nop__ed 0x15#8),
   run0 2 (exec_nop__ed 0x16#8), run0 2 (exec_nop__ed 0x17#8), run0 2 (exec_nop__ed 0x18#8),
   run0 2 (exec_nop__ed 0x19#8), run0 2 (exec_nop__ed 0x1A#8), run0 2 (exec_nop__ed 0x1B#8),
   run0 2 (exec_nop__ed 0x1C#8), run0 2 (exec_nop__ed 0x1D#8), run0 2 (exec_nop__ed 0x1E#8),
   run0 2 (exec_nop__ed 0x1F#8)]

def edRun2 : List RunCell :=
  [run0 2 (exec_nop__ed 0x20#8), run0 2 (exec_nop__ed 0x21#8), run0 2 (exec_nop__ed 0x22#8),
   run0 2 (exec_nop__ed 0x23#8), run0 2 (exec_nop__ed 0x24#8), run0 2 (exec_nop__ed 0x25#8),
   run0 2 (exec_nop__ed 0x26#8), run0 2 (exec_nop__ed 0x27#8), run0 2 (exec_nop__ed 0x28#8),
   run0 2 (exec_nop__ed 0x29#8), run0 2 (exec_nop__ed 0x2A#8), run0 2 (exec_nop__ed 0x2B#8),
   run0 2 (exec_nop__ed 0x2C#8), run0 2 (exec_nop__ed 0x2D#8), run0 2 (exec_nop__ed 0x2E#8),
   run0 2 (exec_nop__ed 0x2F#8)]

def edRun3 : List RunCell :=
  [run0 2 (exec_nop__ed 0x30#8), run0 2 (exec_nop__ed 0x31#8), run0 2 (exec_nop__ed 0x32#8),
   run0 2 (exec_nop__ed 0x33#8), run0 2 (exec_nop__ed 0x34#8), run0 2 (exec_nop__ed 0x35#8),
   run0 2 (exec_nop__ed 0x36#8), run0 2 (exec_nop__ed 0x37#8), run0 2 (exec_nop__ed 0x38#8),
   run0 2 (exec_nop__ed 0x39#8), run0 2 (exec_nop__ed 0x3A#8), run0 2 (exec_nop__ed 0x3B#8),
   run0 2 (exec_nop__ed 0x3C#8), run0 2 (exec_nop__ed 0x3D#8), run0 2 (exec_nop__ed 0x3E#8),
   run0 2 (exec_nop__ed 0x3F#8)]

def edRun4 : List RunCell :=
  [run0 2 exec_in_b__c, run0 2 exec_out__c__b, run0 2 exec_sbc_hl_bc, runW 4 exec_ld__nn__bc,
   run0 2 (exec_neg 0x44#8), run0 2 (exec_retn 0x45#8), run0 2 (exec_im_0 0x46#8),
   run0 2 exec_ld_i_a, run0 2 exec_in_c__c, run0 2 exec_out__c__c, run0 2 exec_adc_hl_bc,
   runW 4 exec_ld_bc__nn, run0 2 (exec_neg 0x4C#8), run0 2 exec_reti, run0 2 (exec_im_0 0x4E#8),
   run0 2 exec_ld_r_a]

def edRun5 : List RunCell :=
  [run0 2 exec_in_d__c, run0 2 exec_out__c__d, run0 2 exec_sbc_hl_de, runW 4 exec_ld__nn__de,
   run0 2 (exec_neg 0x54#8), run0 2 (exec_retn 0x55#8), run0 2 (exec_im_1 0x56#8),
   run0 2 exec_ld_a_i, run0 2 exec_in_e__c, run0 2 exec_out__c__e, run0 2 exec_adc_hl_de,
   runW 4 exec_ld_de__nn, run0 2 (exec_neg 0x5C#8), run0 2 (exec_retn 0x5D#8),
   run0 2 (exec_im_2 0x5E#8), run0 2 exec_ld_a_r]

def edRun6 : List RunCell :=
  [run0 2 exec_in_h__c, run0 2 exec_out__c__h, run0 2 exec_sbc_hl_hl, runW 4 exec_ld__nn__hl_ed,
   run0 2 (exec_neg 0x64#8), run0 2 (exec_retn 0x65#8), run0 2 (exec_im_0 0x66#8), run0 2 exec_rrd,
   run0 2 exec_in_l__c, run0 2 exec_out__c__l, run0 2 exec_adc_hl_hl, runW 4 exec_ld_hl__nn_ed,
   run0 2 (exec_neg 0x6C#8), run0 2 (exec_retn 0x6D#8), run0 2 (exec_im_0 0x6E#8), run0 2 exec_rld]

def edRun7 : List RunCell :=
  [run0 2 exec_in_f__c, run0 2 exec_out__c__0, run0 2 exec_sbc_hl_sp, runW 4 exec_ld__nn__sp,
   run0 2 (exec_neg 0x74#8), run0 2 (exec_retn 0x75#8), run0 2 (exec_im_1 0x76#8),
   run0 2 (exec_nop__ed 0x77#8), run0 2 exec_in_a__c, run0 2 exec_out__c__a, run0 2 exec_adc_hl_sp,
   runW 4 exec_ld_sp__nn, run0 2 (exec_neg 0x7C#8), run0 2 (exec_retn 0x7D#8),
   run0 2 (exec_im_2 0x7E#8), run0 2 (exec_nop__ed 0x7F#8)]

def edRun8 : List RunCell :=
  [run0 2 (exec_nop__ed 0x80#8), run0 2 (exec_nop__ed 0x81#8), run0 2 (exec_nop__ed 0x82#8),
   run0 2 (exec_nop__ed 0x83#8), run0 2 (exec_nop__ed 0x84#8), run0 2 (exec_nop__ed 0x85#8),
   run0 2 (exec_nop__ed 0x86#8), run0 2 (exec_nop__ed 0x87#8), run0 2 (exec_nop__ed 0x88#8),
   run0 2 (exec_nop__ed 0x89#8), run0 2 (exec_nop__ed 0x8A#8), run0 2 (exec_nop__ed 0x8B#8),
   run0 2 (exec_nop__ed 0x8C#8), run0 2 (exec_nop__ed 0x8D#8), run0 2 (exec_nop__ed 0x8E#8),
   run0 2 (exec_nop__ed 0x8F#8)]

def edRun9 : List RunCell :=
  [run0 2 (exec_nop__ed 0x90#8), run0 2 (exec_nop__ed 0x91#8), run0 2 (exec_nop__ed 0x92#8),
   run0 2 (exec_nop__ed 0x93#8), run0 2 (exec_nop__ed 0x94#8), run0 2 (exec_nop__ed 0x95#8),
   run0 2 (exec_nop__ed 0x96#8), run0 2 (exec_nop__ed 0x97#8), run0 2 (exec_nop__ed 0x98#8),
   run0 2 (exec_nop__ed 0x99#8), run0 2 (exec_nop__ed 0x9A#8), run0 2 (exec_nop__ed 0x9B#8),
   run0 2 (exec_nop__ed 0x9C#8), run0 2 (exec_nop__ed 0x9D#8), run0 2 (exec_nop__ed 0x9E#8),
   run0 2 (exec_nop__ed 0x9F#8)]

def edRunA : List RunCell :=
  [run0 2 exec_ldi, run0 2 exec_cpi, run0 2 exec_ini, run0 2 exec_outi,
   run0 2 (exec_nop__ed 0xA4#8), run0 2 (exec_nop__ed 0xA5#8), run0 2 (exec_nop__ed 0xA6#8),
   run0 2 (exec_nop__ed 0xA7#8), run0 2 exec_ldd, run0 2 exec_cpd, run0 2 exec_ind,
   run0 2 exec_outd, run0 2 (exec_nop__ed 0xAC#8), run0 2 (exec_nop__ed 0xAD#8),
   run0 2 (exec_nop__ed 0xAE#8), run0 2 (exec_nop__ed 0xAF#8)]

def edRunB : List RunCell :=
  [run0 2 exec_ldir, run0 2 exec_cpir, run0 2 exec_inir, run0 2 exec_otir,
   run0 2 (exec_nop__ed 0xB4#8), run0 2 (exec_nop__ed 0xB5#8), run0 2 (exec_nop__ed 0xB6#8),
   run0 2 (exec_nop__ed 0xB7#8), run0 2 exec_lddr, run0 2 exec_cpdr, run0 2 exec_indr,
   run0 2 exec_otdr, run0 2 (exec_nop__ed 0xBC#8), run0 2 (exec_nop__ed 0xBD#8),
   run0 2 (exec_nop__ed 0xBE#8), run0 2 (exec_nop__ed 0xBF#8)]

def edRunC : List RunCell :=
  [run0 2 (exec_nop__ed 0xC0#8), run0 2 (exec_nop__ed 0xC1#8), run0 2 (exec_nop__ed 0xC2#8),
   run0 2 (exec_nop__ed 0xC3#8), run0 2 (exec_nop__ed 0xC4#8), run0 2 (exec_nop__ed 0xC5#8),
   run0 2 (exec_nop__ed 0xC6#8), run0 2 (exec_nop__ed 0xC7#8), run0 2 (exec_nop__ed 0xC8#8),
   run0 2 (exec_nop__ed 0xC9#8), run0 2 (exec_nop__ed 0xCA#8), run0 2 (exec_nop__ed 0xCB#8),
   run0 2 (exec_nop__ed 0xCC#8), run0 2 (exec_nop__ed 0xCD#8), run0 2 (exec_nop__ed 0xCE#8),
   run0 2 (exec_nop__ed 0xCF#8)]

def edRunD : List RunCell :=
  [run0 2 (exec_nop__ed 0xD0#8), run0 2 (exec_nop__ed 0xD1#8), run0 2 (exec_nop__ed 0xD2#8),
   run0 2 (exec_nop__ed 0xD3#8), run0 2 (exec_nop__ed 0xD4#8), run0 2 (exec_nop__ed 0xD5#8),
   run0 2 (exec_nop__ed 0xD6#8), run0 2 (exec_nop__ed 0xD7#8), run0 2 (exec_nop__ed 0xD8#8),
   run0 2 (exec_nop__ed 0xD9#8), run0 2 (exec_nop__ed 0xDA#8), run0 2 (exec_nop__ed 0xDB#8),
   run0 2 (exec_nop__ed 0xDC#8), run0 2 (exec_nop__ed 0xDD#8), run0 2 (exec_nop__ed 0xDE#8),
   run0 2 (exec_nop__ed 0xDF#8)]

def edRunE : List RunCell :=
  [run0 2 (exec_nop__ed 0xE0#8), run0 2 (exec_nop__ed 0xE1#8), run0 2 (exec_nop__ed 0xE2#8),
   run0 2 (exec_nop__ed 0xE3#8), run0 2 (exec_nop__ed 0xE4#8), run0 2 (exec_nop__ed 0xE5#8),
   run0 2 (exec_nop__ed 0xE6#8), run0 2 (exec_nop__ed 0xE7#8), run0 2 (exec_nop__ed 0xE8#8),
   run0 2 (exec_nop__ed 0xE9#8), run0 2 (exec_nop__ed 0xEA#8), run0 2 (exec_nop__ed 0xEB#8),
   run0 2 (exec_nop__ed 0xEC#8), run0 2 (exec_nop__ed 0xED#8), run0 2 (exec_nop__ed 0xEE#8),
   run0 2 (exec_nop__ed 0xEF#8)]

def edRunF : List RunCell :=
  [run0 2 (exec_nop__ed 0xF0#8), run0 2 (exec_nop__ed 0xF1#8), run0 2 (exec_nop__ed 0xF2#8),
   run0 2 (exec_nop__ed 0xF3#8), run0 2 (exec_nop__ed 0xF4#8), run0 2 (exec_nop__ed 0xF5#8),
   run0 2 (exec_nop__ed 0xF6#8), run0 2 (exec_nop__ed 0xF7#8), run0 2 (exec_nop__ed 0xF8#8),
   run0 2 (exec_nop__ed 0xF9#8), run0 2 (exec_nop__ed 0xFA#8), run0 2 (exec_nop__ed 0xFB#8),
   run0 2 (exec_nop__ed 0xFC#8), run0 2 (exec_nop__ed 0xFD#8), run0 2 (exec_nop__ed 0xFE#8),
   run0 2 (exec_nop__ed 0xFF#8)]

/-- The meanings of the ED table. -/
def edRun : List (List RunCell) :=
  [edRun0, edRun1, edRun2, edRun3, edRun4, edRun5, edRun6, edRun7,
   edRun8, edRun9, edRunA, edRunB, edRunC, edRunD, edRunE, edRunF]

theorem edRun0_eq : edRow0.map runOf = edRun0 := rfl
theorem edRun1_eq : edRow1.map runOf = edRun1 := rfl
theorem edRun2_eq : edRow2.map runOf = edRun2 := rfl
theorem edRun3_eq : edRow3.map runOf = edRun3 := rfl
theorem edRun4_eq : edRow4.map runOf = edRun4 := rfl
theorem edRun5_eq : edRow5.map runOf = edRun5 := rfl
theorem edRun6_eq : edRow6.map runOf = edRun6 := rfl
theorem edRun7_eq : edRow7.map runOf = edRun7 := rfl
theorem edRun8_eq : edRow8.map runOf = edRun8 := rfl
theorem edRun9_eq : edRow9.map runOf = edRun9 := rfl
theorem edRunA_eq : edRowA.map runOf = edRunA := rfl
theorem edRunB_eq : edRowB.map runOf = edRunB := rfl
theorem edRunC_eq : edRowC.map runOf = edRunC := rfl
theorem edRunD_eq : edRowD.map runOf = edRunD := rfl
theorem edRunE_eq : edRowE.map runOf = edRunE := rfl
theorem edRunF_eq : edRowF.map runOf = edRunF := rfl

/-- The table of meanings is the decoded table, cell by cell. -/
theorem edRun_eq : edTable.map (List.map runOf) = edRun := by
  simp only [edTable, edRun, List.map_cons, List.map_nil, edRun0_eq, edRun1_eq, edRun2_eq, edRun3_eq, edRun4_eq, edRun5_eq, edRun6_eq, edRun7_eq, edRun8_eq, edRun9_eq, edRunA_eq, edRunB_eq, edRunC_eq, edRunD_eq, edRunE_eq, edRunF_eq]

def ddRun0 : List RunCell :=
  [run0 2 (exec_nop .dd), runW 4 (exec_ld_bc_nn .dd), run0 2 (exec_ld__bc__a .dd),
   run0 2 (exec_inc_bc .dd), run0 2 (exec_inc_b .dd), run0 2 (exec_dec_b .dd),
   run1 3 (exec_ld_b_n .dd), run0 2 (exec_rlca .dd), run0 2 (exec_ex_af_af .dd),
   run0 2 exec_add_ix_bc, run0 2 (exec_ld_a__bc .dd), run0 2 (exec_dec_bc .dd),
   run0 2 (exec_inc_c .dd), run0 2 (exec_dec_c .dd), run1 3 (exec_ld_c_n .dd),
   run0 2 (exec_rrca .dd)]

def ddRun1 : List RunCell :=
  [run1 3 (exec_djnz_e .dd), runW 4 (exec_ld_de_nn .dd), run0 2 (exec_ld__de__a .dd),
   run0 2 (exec_inc_de .dd), run0 2 (exec_inc_d .dd), run0 2 (exec_dec_d .dd),
   run1 3 (exec_ld_d_n .dd), run0 2 (exec_rla .dd), run1 3 (exec_jr_e .dd), run0 2 exec_add_ix_de,
   run0 2 (exec_ld_a__de .dd), run0 2 (exec_dec_de .dd), run0 2 (exec_inc_e .dd),
   run0 2 (exec_dec_e .dd), run1 3 (exec_ld_e_n .dd), run0 2 (exec_rra .dd)]

def ddRun2 : List RunCell :=
  [run1 3 (exec_jr_nz_e .dd), runW 4 exec_ld_ix_nn, runW 4 exec_ld__nn__ix, run0 2 exec_inc_ix,
   run0 2 exec_inc_ixh, run0 2 exec_dec_ixh, run1 3 exec_ld_ixh_n, run0 2 (exec_daa .dd),
   run1 3 (exec_jr_z_e .dd), run0 2 exec_add_ix_ix, runW 4 exec_ld_ix__nn, run0 2 exec_dec_ix,
   run0 2 exec_inc_ixl, run0 2 exec_dec_ixl, run1 3 exec_ld_ixl_n, run0 2 (exec_cpl .dd)]

def ddRun3 : List RunCell :=
  [run1 3 (exec_jr_nc_e .dd), runW 4 (exec_ld_sp_nn .dd), runW 4 (exec_ld__nn__a .dd),
   run0 2 (exec_inc_sp .dd), run1 3 exec_inc__ixd, run1 3 exec_dec__ixd, run2 4 exec_ld__ixd__n,
   run0 2 (exec_scf .dd), run1 3 (exec_jr_c_e .dd), run0 2 exec_add_ix_sp,
   runW 4 (exec_ld_a__nn .dd), run0 2 (exec_dec_sp .dd), run0 2 (exec_inc_a .dd),
   run0 2 (exec_dec_a .dd), run1 3 (exec_ld_a_n .dd), run0 2 (exec_ccf .dd)]

def ddRun4 : List RunCell :=
  [run0 2 (exec_ld_b_b .dd), run0 2 (exec_ld_b_c .dd), run0 2 (exec_ld_b_d .dd),
   run0 2 (exec_ld_b_e .dd), run0 2 exec_ld_b_ixh, run0 2 exec_ld_b_ixl, run1 3 exec_ld_b__ixd,
   run0 2 (exec_ld_b_a .dd), run0 2 (exec_ld_c_b .dd), run0 2 (exec_ld_c_c .dd),
   run0 2 (exec_ld_c_d .dd), run0 2 (exec_ld_c_e .dd), run0 2 exec_ld_c_ixh, run0 2 exec_ld_c_ixl,
   run1 3 exec_ld_c__ixd, run0 2 (exec_ld_c_a .dd)]

def ddRun5 : List RunCell :=
  [run0 2 (exec_ld_d_b .dd), run0 2 (exec_ld_d_c .dd), run0 2 (exec_ld_d_d .dd),
   run0 2 (exec_ld_d_e .dd), run0 2 exec_ld_d_ixh, run0 2 exec_ld_d_ixl, run1 3 exec_ld_d__ixd,
   run0 2 (exec_ld_d_a .dd), run0 2 (exec_ld_e_b .dd), run0 2 (exec_ld_e_c .dd),
   run0 2 (exec_ld_e_d .dd), run0 2 (exec_ld_e_e .dd), run0 2 exec_ld_e_ixh, run0 2 exec_ld_e_ixl,
   run1 3 exec_ld_e__ixd, run0 2 (exec_ld_e_a .dd)]

def ddRun6 : List RunCell :=
  [run0 2 exec_ld_ixh_b, run0 2 exec_ld_ixh_c, run0 2 exec_ld_ixh_d, run0 2 exec_ld_ixh_e,
   run0 2 exec_ld_ixh_ixh, run0 2 exec_ld_ixh_ixl, run1 3 exec_ld_h__ixd, run0 2 exec_ld_ixh_a,
   run0 2 exec_ld_ixl_b, run0 2 exec_ld_ixl_c, run0 2 exec_ld_ixl_d, run0 2 exec_ld_ixl_e,
   run0 2 exec_ld_ixl_ixh, run0 2 exec_ld_ixl_ixl, run1 3 exec_ld_l__ixd, run0 2 exec_ld_ixl_a]

def ddRun7 : List RunCell :=
  [run1 3 exec_ld__ixd__b, run1 3 exec_ld__ixd__c, run1 3 exec_ld__ixd__d, run1 3 exec_ld__ixd__e,
   run1 3 exec_ld__ixd__h, run1 3 exec_ld__ixd__l, run0 2 (exec_halt .dd), run1 3 exec_ld__ixd__a,
   run0 2 (exec_ld_a_b .dd), run0 2 (exec_ld_a_c .dd), run0 2 (exec_ld_a_d .dd),
   run0 2 (exec_ld_a_e .dd), run0 2 exec_ld_a_ixh, run0 2 exec_ld_a_ixl, run1 3 exec_ld_a__ixd,
   run0 2 (exec_ld_a_a .dd)]

def ddRun8 : List RunCell :=
  [run0 2 (exec_add_a_b .dd), run0 2 (exec_add_a_c .dd), run0 2 (exec_add_a_d .dd),
   run0 2 (exec_add_a_e .dd), run0 2 exec_add_a_ixh, run0 2 exec_add_a_ixl, run1 3 exec_add_a__ixd,
   run0 2 (exec_add_a_a .dd), run0 2 (exec_adc_a_b .dd), run0 2 (exec_adc_a_c .dd),
   run0 2 (exec_adc_a_d .dd), run0 2 (exec_adc_a_e .dd), run0 2 exec_adc_a_ixh,
   run0 2 exec_adc_a_ixl, run1 3 exec_adc_a__ixd, run0 2 (exec_adc_a_a .dd)]

def ddRun9 : List RunCell :=
  [run0 2 (exec_sub_b .dd), run0 2 (exec_sub_c .dd), run0 2 (exec_sub_d .dd),
   run0 2 (exec_sub_e .dd), run0 2 exec_sub_ixh, run0 2 exec_sub_ixl, run1 3 exec_sub__ixd,
   run0 2 (exec_sub_a .dd), run0 2 (exec_sbc_a_b .dd), run0 2 (exec_sbc_a_c .dd),
   run0 2 (exec_sbc_a_d .dd), run0 2 (exec_sbc_a_e .dd), run0 2 exec_sbc_a_ixh,
   run0 2 exec_sbc_a_ixl, run1 3 exec_sbc_a__ixd, run0 2 (exec_sbc_a_a .dd)]

def ddRunA : List RunCell :=
  [run0 2 (exec_and_b .dd), run0 2 (exec_and_c .dd), run0 2 (exec_and_d .dd),
   run0 2 (exec_and_e .dd), run0 2 exec_and_ixh, run0 2 exec_and_ixl, run1 3 exec_and__ixd,
   run0 2 (exec_and_a .dd), run0 2 (exec_xor_b .dd), run0 2 (exec_xor_c .dd),
   run0 2 (exec_xor_d .dd), run0 2 (exec_xor_e .dd), run0 2 exec_xor_ixh, run0 2 exec_xor_ixl,
   run1 3 exec_xor__ixd, run0 2 (exec_xor_a .dd)]

def ddRunB : List RunCell :=
  [run0 2 (exec_or_b .dd), run0 2 (exec_or_c .dd), run0 2 (exec_or_d .dd), run0 2 (exec_or_e .dd),
   run0 2 exec_or_ixh, run0 2 exec_or_ixl, run1 3 exec_or__ixd, run0 2 (exec_or_a .dd),
   run0 2 (exec_cp_b .dd), run0 2 (exec_cp_c .dd), run0 2 (exec_cp_d .dd), run0 2 (exec_cp_e .dd),
   run0 2 exec_cp_ixh, run0 2 exec_cp_ixl, run1 3 exec_cp__ixd, run0 2 (exec_cp_a .dd)]

def ddRunC : List RunCell :=
  [run0 2 (exec_ret_nz .dd), run0 2 (exec_pop_bc .dd), runW 4 (exec_jp_nz_nn .dd),
   runW 4 (exec_jp_nn .dd), runW 4 (exec_call_nz_nn .dd), run0 2 (exec_push_bc .dd),
   run1 3 (exec_add_a_n .dd), run0 2 (exec_rst_00h .dd), run0 2 (exec_ret_z .dd),
   run0 2 (exec_ret .dd), runW 4 (exec_jp_z_nn .dd), run0 2 exec_prefix_ddcb,
   runW 4 (exec_call_z_nn .dd), runW 4 (exec_call_nn .dd), run1 3 (exec_adc_a_n .dd),
   run0 2 (exec_rst_08h .dd)]

def ddRunD : List RunCell :=
  [run0 2 (exec_ret_nc .dd), run0 2 (exec_pop_de .dd), runW 4 (exec_jp_nc_nn .dd),
   run1 3 (exec_out__n__a .dd), runW 4 (exec_call_nc_nn .dd), run0 2 (exec_push_de .dd),
   run1 3 (exec_sub_n .dd), run0 2 (exec_rst_10h .dd), run0 2 (exec_ret_c .dd),
   run0 2 (exec_exx .dd), runW 4 (exec_jp_c_nn .dd), run1 3 (exec_in_a__n .dd),
   runW 4 (exec_call_c_nn .dd), run0 2 (exec_prefix_dd__supersedes .ix), run1 3 (exec_sbc_a_n .dd),
   run0 2 (exec_rst_18h .dd)]

def ddRunE : List RunCell :=
  [run0 2 (exec_ret_po .dd), run0 2 exec_pop_ix, runW 4 (exec_jp_po_nn .dd), run0 2 exec_ex__sp__ix,
   runW 4 (exec_call_po_nn .dd), run0 2 exec_push_ix, run1 3 (exec_and_n .dd),
   run0 2 (exec_rst_20h .dd), run0 2 (exec_ret_pe .dd), run0 2 exec_jp__ix,
   runW 4 (exec_jp_pe_nn .dd), run0 2 (exec_ex_de_hl .dd), runW 4 (exec_call_pe_nn .dd),
   run0 2 (exec_prefix_ed__index_prefix_dropped .ix), run1 3 (exec_xor_n .dd),
   run0 2 (exec_rst_28h .dd)]

def ddRunF : List RunCell :=
  [run0 2 (exec_ret_p .dd), run0 2 (exec_pop_af .dd), runW 4 (exec_jp_p_nn .dd),
   run0 2 (exec_di .dd), runW 4 (exec_call_p_nn .dd), run0 2 (exec_push_af .dd),
   run1 3 (exec_or_n .dd), run0 2 (exec_rst_30h .dd), run0 2 (exec_ret_m .dd), run0 2 exec_ld_sp_ix,
   runW 4 (exec_jp_m_nn .dd), run0 2 (exec_ei .dd), runW 4 (exec_call_m_nn .dd),
   run0 2 (exec_prefix_fd__supersedes .ix), run1 3 (exec_cp_n .dd), run0 2 (exec_rst_38h .dd)]

/-- The meanings of the DD table. -/
def ddRun : List (List RunCell) :=
  [ddRun0, ddRun1, ddRun2, ddRun3, ddRun4, ddRun5, ddRun6, ddRun7,
   ddRun8, ddRun9, ddRunA, ddRunB, ddRunC, ddRunD, ddRunE, ddRunF]

theorem ddRun0_eq : ddRow0.map runOf = ddRun0 := rfl
theorem ddRun1_eq : ddRow1.map runOf = ddRun1 := rfl
theorem ddRun2_eq : ddRow2.map runOf = ddRun2 := rfl
theorem ddRun3_eq : ddRow3.map runOf = ddRun3 := rfl
theorem ddRun4_eq : ddRow4.map runOf = ddRun4 := rfl
theorem ddRun5_eq : ddRow5.map runOf = ddRun5 := rfl
theorem ddRun6_eq : ddRow6.map runOf = ddRun6 := rfl
theorem ddRun7_eq : ddRow7.map runOf = ddRun7 := rfl
theorem ddRun8_eq : ddRow8.map runOf = ddRun8 := rfl
theorem ddRun9_eq : ddRow9.map runOf = ddRun9 := rfl
theorem ddRunA_eq : ddRowA.map runOf = ddRunA := rfl
theorem ddRunB_eq : ddRowB.map runOf = ddRunB := rfl
theorem ddRunC_eq : ddRowC.map runOf = ddRunC := rfl
theorem ddRunD_eq : ddRowD.map runOf = ddRunD := rfl
theorem ddRunE_eq : ddRowE.map runOf = ddRunE := rfl
theorem ddRunF_eq : ddRowF.map runOf = ddRunF := rfl

/-- The table of meanings is the decoded table, cell by cell. -/
theorem ddRun_eq : ddTable.map (List.map runOf) = ddRun := by
  simp only [ddTable, ddRun, List.map_cons, List.map_nil, ddRun0_eq, ddRun1_eq, ddRun2_eq, ddRun3_eq, ddRun4_eq, ddRun5_eq, ddRun6_eq, ddRun7_eq, ddRun8_eq, ddRun9_eq, ddRunA_eq, ddRunB_eq, ddRunC_eq, ddRunD_eq, ddRunE_eq, ddRunF_eq]

def fdRun0 : List RunCell :=
  [run0 2 (exec_nop .fd), runW 4 (exec_ld_bc_nn .fd), run0 2 (exec_ld__bc__a .fd),
   run0 2 (exec_inc_bc .fd), run0 2 (exec_inc_b .fd), run0 2 (exec_dec_b .fd),
   run1 3 (exec_ld_b_n .fd), run0 2 (exec_rlca .fd), run0 2 (exec_ex_af_af .fd),
   run0 2 exec_add_iy_bc, run0 2 (exec_ld_a__bc .fd), run0 2 (exec_dec_bc .fd),
   run0 2 (exec_inc_c .fd), run0 2 (exec_dec_c .fd), run1 3 (exec_ld_c_n .fd),
   run0 2 (exec_rrca .fd)]

def fdRun1 : List RunCell :=
  [run1 3 (exec_djnz_e .fd), runW 4 (exec_ld_de_nn .fd), run0 2 (exec_ld__de__a .fd),
   run0 2 (exec_inc_de .fd), run0 2 (exec_inc_d .fd), run0 2 (exec_dec_d .fd),
   run1 3 (exec_ld_d_n .fd), run0 2 (exec_rla .fd), run1 3 (exec_jr_e .fd), run0 2 exec_add_iy_de,
   run0 2 (exec_ld_a__de .fd), run0 2 (exec_dec_de .fd), run0 2 (exec_inc_e .fd),
   run0 2 (exec_dec_e .fd), run1 3 (exec_ld_e_n .fd), run0 2 (exec_rra .fd)]

def fdRun2 : List RunCell :=
  [run1 3 (exec_jr_nz_e .fd), runW 4 exec_ld_iy_nn, runW 4 exec_ld__nn__iy, run0 2 exec_inc_iy,
   run0 2 exec_inc_iyh, run0 2 exec_dec_iyh, run1 3 exec_ld_iyh_n, run0 2 (exec_daa .fd),
   run1 3 (exec_jr_z_e .fd), run0 2 exec_add_iy_iy, runW 4 exec_ld_iy__nn, run0 2 exec_dec_iy,
   run0 2 exec_inc_iyl, run0 2 exec_dec_iyl, run1 3 exec_ld_iyl_n, run0 2 (exec_cpl .fd)]

def fdRun3 : List RunCell :=
  [run1 3 (exec_jr_nc_e .fd), runW 4 (exec_ld_sp_nn .fd), runW 4 (exec_ld__nn__a .fd),
   run0 2 (exec_inc_sp .fd), run1 3 exec_inc__iyd, run1 3 exec_dec__iyd, run2 4 exec_ld__iyd__n,
   run0 2 (exec_scf .fd), run1 3 (exec_jr_c_e .fd), run0 2 exec_add_iy_sp,
   runW 4 (exec_ld_a__nn .fd), run0 2 (exec_dec_sp .fd), run0 2 (exec_inc_a .fd),
   run0 2 (exec_dec_a .fd), run1 3 (exec_ld_a_n .fd), run0 2 (exec_ccf .fd)]

def fdRun4 : List RunCell :=
  [run0 2 (exec_ld_b_b .fd), run0 2 (exec_ld_b_c .fd), run0 2 (exec_ld_b_d .fd),
   run0 2 (exec_ld_b_e .fd), run0 2 exec_ld_b_iyh, run0 2 exec_ld_b_iyl, run1 3 exec_ld_b__iyd,
   run0 2 (exec_ld_b_a .fd), run0 2 (exec_ld_c_b .fd), run0 2 (exec_ld_c_c .fd),
   run0 2 (exec_ld_c_d .fd), run0 2 (exec_ld_c_e .fd), run0 2 exec_ld_c_iyh, run0 2 exec_ld_c_iyl,
   run1 3 exec_ld_c__iyd, run0 2 (exec_ld_c_a .fd)]

def fdRun5 : List RunCell :=
  [run0 2 (exec_ld_d_b .fd), run0 2 (exec_ld_d_c .fd), run0 2 (exec_ld_d_d .fd),
   run0 2 (exec_ld_d_e .fd), run0 2 exec_ld_d_iyh, run0 2 exec_ld_d_iyl, run1 3 exec_ld_d__iyd,
   run0 2 (exec_ld_d_a .fd), run0 2 (exec_ld_e_b .fd), run0 2 (exec_ld_e_c .fd),
   run0 2 (exec_ld_e_d .fd), run0 2 (exec_ld_e_e .fd), run0 2 exec_ld_e_iyh, run0 2 exec_ld_e_iyl,
   run1 3 exec_ld_e__iyd, run0 2 (exec_ld_e_a .fd)]

def fdRun6 : List RunCell :=
  [run0 2 exec_ld_iyh_b, run0 2 exec_ld_iyh_c, run0 2 exec_ld_iyh_d, run0 2 exec_ld_iyh_e,
   run0 2 exec_ld_iyh_iyh, run0 2 exec_ld_iyh_iyl, run1 3 exec_ld_h__iyd, run0 2 exec_ld_iyh_a,
   run0 2 exec_ld_iyl_b, run0 2 exec_ld_iyl_c, run0 2 exec_ld_iyl_d, run0 2 exec_ld_iyl_e,
   run0 2 exec_ld_iyl_iyh, run0 2 exec_ld_iyl_iyl, run1 3 exec_ld_l__iyd, run0 2 exec_ld_iyl_a]

def fdRun7 : List RunCell :=
  [run1 3 exec_ld__iyd__b, run1 3 exec_ld__iyd__c, run1 3 exec_ld__iyd__d, run1 3 exec_ld__iyd__e,
   run1 3 exec_ld__iyd__h, run1 3 exec_ld__iyd__l, run0 2 (exec_halt .fd), run1 3 exec_ld__iyd__a,
   run0 2 (exec_ld_a_b .fd), run0 2 (exec_ld_a_c .fd), run0 2 (exec_ld_a_d .fd),
   run0 2 (exec_ld_a_e .fd), run0 2 exec_ld_a_iyh, run0 2 exec_ld_a_iyl, run1 3 exec_ld_a__iyd,
   run0 2 (exec_ld_a_a .fd)]

def fdRun8 : List RunCell :=
  [run0 2 (exec_add_a_b .fd), run0 2 (exec_add_a_c .fd), run0 2 (exec_add_a_d .fd),
   run0 2 (exec_add_a_e .fd), run0 2 exec_add_a_iyh, run0 2 exec_add_a_iyl, run1 3 exec_add_a__iyd,
   run0 2 (exec_add_a_a .fd), run0 2 (exec_adc_a_b .fd), run0 2 (exec_adc_a_c .fd),
   run0 2 (exec_adc_a_d .fd), run0 2 (exec_adc_a_e .fd), run0 2 exec_adc_a_iyh,
   run0 2 exec_adc_a_iyl, run1 3 exec_adc_a__iyd, run0 2 (exec_adc_a_a .fd)]

def fdRun9 : List RunCell :=
  [run0 2 (exec_sub_b .fd), run0 2 (exec_sub_c .fd), run0 2 (exec_sub_d .fd),
   run0 2 (exec_sub_e .fd), run0 2 exec_sub_iyh, run0 2 exec_sub_iyl, run1 3 exec_sub__iyd,
   run0 2 (exec_sub_a .fd), run0 2 (exec_sbc_a_b .fd), run0 2 (exec_sbc_a_c .fd),
   run0 2 (exec_sbc_a_d .fd), run0 2 (exec_sbc_a_e .fd), run0 2 exec_sbc_a_iyh,
   run0 2 exec_sbc_a_iyl, run1 3 exec_sbc_a__iyd, run0 2 (exec_sbc_a_a .fd)]

def fdRunA : List RunCell :=
  [run0 2 (exec_and_b .fd), run0 2 (exec_and_c .fd), run0 2 (exec_and_d .fd),
   run0 2 (exec_and_e .fd), run0 2 exec_and_iyh, run0 2 exec_and_iyl, run1 3 exec_and__iyd,
   run0 2 (exec_and_a .fd), run0 2 (exec_xor_b .fd), run0 2 (exec_xor_c .fd),
   run0 2 (exec_xor_d .fd), run0 2 (exec_xor_e .fd), run0 2 exec_xor_iyh, run0 2 exec_xor_iyl,
   run1 3 exec_xor__iyd, run0 2 (exec_xor_a .fd)]

def fdRunB : List RunCell :=
  [run0 2 (exec_or_b .fd), run0 2 (exec_or_c .fd), run0 2 (exec_or_d .fd), run0 2 (exec_or_e .fd),
   run0 2 exec_or_iyh, run0 2 exec_or_iyl, run1 3 exec_or__iyd, run0 2 (exec_or_a .fd),
   run0 2 (exec_cp_b .fd), run0 2 (exec_cp_c .fd), run0 2 (exec_cp_d .fd), run0 2 (exec_cp_e .fd),
   run0 2 exec_cp_iyh, run0 2 exec_cp_iyl, run1 3 exec_cp__iyd, run0 2 (exec_cp_a .fd)]

def fdRunC : List RunCell :=
  [run0 2 (exec_ret_nz .fd), run0 2 (exec_pop_bc .fd), runW 4 (exec_jp_nz_nn .fd),
   runW 4 (exec_jp_nn .fd), runW 4 (exec_call_nz_nn .fd), run0 2 (exec_push_bc .fd),
   run1 3 (exec_add_a_n .fd), run0 2 (exec_rst_00h .fd), run0 2 (exec_ret_z .fd),
   run0 2 (exec_ret .fd), runW 4 (exec_jp_z_nn .fd), run0 2 exec_prefix_fdcb,
   runW 4 (exec_call_z_nn .fd), runW 4 (exec_call_nn .fd), run1 3 (exec_adc_a_n .fd),
   run0 2 (exec_rst_08h .fd)]

def fdRunD : List RunCell :=
  [run0 2 (exec_ret_nc .fd), run0 2 (exec_pop_de .fd), runW 4 (exec_jp_nc_nn .fd),
   run1 3 (exec_out__n__a .fd), runW 4 (exec_call_nc_nn .fd), run0 2 (exec_push_de .fd),
   run1 3 (exec_sub_n .fd), run0 2 (exec_rst_10h .fd), run0 2 (exec_ret_c .fd),
   run0 2 (exec_exx .fd), runW 4 (exec_jp_c_nn .fd), run1 3 (exec_in_a__n .fd),
   runW 4 (exec_call_c_nn .fd), run0 2 (exec_prefix_dd__supersedes .iy), run1 3 (exec_sbc_a_n .fd),
   run0 2 (exec_rst_18h .fd)]

def fdRunE : List RunCell :=
  [run0 2 (exec_ret_po .fd), run0 2 exec_pop_iy, runW 4 (exec_jp_po_nn .fd), run0 2 exec_ex__sp__iy,
   runW 4 (exec_call_po_nn .fd), run0 2 exec_push_iy, run1 3 (exec_and_n .fd),
   run0 2 (exec_rst_20h .fd), run0 2 (exec_ret_pe .fd), run0 2 exec_jp__iy,
   runW 4 (exec_jp_pe_nn .fd), run0 2 (exec_ex_de_hl .fd), runW 4 (exec_call_pe_nn .fd),
   run0 2 (exec_prefix_ed__index_prefix_dropped .iy), run1 3 (exec_xor_n .fd),
   run0 2 (exec_rst_28h .fd)]

def fdRunF : List RunCell :=
  [run0 2 (exec_ret_p .fd), run0 2 (exec_pop_af .fd), runW 4 (exec_jp_p_nn .fd),
   run0 2 (exec_di .fd), runW 4 (exec_call_p_nn .fd), run0 2 (exec_push_af .fd),
   run1 3 (exec_or_n .fd), run0 2 (exec_rst_30h .fd), run0 2 (exec_ret_m .fd), run0 2 exec_ld_sp_iy,
   runW 4 (exec_jp_m_nn .fd), run0 2 (exec_ei .fd), runW 4 (exec_call_m_nn .fd),
   run0 2 (exec_prefix_fd__supersedes .iy), run1 3 (exec_cp_n .fd), run0 2 (exec_rst_38h .fd)]

/-- The meanings of the FD table. -/
def fdRun : List (List RunCell) :=
  [fdRun0, fdRun1, fdRun2, fdRun3, fdRun4, fdRun5, fdRun6, fdRun7,
   fdRun8, fdRun9, fdRunA, fdRunB, fdRunC, fdRunD, fdRunE, fdRunF]

theorem fdRun0_eq : fdRow0.map runOf = fdRun0 := rfl
theorem fdRun1_eq : fdRow1.map runOf = fdRun1 := rfl
theorem fdRun2_eq : fdRow2.map runOf = fdRun2 := rfl
theorem fdRun3_eq : fdRow3.map runOf = fdRun3 := rfl
theorem fdRun4_eq : fdRow4.map runOf = fdRun4 := rfl
theorem fdRun5_eq : fdRow5.map runOf = fdRun5 := rfl
theorem fdRun6_eq : fdRow6.map runOf = fdRun6 := rfl
theorem fdRun7_eq : fdRow7.map runOf = fdRun7 := rfl
theorem fdRun8_eq : fdRow8.map runOf = fdRun8 := rfl
theorem fdRun9_eq : fdRow9.map runOf = fdRun9 := rfl
theorem fdRunA_eq : fdRowA.map runOf = fdRunA := rfl
theorem fdRunB_eq : fdRowB.map runOf = fdRunB := rfl
theorem fdRunC_eq : fdRowC.map runOf = fdRunC := rfl
theorem fdRunD_eq : fdRowD.map runOf = fdRunD := rfl
theorem fdRunE_eq : fdRowE.map runOf = fdRunE := rfl
theorem fdRunF_eq : fdRowF.map runOf = fdRunF := rfl

/-- The table of meanings is the decoded table, cell by cell. -/
theorem fdRun_eq : fdTable.map (List.map runOf) = fdRun := by
  simp only [fdTable, fdRun, List.map_cons, List.map_nil, fdRun0_eq, fdRun1_eq, fdRun2_eq, fdRun3_eq, fdRun4_eq, fdRun5_eq, fdRun6_eq, fdRun7_eq, fdRun8_eq, fdRun9_eq, fdRunA_eq, fdRunB_eq, fdRunC_eq, fdRunD_eq, fdRunE_eq, fdRunF_eq]

def ddcbRun0 : List RunCell :=
  [run1 4 exec_rlc__ixd__b, run1 4 exec_rlc__ixd__c, run1 4 exec_rlc__ixd__d,
   run1 4 exec_rlc__ixd__e, run1 4 exec_rlc__ixd__h, run1 4 exec_rlc__ixd__l, run1 4 exec_rlc__ixd,
   run1 4 exec_rlc__ixd__a, run1 4 exec_rrc__ixd__b, run1 4 exec_rrc__ixd__c,
   run1 4 exec_rrc__ixd__d, run1 4 exec_rrc__ixd__e, run1 4 exec_rrc__ixd__h,
   run1 4 exec_rrc__ixd__l, run1 4 exec_rrc__ixd, run1 4 exec_rrc__ixd__a]

def ddcbRun1 : List RunCell :=
  [run1 4 exec_rl__ixd__b, run1 4 exec_rl__ixd__c, run1 4 exec_rl__ixd__d, run1 4 exec_rl__ixd__e,
   run1 4 exec_rl__ixd__h, run1 4 exec_rl__ixd__l, run1 4 exec_rl__ixd, run1 4 exec_rl__ixd__a,
   run1 4 exec_rr__ixd__b, run1 4 exec_rr__ixd__c, run1 4 exec_rr__ixd__d, run1 4 exec_rr__ixd__e,
   run1 4 exec_rr__ixd__h, run1 4 exec_rr__ixd__l, run1 4 exec_rr__ixd, run1 4 exec_rr__ixd__a]

def ddcbRun2 : List RunCell :=
  [run1 4 exec_sla__ixd__b, run1 4 exec_sla__ixd__c, run1 4 exec_sla__ixd__d,
   run1 4 exec_sla__ixd__e, run1 4 exec_sla__ixd__h, run1 4 exec_sla__ixd__l, run1 4 exec_sla__ixd,
   run1 4 exec_sla__ixd__a, run1 4 exec_sra__ixd__b, run1 4 exec_sra__ixd__c,
   run1 4 exec_sra__ixd__d, run1 4 exec_sra__ixd__e, run1 4 exec_sra__ixd__h,
   run1 4 exec_sra__ixd__l, run1 4 exec_sra__ixd, run1 4 exec_sra__ixd__a]

def ddcbRun3 : List RunCell :=
  [run1 4 exec_sll__ixd__b, run1 4 exec_sll__ixd__c, run1 4 exec_sll__ixd__d,
   run1 4 exec_sll__ixd__e, run1 4 exec_sll__ixd__h, run1 4 exec_sll__ixd__l, run1 4 exec_sll__ixd,
   run1 4 exec_sll__ixd__a, run1 4 exec_srl__ixd__b, run1 4 exec_srl__ixd__c,
   run1 4 exec_srl__ixd__d, run1 4 exec_srl__ixd__e, run1 4 exec_srl__ixd__h,
   run1 4 exec_srl__ixd__l, run1 4 exec_srl__ixd, run1 4 exec_srl__ixd__a]

def ddcbRun4 : List RunCell :=
  [run1 4 (exec_bit_0__ixd 0#3), run1 4 (exec_bit_0__ixd 1#3), run1 4 (exec_bit_0__ixd 2#3),
   run1 4 (exec_bit_0__ixd 3#3), run1 4 (exec_bit_0__ixd 4#3), run1 4 (exec_bit_0__ixd 5#3),
   run1 4 (exec_bit_0__ixd 6#3), run1 4 (exec_bit_0__ixd 7#3), run1 4 (exec_bit_1__ixd 0#3),
   run1 4 (exec_bit_1__ixd 1#3), run1 4 (exec_bit_1__ixd 2#3), run1 4 (exec_bit_1__ixd 3#3),
   run1 4 (exec_bit_1__ixd 4#3), run1 4 (exec_bit_1__ixd 5#3), run1 4 (exec_bit_1__ixd 6#3),
   run1 4 (exec_bit_1__ixd 7#3)]

def ddcbRun5 : List RunCell :=
  [run1 4 (exec_bit_2__ixd 0#3), run1 4 (exec_bit_2__ixd 1#3), run1 4 (exec_bit_2__ixd 2#3),
   run1 4 (exec_bit_2__ixd 3#3), run1 4 (exec_bit_2__ixd 4#3), run1 4 (exec_bit_2__ixd 5#3),
   run1 4 (exec_bit_2__ixd 6#3), run1 4 (exec_bit_2__ixd 7#3), run1 4 (exec_bit_3__ixd 0#3),
   run1 4 (exec_bit_3__ixd 1#3), run1 4 (exec_bit_3__ixd 2#3), run1 4 (exec_bit_3__ixd 3#3),
   run1 4 (exec_bit_3__ixd 4#3), run1 4 (exec_bit_3__ixd 5#3), run1 4 (exec_bit_3__ixd 6#3),
   run1 4 (exec_bit_3__ixd 7#3)]

def ddcbRun6 : List RunCell :=
  [run1 4 (exec_bit_4__ixd 0#3), run1 4 (exec_bit_4__ixd 1#3), run1 4 (exec_bit_4__ixd 2#3),
   run1 4 (exec_bit_4__ixd 3#3), run1 4 (exec_bit_4__ixd 4#3), run1 4 (exec_bit_4__ixd 5#3),
   run1 4 (exec_bit_4__ixd 6#3), run1 4 (exec_bit_4__ixd 7#3), run1 4 (exec_bit_5__ixd 0#3),
   run1 4 (exec_bit_5__ixd 1#3), run1 4 (exec_bit_5__ixd 2#3), run1 4 (exec_bit_5__ixd 3#3),
   run1 4 (exec_bit_5__ixd 4#3), run1 4 (exec_bit_5__ixd 5#3), run1 4 (exec_bit_5__ixd 6#3),
   run1 4 (exec_bit_5__ixd 7#3)]

def ddcbRun7 : List RunCell :=
  [run1 4 (exec_bit_6__ixd 0#3), run1 4 (exec_bit_6__ixd 1#3), run1 4 (exec_bit_6__ixd 2#3),
   run1 4 (exec_bit_6__ixd 3#3), run1 4 (exec_bit_6__ixd 4#3), run1 4 (exec_bit_6__ixd 5#3),
   run1 4 (exec_bit_6__ixd 6#3), run1 4 (exec_bit_6__ixd 7#3), run1 4 (exec_bit_7__ixd 0#3),
   run1 4 (exec_bit_7__ixd 1#3), run1 4 (exec_bit_7__ixd 2#3), run1 4 (exec_bit_7__ixd 3#3),
   run1 4 (exec_bit_7__ixd 4#3), run1 4 (exec_bit_7__ixd 5#3), run1 4 (exec_bit_7__ixd 6#3),
   run1 4 (exec_bit_7__ixd 7#3)]

def ddcbRun8 : List RunCell :=
  [run1 4 exec_res_0__ixd__b, run1 4 exec_res_0__ixd__c, run1 4 exec_res_0__ixd__d,
   run1 4 exec_res_0__ixd__e, run1 4 exec_res_0__ixd__h, run1 4 exec_res_0__ixd__l,
   run1 4 exec_res_0__ixd, run1 4 exec_res_0__ixd__a, run1 4 exec_res_1__ixd__b,
   run1 4 exec_res_1__ixd__c, run1 4 exec_res_1__ixd__d, run1 4 exec_res_1__ixd__e,
   run1 4 exec_res_1__ixd__h, run1 4 exec_res_1__ixd__l, run1 4 exec_res_1__ixd,
   run1 4 exec_res_1__ixd__a]

def ddcbRun9 : List RunCell :=
  [run1 4 exec_res_2__ixd__b, run1 4 exec_res_2__ixd__c, run1 4 exec_res_2__ixd__d,
   run1 4 exec_res_2__ixd__e, run1 4 exec_res_2__ixd__h, run1 4 exec_res_2__ixd__l,
   run1 4 exec_res_2__ixd, run1 4 exec_res_2__ixd__a, run1 4 exec_res_3__ixd__b,
   run1 4 exec_res_3__ixd__c, run1 4 exec_res_3__ixd__d, run1 4 exec_res_3__ixd__e,
   run1 4 exec_res_3__ixd__h, run1 4 exec_res_3__ixd__l, run1 4 exec_res_3__ixd,
   run1 4 exec_res_3__ixd__a]

def ddcbRunA : List RunCell :=
  [run1 4 exec_res_4__ixd__b, run1 4 exec_res_4__ixd__c, run1 4 exec_res_4__ixd__d,
   run1 4 exec_res_4__ixd__e, run1 4 exec_res_4__ixd__h, run1 4 exec_res_4__ixd__l,
   run1 4 exec_res_4__ixd, run1 4 exec_res_4__ixd__a, run1 4 exec_res_5__ixd__b,
   run1 4 exec_res_5__ixd__c, run1 4 exec_res_5__ixd__d, run1 4 exec_res_5__ixd__e,
   run1 4 exec_res_5__ixd__h, run1 4 exec_res_5__ixd__l, run1 4 exec_res_5__ixd,
   run1 4 exec_res_5__ixd__a]

def ddcbRunB : List RunCell :=
  [run1 4 exec_res_6__ixd__b, run1 4 exec_res_6__ixd__c, run1 4 exec_res_6__ixd__d,
   run1 4 exec_res_6__ixd__e, run1 4 exec_res_6__ixd__h, run1 4 exec_res_6__ixd__l,
   run1 4 exec_res_6__ixd, run1 4 exec_res_6__ixd__a, run1 4 exec_res_7__ixd__b,
   run1 4 exec_res_7__ixd__c, run1 4 exec_res_7__ixd__d, run1 4 exec_res_7__ixd__e,
   run1 4 exec_res_7__ixd__h, run1 4 exec_res_7__ixd__l, run1 4 exec_res_7__ixd,
   run1 4 exec_res_7__ixd__a]

def ddcbRunC : List RunCell :=
  [run1 4 exec_set_0__ixd__b, run1 4 exec_set_0__ixd__c, run1 4 exec_set_0__ixd__d,
   run1 4 exec_set_0__ixd__e, run1 4 exec_set_0__ixd__h, run1 4 exec_set_0__ixd__l,
   run1 4 exec_set_0__ixd, run1 4 exec_set_0__ixd__a, run1 4 exec_set_1__ixd__b,
   run1 4 exec_set_1__ixd__c, run1 4 exec_set_1__ixd__d, run1 4 exec_set_1__ixd__e,
   run1 4 exec_set_1__ixd__h, run1 4 exec_set_1__ixd__l, run1 4 exec_set_1__ixd,
   run1 4 exec_set_1__ixd__a]

def ddcbRunD : List RunCell :=
  [run1 4 exec_set_2__ixd__b, run1 4 exec_set_2__ixd__c, run1 4 exec_set_2__ixd__d,
   run1 4 exec_set_2__ixd__e, run1 4 exec_set_2__ixd__h, run1 4 exec_set_2__ixd__l,
   run1 4 exec_set_2__ixd, run1 4 exec_set_2__ixd__a, run1 4 exec_set_3__ixd__b,
   run1 4 exec_set_3__ixd__c, run1 4 exec_set_3__ixd__d, run1 4 exec_set_3__ixd__e,
   run1 4 exec_set_3__ixd__h, run1 4 exec_set_3__ixd__l, run1 4 exec_set_3__ixd,
   run1 4 exec_set_3__ixd__a]

def ddcbRunE : List RunCell :=
  [run1 4 exec_set_4__ixd__b, run1 4 exec_set_4__ixd__c, run1 4 exec_set_4__ixd__d,
   run1 4 exec_set_4__ixd__e, run1 4 exec_set_4__ixd__h, run1 4 exec_set_4__ixd__l,
   run1 4 exec_set_4__ixd, run1 4 exec_set_4__ixd__a, run1 4 exec_set_5__ixd__b,
   run1 4 exec_set_5__ixd__c, run1 4 exec_set_5__ixd__d, run1 4 exec_set_5__ixd__e,
   run1 4 exec_set_5__ixd__h, run1 4 exec_set_5__ixd__l, run1 4 exec_set_5__ixd,
   run1 4 exec_set_5__ixd__a]

def ddcbRunF : List RunCell :=
  [run1 4 exec_set_6__ixd__b, run1 4 exec_set_6__ixd__c, run1 4 exec_set_6__ixd__d,
   run1 4 exec_set_6__ixd__e, run1 4 exec_set_6__ixd__h, run1 4 exec_set_6__ixd__l,
   run1 4 exec_set_6__ixd, run1 4 exec_set_6__ixd__a, run1 4 exec_set_7__ixd__b,
   run1 4 exec_set_7__ixd__c, run1 4 exec_set_7__ixd__d, run1 4 exec_set_7__ixd__e,
   run1 4 exec_set_7__ixd__h, run1 4 exec_set_7__ixd__l, run1 4 exec_set_7__ixd,
   run1 4 exec_set_7__ixd__a]

/-- The meanings of the DDCB table. -/
def ddcbRun : List (List RunCell) :=
  [ddcbRun0, ddcbRun1, ddcbRun2, ddcbRun3, ddcbRun4, ddcbRun5, ddcbRun6, ddcbRun7,
   ddcbRun8, ddcbRun9, ddcbRunA, ddcbRunB, ddcbRunC, ddcbRunD, ddcbRunE, ddcbRunF]

theorem ddcbRun0_eq : ddcbRow0.map runOf = ddcbRun0 := rfl
theorem ddcbRun1_eq : ddcbRow1.map runOf = ddcbRun1 := rfl
theorem ddcbRun2_eq : ddcbRow2.map runOf = ddcbRun2 := rfl
theorem ddcbRun3_eq : ddcbRow3.map runOf = ddcbRun3 := rfl
theorem ddcbRun4_eq : ddcbRow4.map runOf = ddcbRun4 := rfl
theorem ddcbRun5_eq : ddcbRow5.map runOf = ddcbRun5 := rfl
theorem ddcbRun6_eq : ddcbRow6.map runOf = ddcbRun6 := rfl
theorem ddcbRun7_eq : ddcbRow7.map runOf = ddcbRun7 := rfl
theorem ddcbRun8_eq : ddcbRow8.map runOf = ddcbRun8 := rfl
theorem ddcbRun9_eq : ddcbRow9.map runOf = ddcbRun9 := rfl
theorem ddcbRunA_eq : ddcbRowA.map runOf = ddcbRunA := rfl
theorem ddcbRunB_eq : ddcbRowB.map runOf = ddcbRunB := rfl
theorem ddcbRunC_eq : ddcbRowC.map runOf = ddcbRunC := rfl
theorem ddcbRunD_eq : ddcbRowD.map runOf = ddcbRunD := rfl
theorem ddcbRunE_eq : ddcbRowE.map runOf = ddcbRunE := rfl
theorem ddcbRunF_eq : ddcbRowF.map runOf = ddcbRunF := rfl

/-- The table of meanings is the decoded table, cell by cell. -/
theorem ddcbRun_eq : ddcbTable.map (List.map runOf) = ddcbRun := by
  simp only [ddcbTable, ddcbRun, List.map_cons, List.map_nil, ddcbRun0_eq, ddcbRun1_eq, ddcbRun2_eq, ddcbRun3_eq, ddcbRun4_eq, ddcbRun5_eq, ddcbRun6_eq, ddcbRun7_eq, ddcbRun8_eq, ddcbRun9_eq, ddcbRunA_eq, ddcbRunB_eq, ddcbRunC_eq, ddcbRunD_eq, ddcbRunE_eq, ddcbRunF_eq]

def fdcbRun0 : List RunCell :=
  [run1 4 exec_rlc__iyd__b, run1 4 exec_rlc__iyd__c, run1 4 exec_rlc__iyd__d,
   run1 4 exec_rlc__iyd__e, run1 4 exec_rlc__iyd__h, run1 4 exec_rlc__iyd__l, run1 4 exec_rlc__iyd,
   run1 4 exec_rlc__iyd__a, run1 4 exec_rrc__iyd__b, run1 4 exec_rrc__iyd__c,
   run1 4 exec_rrc__iyd__d, run1 4 exec_rrc__iyd__e, run1 4 exec_rrc__iyd__h,
   run1 4 exec_rrc__iyd__l, run1 4 exec_rrc__iyd, run1 4 exec_rrc__iyd__a]

def fdcbRun1 : List RunCell :=
  [run1 4 exec_rl__iyd__b, run1 4 exec_rl__iyd__c, run1 4 exec_rl__iyd__d, run1 4 exec_rl__iyd__e,
   run1 4 exec_rl__iyd__h, run1 4 exec_rl__iyd__l, run1 4 exec_rl__iyd, run1 4 exec_rl__iyd__a,
   run1 4 exec_rr__iyd__b, run1 4 exec_rr__iyd__c, run1 4 exec_rr__iyd__d, run1 4 exec_rr__iyd__e,
   run1 4 exec_rr__iyd__h, run1 4 exec_rr__iyd__l, run1 4 exec_rr__iyd, run1 4 exec_rr__iyd__a]

def fdcbRun2 : List RunCell :=
  [run1 4 exec_sla__iyd__b, run1 4 exec_sla__iyd__c, run1 4 exec_sla__iyd__d,
   run1 4 exec_sla__iyd__e, run1 4 exec_sla__iyd__h, run1 4 exec_sla__iyd__l, run1 4 exec_sla__iyd,
   run1 4 exec_sla__iyd__a, run1 4 exec_sra__iyd__b, run1 4 exec_sra__iyd__c,
   run1 4 exec_sra__iyd__d, run1 4 exec_sra__iyd__e, run1 4 exec_sra__iyd__h,
   run1 4 exec_sra__iyd__l, run1 4 exec_sra__iyd, run1 4 exec_sra__iyd__a]

def fdcbRun3 : List RunCell :=
  [run1 4 exec_sll__iyd__b, run1 4 exec_sll__iyd__c, run1 4 exec_sll__iyd__d,
   run1 4 exec_sll__iyd__e, run1 4 exec_sll__iyd__h, run1 4 exec_sll__iyd__l, run1 4 exec_sll__iyd,
   run1 4 exec_sll__iyd__a, run1 4 exec_srl__iyd__b, run1 4 exec_srl__iyd__c,
   run1 4 exec_srl__iyd__d, run1 4 exec_srl__iyd__e, run1 4 exec_srl__iyd__h,
   run1 4 exec_srl__iyd__l, run1 4 exec_srl__iyd, run1 4 exec_srl__iyd__a]

def fdcbRun4 : List RunCell :=
  [run1 4 (exec_bit_0__iyd 0#3), run1 4 (exec_bit_0__iyd 1#3), run1 4 (exec_bit_0__iyd 2#3),
   run1 4 (exec_bit_0__iyd 3#3), run1 4 (exec_bit_0__iyd 4#3), run1 4 (exec_bit_0__iyd 5#3),
   run1 4 (exec_bit_0__iyd 6#3), run1 4 (exec_bit_0__iyd 7#3), run1 4 (exec_bit_1__iyd 0#3),
   run1 4 (exec_bit_1__iyd 1#3), run1 4 (exec_bit_1__iyd 2#3), run1 4 (exec_bit_1__iyd 3#3),
   run1 4 (exec_bit_1__iyd 4#3), run1 4 (exec_bit_1__iyd 5#3), run1 4 (exec_bit_1__iyd 6#3),
   run1 4 (exec_bit_1__iyd 7#3)]

def fdcbRun5 : List RunCell :=
  [run1 4 (exec_bit_2__iyd 0#3), run1 4 (exec_bit_2__iyd 1#3), run1 4 (exec_bit_2__iyd 2#3),
   run1 4 (exec_bit_2__iyd 3#3), run1 4 (exec_bit_2__iyd 4#3), run1 4 (exec_bit_2__iyd 5#3),
   run1 4 (exec_bit_2__iyd 6#3), run1 4 (exec_bit_2__iyd 7#3), run1 4 (exec_bit_3__iyd 0#3),
   run1 4 (exec_bit_3__iyd 1#3), run1 4 (exec_bit_3__iyd 2#3), run1 4 (exec_bit_3__iyd 3#3),
   run1 4 (exec_bit_3__iyd 4#3), run1 4 (exec_bit_3__iyd 5#3), run1 4 (exec_bit_3__iyd 6#3),
   run1 4 (exec_bit_3__iyd 7#3)]

def fdcbRun6 : List RunCell :=
  [run1 4 (exec_bit_4__iyd 0#3), run1 4 (exec_bit_4__iyd 1#3), run1 4 (exec_bit_4__iyd 2#3),
   run1 4 (exec_bit_4__iyd 3#3), run1 4 (exec_bit_4__iyd 4#3), run1 4 (exec_bit_4__iyd 5#3),
   run1 4 (exec_bit_4__iyd 6#3), run1 4 (exec_bit_4__iyd 7#3), run1 4 (exec_bit_5__iyd 0#3),
   run1 4 (exec_bit_5__iyd 1#3), run1 4 (exec_bit_5__iyd 2#3), run1 4 (exec_bit_5__iyd 3#3),
   run1 4 (exec_bit_5__iyd 4#3), run1 4 (exec_bit_5__iyd 5#3), run1 4 (exec_bit_5__iyd 6#3),
   run1 4 (exec_bit_5__iyd 7#3)]

def fdcbRun7 : List RunCell :=
  [run1 4 (exec_bit_6__iyd 0#3), run1 4 (exec_bit_6__iyd 1#3), run1 4 (exec_bit_6__iyd 2#3),
   run1 4 (exec_bit_6__iyd 3#3), run1 4 (exec_bit_6__iyd 4#3), run1 4 (exec_bit_6__iyd 5#3),
   run1 4 (exec_bit_6__iyd 6#3), run1 4 (exec_bit_6__iyd 7#3), run1 4 (exec_bit_7__iyd 0#3),
   run1 4 (exec_bit_7__iyd 1#3), run1 4 (exec_bit_7__iyd 2#3), run1 4 (exec_bit_7__iyd 3#3),
   run1 4 (exec_bit_7__iyd 4#3), run1 4 (exec_bit_7__iyd 5#3), run1 4 (exec_bit_7__iyd 6#3),
   run1 4 (exec_bit_7__iyd 7#3)]

def fdcbRun8 : List RunCell :=
  [run1 4 exec_res_0__iyd__b, run1 4 exec_res_0__iyd__c, run1 4 exec_res_0__iyd__d,
   run1 4 exec_res_0__iyd__e, run1 4 exec_res_0__iyd__h, run1 4 exec_res_0__iyd__l,
   run1 4 exec_res_0__iyd, run1 4 exec_res_0__iyd__a, run1 4 exec_res_1__iyd__b,
   run1 4 exec_res_1__iyd__c, run1 4 exec_res_1__iyd__d, run1 4 exec_res_1__iyd__e,
   run1 4 exec_res_1__iyd__h, run1 4 exec_res_1__iyd__l, run1 4 exec_res_1__iyd,
   run1 4 exec_res_1__iyd__a]

def fdcbRun9 : List RunCell :=
  [run1 4 exec_res_2__iyd__b, run1 4 exec_res_2__iyd__c, run1 4 exec_res_2__iyd__d,
   run1 4 exec_res_2__iyd__e, run1 4 exec_res_2__iyd__h, run1 4 exec_res_2__iyd__l,
   run1 4 exec_res_2__iyd, run1 4 exec_res_2__iyd__a, run1 4 exec_res_3__iyd__b,
   run1 4 exec_res_3__iyd__c, run1 4 exec_res_3__iyd__d, run1 4 exec_res_3__iyd__e,
   run1 4 exec_res_3__iyd__h, run1 4 exec_res_3__iyd__l, run1 4 exec_res_3__iyd,
   run1 4 exec_res_3__iyd__a]

def fdcbRunA : List RunCell :=
  [run1 4 exec_res_4__iyd__b, run1 4 exec_res_4__iyd__c, run1 4 exec_res_4__iyd__d,
   run1 4 exec_res_4__iyd__e, run1 4 exec_res_4__iyd__h, run1 4 exec_res_4__iyd__l,
   run1 4 exec_res_4__iyd, run1 4 exec_res_4__iyd__a, run1 4 exec_res_5__iyd__b,
   run1 4 exec_res_5__iyd__c, run1 4 exec_res_5__iyd__d, run1 4 exec_res_5__iyd__e,
   run1 4 exec_res_5__iyd__h, run1 4 exec_res_5__iyd__l, run1 4 exec_res_5__iyd,
   run1 4 exec_res_5__iyd__a]

def fdcbRunB : List RunCell :=
  [run1 4 exec_res_6__iyd__b, run1 4 exec_res_6__iyd__c, run1 4 exec_res_6__iyd__d,
   run1 4 exec_res_6__iyd__e, run1 4 exec_res_6__iyd__h, run1 4 exec_res_6__iyd__l,
   run1 4 exec_res_6__iyd, run1 4 exec_res_6__iyd__a, run1 4 exec_res_7__iyd__b,
   run1 4 exec_res_7__iyd__c, run1 4 exec_res_7__iyd__d, run1 4 exec_res_7__iyd__e,
   run1 4 exec_res_7__iyd__h, run1 4 exec_res_7__iyd__l, run1 4 exec_res_7__iyd,
   run1 4 exec_res_7__iyd__a]

def fdcbRunC : List RunCell :=
  [run1 4 exec_set_0__iyd__b, run1 4 exec_set_0__iyd__c, run1 4 exec_set_0__iyd__d,
   run1 4 exec_set_0__iyd__e, run1 4 exec_set_0__iyd__h, run1 4 exec_set_0__iyd__l,
   run1 4 exec_set_0__iyd, run1 4 exec_set_0__iyd__a, run1 4 exec_set_1__iyd__b,
   run1 4 exec_set_1__iyd__c, run1 4 exec_set_1__iyd__d, run1 4 exec_set_1__iyd__e,
   run1 4 exec_set_1__iyd__h, run1 4 exec_set_1__iyd__l, run1 4 exec_set_1__iyd,
   run1 4 exec_set_1__iyd__a]

def fdcbRunD : List RunCell :=
  [run1 4 exec_set_2__iyd__b, run1 4 exec_set_2__iyd__c, run1 4 exec_set_2__iyd__d,
   run1 4 exec_set_2__iyd__e, run1 4 exec_set_2__iyd__h, run1 4 exec_set_2__iyd__l,
   run1 4 exec_set_2__iyd, run1 4 exec_set_2__iyd__a, run1 4 exec_set_3__iyd__b,
   run1 4 exec_set_3__iyd__c, run1 4 exec_set_3__iyd__d, run1 4 exec_set_3__iyd__e,
   run1 4 exec_set_3__iyd__h, run1 4 exec_set_3__iyd__l, run1 4 exec_set_3__iyd,
   run1 4 exec_set_3__iyd__a]

def fdcbRunE : List RunCell :=
  [run1 4 exec_set_4__iyd__b, run1 4 exec_set_4__iyd__c, run1 4 exec_set_4__iyd__d,
   run1 4 exec_set_4__iyd__e, run1 4 exec_set_4__iyd__h, run1 4 exec_set_4__iyd__l,
   run1 4 exec_set_4__iyd, run1 4 exec_set_4__iyd__a, run1 4 exec_set_5__iyd__b,
   run1 4 exec_set_5__iyd__c, run1 4 exec_set_5__iyd__d, run1 4 exec_set_5__iyd__e,
   run1 4 exec_set_5__iyd__h, run1 4 exec_set_5__iyd__l, run1 4 exec_set_5__iyd,
   run1 4 exec_set_5__iyd__a]

def fdcbRunF : List RunCell :=
  [run1 4 exec_set_6__iyd__b, run1 4 exec_set_6__iyd__c, run1 4 exec_set_6__iyd__d,
   run1 4 exec_set_6__iyd__e, run1 4 exec_set_6__iyd__h, run1 4 exec_set_6__iyd__l,
   run1 4 exec_set_6__iyd, run1 4 exec_set_6__iyd__a, run1 4 exec_set_7__iyd__b,
   run1 4 exec_set_7__iyd__c, run1 4 exec_set_7__iyd__d, run1 4 exec_set_7__iyd__e,
   run1 4 exec_set_7__iyd__h, run1 4 exec_set_7__iyd__l, run1 4 exec_set_7__iyd,
   run1 4 exec_set_7__iyd__a]

/-- The meanings of the FDCB table. -/
def fdcbRun : List (List RunCell) :=
  [fdcbRun0, fdcbRun1, fdcbRun2, fdcbRun3, fdcbRun4, fdcbRun5, fdcbRun6, fdcbRun7,
   fdcbRun8, fdcbRun9, fdcbRunA, fdcbRunB, fdcbRunC, fdcbRunD, fdcbRunE, fdcbRunF]

theorem fdcbRun0_eq : fdcbRow0.map runOf = fdcbRun0 := rfl
theorem fdcbRun1_eq : fdcbRow1.map runOf = fdcbRun1 := rfl
theorem fdcbRun2_eq : fdcbRow2.map runOf = fdcbRun2 := rfl
theorem fdcbRun3_eq : fdcbRow3.map runOf = fdcbRun3 := rfl
theorem fdcbRun4_eq : fdcbRow4.map runOf = fdcbRun4 := rfl
theorem fdcbRun5_eq : fdcbRow5.map runOf = fdcbRun5 := rfl
theorem fdcbRun6_eq : fdcbRow6.map runOf = fdcbRun6 := rfl
theorem fdcbRun7_eq : fdcbRow7.map runOf = fdcbRun7 := rfl
theorem fdcbRun8_eq : fdcbRow8.map runOf = fdcbRun8 := rfl
theorem fdcbRun9_eq : fdcbRow9.map runOf = fdcbRun9 := rfl
theorem fdcbRunA_eq : fdcbRowA.map runOf = fdcbRunA := rfl
theorem fdcbRunB_eq : fdcbRowB.map runOf = fdcbRunB := rfl
theorem fdcbRunC_eq : fdcbRowC.map runOf = fdcbRunC := rfl
theorem fdcbRunD_eq : fdcbRowD.map runOf = fdcbRunD := rfl
theorem fdcbRunE_eq : fdcbRowE.map runOf = fdcbRunE := rfl
theorem fdcbRunF_eq : fdcbRowF.map runOf = fdcbRunF := rfl

/-- The table of meanings is the decoded table, cell by cell. -/
theorem fdcbRun_eq : fdcbTable.map (List.map runOf) = fdcbRun := by
  simp only [fdcbTable, fdcbRun, List.map_cons, List.map_nil, fdcbRun0_eq, fdcbRun1_eq, fdcbRun2_eq, fdcbRun3_eq, fdcbRun4_eq, fdcbRun5_eq, fdcbRun6_eq, fdcbRun7_eq, fdcbRun8_eq, fdcbRun9_eq, fdcbRunA_eq, fdcbRunB_eq, fdcbRunC_eq, fdcbRunD_eq, fdcbRunE_eq, fdcbRunF_eq]

/-- The entry of a table of meanings for an opcode byte. -/
def runEntry (table : List (List RunCell)) (op : Byte) : RunCell :=
  (table.getD (op >>> 4).toNat []).getD (op &&& 0x0F#8).toNat (run0 1 (exec_nop .none))

theorem runEntry_map (table : List (List Cell)) (op : Byte) :
    runEntry (table.map (List.map runOf)) op = runOf (entry table op) := by
  simp only [runEntry, entry, List.getD_eq_getElem?_getD, List.getElem?_map]
  cases table[(op >>> 4).toNat]? with
  | none => rfl
  | some row =>
    simp only [Option.map_some, Option.getD_some, List.getElem?_map]
    cases row[(op &&& 0x0F#8).toNat]? <;> rfl

/-- The length and the meaning of an entry with its operand bytes. -/
def runWith (table : List (List RunCell)) (op a b : Byte) : Nat × (State → Res) :=
  ((runEntry table op).1, (runEntry table op).2 a b)

/-- The meaning of the instruction that four bytes begin with, and its length: `decode4` over the
tables of meanings. -/
def run4 (b0 b1 b2 b3 : Byte) : Nat × (State → Res) :=
  if b0 = 0xCB#8 then runWith cbRun b1 b2 b3
  else if b0 = 0xED#8 then runWith edRun b1 b2 b3
  else if b0 = 0xDD#8 then
    if b1 = 0xCB#8 then runWith ddcbRun b3 b2 0#8 else runWith ddRun b1 b2 b3
  else if b0 = 0xFD#8 then
    if b1 = 0xCB#8 then runWith fdcbRun b3 b2 0#8 else runWith fdRun b1 b2 b3
  else runWith baseRun b0 b1 b2

theorem runWith_map (table : List (List Cell)) (op a b : Byte) :
    runWith (table.map (List.map runOf)) op a b
      = ((entryWith table op a b).1, exec (entryWith table op a b).2) := by
  simp only [runWith, runEntry_map, runOf, entryWith]

/-- Running through the tables of meanings is `exec` of the decoded instruction. -/
theorem run4_eq (b0 b1 b2 b3 : Byte) :
    run4 b0 b1 b2 b3 = ((decode4 b0 b1 b2 b3).1, exec (decode4 b0 b1 b2 b3).2) := by
  simp only [run4, decode4, ← cbRun_eq, ← edRun_eq, ← ddcbRun_eq, ← ddRun_eq, ← fdcbRun_eq,
    ← fdRun_eq, ← baseRun_eq, runWith_map]
  split_ifs <;> rfl

end Sys2Proof.Machine
end

