-- ==== Sys2Proof/Machine/Loop.lean ====
section
/-! DEFINITION. One step of the execution loop (30_encoding.md R230): the interrupt check, the
halted cycle, and the fetching and running of one instruction. -/

namespace Sys2Proof.Machine

/-- The index byte that a first byte sets (R78, R234). -/
def indexOf (b0 : Byte) : IndexByte :=
  if b0 = 0xDD#8 then .dd else if b0 = 0xFD#8 then .fd else .none

/-- n calls of `FetchByte()` (R18). -/
def State.fetchBytes : Nat → State → State
  | 0, s => s
  | n + 1, s => State.fetchBytes n s.fetchByte

/-- The fetching of a whole instruction of `len` bytes whose first byte is `b0`: one opcode fetch,
or two after a leading byte, and the rest with `FetchByte()`; `prefix` is set after the first (R18,
R231 to R236). Log entry 13. -/
def State.fetchInstr (s : State) (b0 : Byte) (len : Nat) : State :=
  let t : State := (s.setPfx .none).fetchOpcode.setPfx (indexOf b0)
  if leads b0 then State.fetchBytes (len - 2) t.fetchOpcode else State.fetchBytes (len - 1) t

/-- The byte that the fetch after n others reads (R18). Addresses wrap (R153). -/
def State.byteAfter (s : State) (n : Nat) : Byte :=
  (State.fetchBytes n s).peek (State.fetchBytes n s).pc

/-- The length and the instruction that the bytes at PC begin with, each as the fetch that comes to
it reads it. -/
noncomputable def decodeAt (s : State) : Nat × Instr :=
  decode4 (s.byteAfter 0) (s.byteAfter 1) (s.byteAfter 2) (s.byteAfter 3)

/-- Fetch the instruction at PC and run it. A port that fails in the fetch ends the run (R801). -/
noncomputable def runInstr (s : State) : Res :=
  let t := s.fetchInstr (s.peek s.pc) (decodeAt s).1
  if t.portFailed then t.stop else endInstr (exec (decodeAt s).2 t)

/-- `runInstr` for compiled code: through the tables of meanings. -/
def runInstrCompiled (s : State) : Res :=
  let d := run4 (s.byteAfter 0) (s.byteAfter 1) (s.byteAfter 2) (s.byteAfter 3)
  let t := s.fetchInstr (s.peek s.pc) d.1
  if t.portFailed then t.stop else endInstr (d.2 t)

/-- Compiled code runs what the model says. -/
@[csimp] theorem runInstr_eq_compiled : @runInstr = @runInstrCompiled := by
  funext s
  unfold runInstr runInstrCompiled decodeAt
  rw [run4_eq]

/-- The start of a step: the outputs of the last one are put away (log entry 12). -/
def State.beginStep (s : State) : State := { s with cycles := 0#32, calls := [], atFailure := none }

/-- Whether the interrupt check accepts the maskable request (R806). -/
def State.acceptsInt (s : State) : Bool := s.intLine && s.iff1 && !s.eiPending

/-- The halted cycle: R counts, 4 cycles, no fetch (R230, R602). -/
def haltedCycle (s : State) : State := s.incR.tick 4

/-- `Step()` of R230. -/
def runStep (s : State) : Res :=
  let t := s.beginStep
  if t.nmiPending then acceptNmi t
  else if t.acceptsInt then acceptInt t
  else
    let u : State := { t with eiPending := false }
    if u.halted then .next (haltedCycle u) else runInstr u

/-- Bytes stored at an address and upward, wrapping, with no port call: the host's own change of
memory (R826). -/
def storeBytes (m : Memory) : Word → List Byte → Memory
  | _, [] => m
  | a, b :: bs => storeBytes (m.write a.toNat b) (a + 1#16) bs

/-- The state with an instruction at PC, so that the next step runs it: the bytes stored, no halt,
no interrupt at the check, no failing port and no side effect, every address plain RAM. Log entry
17. -/
def State.withBytes (s : State) (bs : List Byte) : State :=
  { s with mem := storeBytes s.mem s.pc bs, halted := false, nmiPending := false,
           intLine := false, failAfter := none, sideEffects := [],
           params := { s.params with notRam := [] } }

end Sys2Proof.Machine
end

