-- ==== Sys2Proof/Machine/Step.lean ====
section
/-! DEFINITION. The step, and the host's way to place an instruction where the next step fetches. -/

namespace Sys2Proof.Machine

/-- One step: an interrupt acceptance, a halted cycle, or one whole instruction (R230). -/
def step (s : State) : Host.Outcome State Fault Refusal := runStep s

/-- The state with the instruction w of nbits bits at PC, numbered as the opcode table numbers it,
and zeros up to the longest instruction. Log entry 17. -/
def State.withFetchWord (s : State) (nbits w : Nat) : State :=
  s.withBytes ((bytesOf (nbits / 8) w ++ [0#8, 0#8, 0#8, 0#8]).take 4)

end Sys2Proof.Machine
end

