-- ==== Sys2Proof/Machine/Accessor.lean ====
section
/-! DEFINITION. What the host may do between two steps: the register accessor (10_state.md R84 to
R87), the interrupt inputs (60_exceptions.md R802 to R804), its own memory and ports (R826), and
reset (70_reset_and_hazards.md R850). Log entry 19. -/

namespace Sys2Proof.Machine

/-- A shadow register (R56). -/
inductive Shadow8 where
  | a
  | f
  | b
  | c
  | d
  | e
  | h
  | l
deriving DecidableEq, Repr

/-- A shadow pair (R56). -/
inductive Shadow16 where
  | af
  | bc
  | de
  | hl
deriving DecidableEq, Repr

/-- Every name the accessor covers (R86). -/
inductive AccName where
  | r8 (r : R8)
  | f
  | shadow8 (r : Shadow8)
  | r16 (r : R16)
  | shadow16 (r : Shadow16)
  | pc
  | i
  | r
  | iff1
  | iff2
  | im
  | halted
deriving DecidableEq, Repr

/-- Read a shadow register (R56). -/
def State.getShadow8 (s : State) : Shadow8 → Byte
  | .a => s.alt.a
  | .f => s.alt.f
  | .b => s.alt.b
  | .c => s.alt.c
  | .d => s.alt.d
  | .e => s.alt.e
  | .h => s.alt.h
  | .l => s.alt.l

/-- Write a shadow register. -/
def State.setShadow8 (s : State) (r : Shadow8) (v : Byte) : State :=
  match r with
  | .a => { s with alt := { s.alt with a := v } }
  | .f => { s with alt := { s.alt with f := v } }
  | .b => { s with alt := { s.alt with b := v } }
  | .c => { s with alt := { s.alt with c := v } }
  | .d => { s with alt := { s.alt with d := v } }
  | .e => { s with alt := { s.alt with e := v } }
  | .h => { s with alt := { s.alt with h := v } }
  | .l => { s with alt := { s.alt with l := v } }

/-- Read a shadow pair. -/
def State.getShadow16 (s : State) : Shadow16 → Word
  | .af => pair s.alt.a s.alt.f
  | .bc => pair s.alt.b s.alt.c
  | .de => pair s.alt.d s.alt.e
  | .hl => pair s.alt.h s.alt.l

/-- Write a shadow pair, both halves. -/
def State.setShadow16 (s : State) (r : Shadow16) (v : Word) : State :=
  match r with
  | .af => { s with alt := { s.alt with a := hi v, f := lo v } }
  | .bc => { s with alt := { s.alt with b := hi v, c := lo v } }
  | .de => { s with alt := { s.alt with d := hi v, e := lo v } }
  | .hl => { s with alt := { s.alt with h := hi v, l := lo v } }

/-- IM as the number the accessor shows (R72). -/
def imNumber : IntMode → Nat
  | .im0 => 0
  | .im1 => 1
  | .im2 => 2

/-- An accessor get (R86). -/
def State.accessorGet (s : State) : AccName → Nat
  | .r8 r => (s.getR8 r).toNat
  | .f => s.main.f.toNat
  | .shadow8 r => (s.getShadow8 r).toNat
  | .r16 r => (s.getR16 r).toNat
  | .shadow16 r => (s.getShadow16 r).toNat
  | .pc => s.pc.toNat
  | .i => s.i.toNat
  | .r => s.r.toNat
  | .iff1 => s.iff1.toNat
  | .iff2 => s.iff2.toNat
  | .im => imNumber s.im
  | .halted => s.halted.toNat

/-- An accessor set, masked to the width of what it sets (R84); IM takes only 0, 1 and 2, and any
other value is refused (R86). -/
def State.accessorSet (s : State) (n : AccName) (v : Nat) : Res :=
  match n with
  | .r8 r => .next (s.setR8 r (BitVec.ofNat 8 v))
  | .f => .next (s.setF (BitVec.ofNat 8 v))
  | .shadow8 r => .next (s.setShadow8 r (BitVec.ofNat 8 v))
  | .r16 r => .next (s.setR16 r (BitVec.ofNat 16 v))
  | .shadow16 r => .next (s.setShadow16 r (BitVec.ofNat 16 v))
  | .pc => .next (s.setPc (BitVec.ofNat 16 v))
  | .i => .next { s with i := BitVec.ofNat 8 v }
  | .r => .next { s with r := BitVec.ofNat 8 v }
  | .iff1 => .next { s with iff1 := v.testBit 0 }
  | .iff2 => .next { s with iff2 := v.testBit 0 }
  | .im =>
    match v with
    | 0 => .next { s with im := .im0 }
    | 1 => .next { s with im := .im1 }
    | 2 => .next { s with im := .im2 }
    | _ => .refused .imOutOfRange
  | .halted => .next { s with halted := v.testBit 0 }

/-- The draws a reset takes: one value for each element of R89. -/
structure ResetDraws where
  main : RegSet
  alt : RegSet
  ix : Word
  iy : Word
  sp : Word
  bus : Byte
deriving DecidableEq, Repr

/-- The reset event (R850): the elements of R88 at their values, those of R89 at the draws, memory
and devices as they were. -/
def State.resetEvent (s : State) (d : ResetDraws) : State :=
  { s with
    pc := 0#16, i := 0#8, r := 0#8, iff1 := false, iff2 := false, im := .im0, halted := false,
    eiPending := false, pfx := .none, nmiPending := false,
    main := d.main, alt := d.alt, ix := d.ix, iy := d.iy, sp := d.sp, bus := d.bus }

/-- A move of the host between two steps (R826). -/
inductive HostMove where
  /-- Set a register, a flip-flop, IM or halted through the accessor (R86). -/
  | set (n : AccName) (v : Nat)
  /-- Signal an NMI edge (R803). -/
  | signalNmi
  /-- Hold the maskable request at a level, with the device's byte (R804). -/
  | holdInt (line : Bool) (data : Byte)
  /-- Change a byte of memory (R826). -/
  | changeMemory (a : Word) (v : Byte)
  /-- Let a port answer a byte from now on (R550). -/
  | answerPort (p v : Byte)
  /-- Set the side effects that the next port calls will have, one list for each call (R162,
  R826). -/
  | scheduleEffects (es : List (List SideEffect))
  /-- Let the port calls of a step fail after the first k, or not at all (R801). -/
  | failPorts (k : Option Nat)
  /-- Reset, with its draws (R850). -/
  | reset (d : ResetDraws)
deriving DecidableEq, Repr

/-- What a move of the host does (R826). -/
def State.hostMove (s : State) : HostMove → Res
  | .set n v => s.accessorSet n v
  | .signalNmi => .next { s with nmiPending := true }
  | .holdInt line data => .next { s with intLine := line, intData := data }
  | .changeMemory a v => .next { s with mem := s.mem.write a.toNat v }
  | .answerPort p v => .next { s with inputs := (p, v) :: s.inputs }
  | .scheduleEffects es => .next { s with sideEffects := es }
  | .failPorts k => .next { s with failAfter := k }
  | .reset d => .next (s.resetEvent d)

end Sys2Proof.Machine
end

