-- ==== Sys2Proof/Safety.lean ====
section
/-! DEFINITION. The terms in which claims about the machine are made: the end of a run and its
launch premises (60_exceptions.md R827, R828), the invariant of the step, and what it means that an
instruction leaves everything else unchanged. -/

namespace Sys2Proof.Machine

/-- The end of a run (R827): halted, with IFF1 clear and no NMI pending. -/
def State.ended (s : State) : Bool := s.halted && !s.iff1 && !s.nmiPending

/-- The launch premises of R828 that the state can show: `prefix` is 0x00, and no port fails. -/
def State.launchable (s : State) : Bool := decide (s.pfx = .none) && decide (s.failAfter = none)

/-- The invariant of the machine between steps: memory is canonical, `prefix` is 0x00 (R78),
EI-pending is set only while both flip-flops are (R76, R604), and no failing port call is on record
(R801). -/
structure State.Inv (s : State) : Prop where
  wf : s.mem.wf = true
  pfx : s.pfx = .none
  ei : s.eiPending = true → s.iff1 = true ∧ s.iff2 = true
  atFailure : s.atFailure = none

/-- Where a port call of this step failed, the state before that call is on record, with the calls
that succeeded and no other (R801). -/
def State.Recorded (s : State) : Prop :=
  s.portFailed = true → ∃ c, s.atFailure = some c ∧ s.failAfter = some c.calls.length

/-- No port call still to come changes a byte of memory by a side effect. -/
def State.undisturbed (s : State) (a : Word) : Prop :=
  ∀ es ∈ s.sideEffects, ∀ v, .memory a v ∉ es

/-- No port call still to come changes what a port answers by a side effect. -/
def State.portUndisturbed (s : State) (p : Byte) : Prop :=
  ∀ es ∈ s.sideEffects, ∀ v, .port p v ∉ es

/-- A byte stored at the address is read back: it is plain RAM, and no side effect changes it (R165,
R170). -/
def State.keeps (s : State) (a : Word) : Prop := s.params.isRam a = true ∧ s.undisturbed a

/-- The elements of the register file (R51). IX and IY are their halves. -/
inductive Elem where
  | r8 (r : R8)
  | f
  | shadow (r : Shadow8)
  | sp
  | pc
  | i
  | r
  | iff1
  | iff2
  | im
  | halted
  | eiPending
  | pfx
  | bus
  | nmiPending
deriving DecidableEq, Repr

/-- `prefix` as the number it stands for (R78). -/
def pfxNumber : IndexByte → Nat
  | .none => 0x00
  | .dd => 0xDD
  | .fd => 0xFD

/-- What an element holds. -/
def State.look (s : State) : Elem → Nat
  | .r8 r => (s.getR8 r).toNat
  | .f => s.main.f.toNat
  | .shadow r => (s.getShadow8 r).toNat
  | .sp => s.sp.toNat
  | .pc => s.pc.toNat
  | .i => s.i.toNat
  | .r => s.r.toNat
  | .iff1 => s.iff1.toNat
  | .iff2 => s.iff2.toNat
  | .im => imNumber s.im
  | .halted => s.halted.toNat
  | .eiPending => s.eiPending.toNat
  | .pfx => pfxNumber s.pfx
  | .bus => s.bus.toNat
  | .nmiPending => s.nmiPending.toNat

/-- `t` differs from `s` at most in the named elements, in the bytes at the named addresses and in
what was `sent` to the I/O devices, newest first: every other element, what a read of every other
address returns (`byteAt`), the host's inputs and the parameters are as they were, but for the side
effects the state schedules for its port calls, and memory stays canonical. The record of a failing
port call stays right, and only a failure changes it. The outputs of the step (cycles, calls) and
the counter of free values are not spoken of. -/
structure Frame (s t : State) (written : List Elem) (stored : List Word)
    (sent : List (Byte × Byte)) : Prop where
  elems : ∀ e, e ∉ written → t.look e = s.look e
  memory : ∀ a, a ∉ stored → s.undisturbed a → t.byteAt a = s.byteAt a
  wf : s.mem.wf = true → t.mem.wf = true
  outputs : t.outputs = sent ++ s.outputs
  inputs : ∀ p, s.portUndisturbed p → t.inputs.lookup p = s.inputs.lookup p
  sideEffects : t.sideEffects <:+ s.sideEffects
  intLine : t.intLine = s.intLine
  intData : t.intData = s.intData
  failAfter : t.failAfter = s.failAfter
  params : t.params = s.params
  recorded : s.Recorded → t.Recorded
  failed : s.portFailed = true → t.portFailed = true ∧ t.atFailure = s.atFailure
  unfailed : t.portFailed = false → t.atFailure = s.atFailure

/-- The bus latch after port calls, newest first: the byte of the last one (R80, R164). -/
def latchAfter (b : Byte) : List PortCall → Byte
  | [] => b
  | c :: _ => portByte c

/-- What an instruction did beside its results: it took `cyc` cycles (R237), it made the port calls
`made` and no other, newest first (R163), each with the side effects scheduled for it (R826), the
bus latch holds the byte of the last of them (R164), and all else is as it was but for the named
elements, bytes and output. -/
structure Did (s t : State) (cyc : Nat) (made : List PortCall) (written : List Elem)
    (stored : List Word) (sent : List (Byte × Byte)) : Prop where
  cycles : t.cycles = s.cycles + BitVec.ofNat 32 cyc
  calls : t.calls = made ++ s.calls
  effects : t.sideEffects = s.sideEffects.drop made.length
  bus : t.bus = latchAfter s.bus made
  frame : Frame s t (.bus :: written) stored sent

/-- F from its eight bits, S Z X5 H X3 P/V N C (R65). -/
def flags (s z x5 h x3 pv n c : Bool) : Byte :=
  BitVec.ofBool s ++ BitVec.ofBool z ++ BitVec.ofBool x5 ++ BitVec.ofBool h ++ BitVec.ofBool x3
    ++ BitVec.ofBool pv ++ BitVec.ofBool n ++ BitVec.ofBool c

end Sys2Proof.Machine
end

