-- ==== Sys2Proof/Certificates/Slice0/Obligations.lean ====
section
/-! DEFINITION. The statements for the provers, from the numbered rules of spec/.

Most are about a table of instructions: a `Row` names an instruction, the bytes the spec encodes it
with, its cycles and what the statement needs of its operands. `Runs` says that these are its bytes
and that `exec` ANSWERS A NEXT STATE with the properties named. Where an instruction makes port
calls the statement assumes that no port fails (`failAfter = none`, a launch premise of R828); what
a stored byte reads as afterwards it says of the addresses that keep what is stored (`keeps`: plain
RAM that no side effect of a port call changes, R165, R826), while `Did` says for every address
which bytes are written. Where two bytes are read, the second is read in the state after the first
call (`noteRead`). PC stands past the instruction when `exec` runs it: `StepRunsDecodedInstruction`
and `FetchingTheInstruction` say how a step gets there. Flags are said bit by bit, through `flags`.
-/

open Sys2Proof Sys2Proof.Machine

namespace Sys2Proof.Claims

/-! ## The vocabulary of the statements -/

/-- An instruction, its bytes, its cycles and its data. -/
structure Row (α : Type) where
  instr : Instr
  bytes : List Byte
  cyc : Nat
  data : α

/-- The row's instruction has the row's bytes, and it completes in a state with the property. -/
def Runs {α : Type} (row : Row α) (s : State) (P : State → Prop) : Prop :=
  encode row.instr = row.bytes ∧ ∃ t, exec row.instr s = .next t ∧ P t

/-- The elements of a pair. -/
def halves : R16 → List Elem
  | .bc => [.r8 .b, .r8 .c]
  | .de => [.r8 .d, .r8 .e]
  | .hl => [.r8 .h, .r8 .l]
  | .sp => [.sp]
  | .af => [.r8 .a, .f]
  | .ix => [.r8 .ixh, .r8 .ixl]
  | .iy => [.r8 .iyh, .r8 .iyl]

/-- A condition tested on F (R213). -/
def holds : Cond → Byte → Bool
  | .nz, f => !f.getLsbD 6
  | .z, f => f.getLsbD 6
  | .nc, f => !f.getLsbD 0
  | .c, f => f.getLsbD 0
  | .po, f => !f.getLsbD 2
  | .pe, f => f.getLsbD 2
  | .p, f => !f.getLsbD 7
  | .m, f => f.getLsbD 7

/-- Whether a branch is taken: always where it has no condition. -/
def taken : Option Cond → Byte → Bool
  | none, _ => true
  | some cc, f => holds cc f

/-- An even number of 1 bits (R305). -/
def even (v : Byte) : Bool :=
  !(v.getLsbD 0 ^^ v.getLsbD 1 ^^ v.getLsbD 2 ^^ v.getLsbD 3 ^^ v.getLsbD 4 ^^ v.getLsbD 5
    ^^ v.getLsbD 6 ^^ v.getLsbD 7)

/-- C of F as a number. -/
def carryIn (f : Byte) : Nat := (f.getLsbD 0).toNat

/-- Whether an integer is no signed byte (R313). -/
def noByte (n : Int) : Bool := decide (n < -128) || decide (127 < n)

/-- Whether an integer is no signed word (R313). -/
def noWord (n : Int) : Bool := decide (n < -32768) || decide (32767 < n)

/-- Sum and flags of an addition with carry (R314). -/
def sum8 (a v : Byte) (c : Nat) : Byte × Byte :=
  let r := a + v + BitVec.ofNat 8 c
  (r, flags (r.getLsbD 7) (r == 0#8) (r.getLsbD 5)
    (decide (15 < a.toNat % 16 + v.toNat % 16 + c)) (r.getLsbD 3)
    (noByte (a.toInt + v.toInt + c)) false (decide (255 < a.toNat + v.toNat + c)))

/-- Difference and flags of a subtraction with borrow (R315). -/
def difference8 (a v : Byte) (c : Nat) : Byte × Byte :=
  let r := a - v - BitVec.ofNat 8 c
  (r, flags (r.getLsbD 7) (r == 0#8) (r.getLsbD 5)
    (decide (a.toNat % 16 < v.toNat % 16 + c)) (r.getLsbD 3)
    (noByte (a.toInt - v.toInt - c)) true (decide (a.toNat < v.toNat + c)))

/-- Flags of a logical result: P/V is parity, N and C are 0 (R318). -/
def logic8 (r : Byte) (h : Bool) : Byte :=
  flags (r.getLsbD 7) (r == 0#8) (r.getLsbD 5) h (r.getLsbD 3) (even r) false false

/-- The new A and F of an accumulator operation (R651 to R658). -/
def accumulator (op : AluOp) (a v f : Byte) : Byte × Byte :=
  match op with
  | .add => sum8 a v 0
  | .adc => sum8 a v (carryIn f)
  | .sub => difference8 a v 0
  | .sbc => difference8 a v (carryIn f)
  | .and => (a &&& v, logic8 (a &&& v) true)
  | .xor => (a ^^^ v, logic8 (a ^^^ v) false)
  | .or => (a ||| v, logic8 (a ||| v) false)
  | .cp =>
    let r := a - v
    (a, flags (r.getLsbD 7) (r == 0#8) (v.getLsbD 5) (decide (a.toNat % 16 < v.toNat % 16))
      (v.getLsbD 3) (noByte (a.toInt - v.toInt)) true (decide (a.toNat < v.toNat)))

/-- A byte counted up or down, and the flags: C stays (R316, R317). -/
def counted (up : Bool) (v f : Byte) : Byte × Byte :=
  if up then
    let r := v + 1#8
    (r, flags (r.getLsbD 7) (r == 0#8) (r.getLsbD 5) (v.toNat % 16 == 15) (r.getLsbD 3)
      (v == 0x7F#8) false (f.getLsbD 0))
  else
    let r := v - 1#8
    (r, flags (r.getLsbD 7) (r == 0#8) (r.getLsbD 5) (v.toNat % 16 == 0) (r.getLsbD 3)
      (v == 0x80#8) true (f.getLsbD 0))

/-- A rotated or shifted byte and the bit that leaves it (R322). -/
def rotated (op : RotOp) (v : Byte) (cin : Bool) : Byte × Bool :=
  match op with
  | .rlc => (v.rotateLeft 1, v.getLsbD 7)
  | .rrc => (v.rotateRight 1, v.getLsbD 0)
  | .rl => (v.extractLsb' 0 7 ++ BitVec.ofBool cin, v.getLsbD 7)
  | .rr => (BitVec.ofBool cin ++ v.extractLsb' 1 7, v.getLsbD 0)
  | .sla => (v.extractLsb' 0 7 ++ 0#1, v.getLsbD 7)
  | .sra => (v.sshiftRight 1, v.getLsbD 0)
  | .sll => (v.extractLsb' 0 7 ++ 1#1, v.getLsbD 7)
  | .srl => (0#1 ++ v.extractLsb' 1 7, v.getLsbD 0)

/-- A byte with one bit cleared or set (R783, R784). -/
def withBit (set : Bool) (b : Nat) (v : Byte) : Byte :=
  if set then v ||| BitVec.twoPow 8 b else v &&& ~~~(BitVec.twoPow 8 b)

/-- An operand that is read and written: a register, a byte of memory, or a byte of memory that is
also copied to a register (R755). -/
inductive Place where
  | reg (r : R8)
  | mem (a : Word)
  | memCopy (a : Word) (r : R8)

/-- What the operand holds. -/
def Place.value (s : State) : Place → Byte
  | .reg r => s.getR8 r
  | .mem a => s.peek a
  | .memCopy a _ => s.peek a

/-- After the instruction the operand holds the byte, and so does the copy; memory where it keeps
what is stored there. -/
def Place.has (s t : State) (v : Byte) : Place → Prop
  | .reg r => t.getR8 r = v
  | .mem a => s.keeps a → t.peek a = v
  | .memCopy a r => (s.keeps a → t.peek a = v) ∧ t.getR8 r = v

/-- The port calls, newest first: one read and then one write of the result. -/
def Place.made (s : State) (v : Byte) : Place → List PortCall
  | .reg _ => []
  | .mem a => [.memWrite a v, .memRead a (s.peek a)]
  | .memCopy a _ => [.memWrite a v, .memRead a (s.peek a)]

/-- The register written. -/
def Place.written : Place → List Elem
  | .reg r => [.r8 r]
  | .mem _ => []
  | .memCopy _ r => [.r8 r]

/-- The byte stored to. -/
def Place.stored : Place → List Word
  | .reg _ => []
  | .mem a => [a]
  | .memCopy a _ => [a]

/-- A pointer moved by one (R503, R505). -/
def moved (up : Bool) (w : Word) : Word := if up then w + 1#16 else w + 0xFFFF#16

/-- R after n increments: bits 6..0 count, bit 7 stays (R67). -/
def counts (r : Byte) (n : Nat) : Byte := BitVec.ofNat 8 (r.toNat / 128 * 128 + (r.toNat + n) % 128)

/-- The outcome with 4 more cycles. -/
def fourLater : Res → Res
  | .next t => .next { t with cycles := t.cycles + 4#32 }
  | r => r

/-- The rows that go on with the dispatch (R232 to R236). -/
noncomputable def dispatchRows : List Instr :=
  [.prefix_cb, .prefix_ed, .prefix_dd, .prefix_fd, .prefix_ddcb, .prefix_fdcb,
   .prefix_dd__supersedes .ix, .prefix_dd__supersedes .iy, .prefix_fd__supersedes .ix,
   .prefix_fd__supersedes .iy, .prefix_ed__index_prefix_dropped .ix,
   .prefix_ed__index_prefix_dropped .iy]

/-- No interrupt is accepted at this step's check, and CORE is not halted: the step runs an
instruction (R806). -/
def runsInstruction (s : State) : Prop :=
  s.nmiPending = false ∧ s.acceptsInt = false ∧ s.halted = false

/-- The state in which a step fetches: outputs put away, EI-pending cleared (R230). -/
def atFetch (s : State) : State := { s.beginStep with eiPending := false }

/-- The step stops because a port failed, just before the failing call in the state `t` (R801). -/
def failsIn (t : State) : Res := .fault (.portFailure t.toSnapshot)

/-- The high byte at the next address, read after the low byte (R16), before the low byte. -/
def wordAt (s : State) (a : Word) : Word := (s.noteRead a).peek (a + 1#16) ++ s.peek a

/-- The two port calls that read a word, newest first. -/
def wordReads (s : State) (a : Word) : List PortCall :=
  [.memRead (a + 1#16) ((s.noteRead a).peek (a + 1#16)), .memRead a (s.peek a)]

/-- A maskable interrupt is accepted at this step's check (R806). -/
def takesInt (s : State) : Prop :=
  s.nmiPending = false ∧ s.intLine = true ∧ s.iff1 = true ∧ s.eiPending = false

/-- An acceptance pushed PC and went to `target`: what it wrote, and nothing else (R809, R811,
R815); `made` are its port calls beyond the two of the push, and `flips` what it wrote beside. The
frame begins with the outputs of the last step put away (`beginStep`), which changes nothing else.
-/
structure Accepted (s t : State) (target : Word) (cyc : Nat) (latch : Byte) (made : List PortCall)
    (flips : List Elem) : Prop where
  pc : t.pc = target
  sp : t.sp = s.sp - 2#16
  high : s.keeps (s.sp - 1#16) → t.peek (s.sp - 1#16) = hi s.pc
  low : s.keeps (s.sp - 2#16) → t.peek (s.sp - 2#16) = lo s.pc
  r : t.r = counts s.r 1
  iff1 : t.iff1 = false
  halted : t.halted = false
  eiPending : t.eiPending = false
  cycles : t.cycles = BitVec.ofNat 32 cyc
  calls : t.calls = made ++
    [.memWrite (s.sp - 2#16) (lo s.pc), .memWrite (s.sp - 1#16) (hi s.pc)]
  effects : t.sideEffects = s.sideEffects.drop (2 + made.length)
  bus : t.bus = latch
  frame : Frame s.beginStep t ([.pc, .sp, .r, .iff1, .halted, .eiPending, .bus] ++ flips)
    [s.sp - 1#16, s.sp - 2#16] []

/-! ## The tables of instructions -/

/-- Part of `registerLoads`. -/
noncomputable def registerLoads0 (p : IndexByte) : List (Row (R8 × R8)) :=
  [⟨.ld_b_b p, p.bytes ++ [0x40#8], 4 + extra p, (.b, .b)⟩,
   ⟨.ld_b_c p, p.bytes ++ [0x41#8], 4 + extra p, (.b, .c)⟩,
   ⟨.ld_b_d p, p.bytes ++ [0x42#8], 4 + extra p, (.b, .d)⟩,
   ⟨.ld_b_e p, p.bytes ++ [0x43#8], 4 + extra p, (.b, .e)⟩,
   ⟨.ld_b_h, [0x44#8], 4, (.b, .h)⟩,
   ⟨.ld_b_l, [0x45#8], 4, (.b, .l)⟩,
   ⟨.ld_b_a p, p.bytes ++ [0x47#8], 4 + extra p, (.b, .a)⟩,
   ⟨.ld_c_b p, p.bytes ++ [0x48#8], 4 + extra p, (.c, .b)⟩,
   ⟨.ld_c_c p, p.bytes ++ [0x49#8], 4 + extra p, (.c, .c)⟩,
   ⟨.ld_c_d p, p.bytes ++ [0x4A#8], 4 + extra p, (.c, .d)⟩,
   ⟨.ld_c_e p, p.bytes ++ [0x4B#8], 4 + extra p, (.c, .e)⟩,
   ⟨.ld_c_h, [0x4C#8], 4, (.c, .h)⟩,
   ⟨.ld_c_l, [0x4D#8], 4, (.c, .l)⟩,
   ⟨.ld_c_a p, p.bytes ++ [0x4F#8], 4 + extra p, (.c, .a)⟩,
   ⟨.ld_d_b p, p.bytes ++ [0x50#8], 4 + extra p, (.d, .b)⟩,
   ⟨.ld_d_c p, p.bytes ++ [0x51#8], 4 + extra p, (.d, .c)⟩,
   ⟨.ld_d_d p, p.bytes ++ [0x52#8], 4 + extra p, (.d, .d)⟩,
   ⟨.ld_d_e p, p.bytes ++ [0x53#8], 4 + extra p, (.d, .e)⟩,
   ⟨.ld_d_h, [0x54#8], 4, (.d, .h)⟩,
   ⟨.ld_d_l, [0x55#8], 4, (.d, .l)⟩,
   ⟨.ld_d_a p, p.bytes ++ [0x57#8], 4 + extra p, (.d, .a)⟩,
   ⟨.ld_e_b p, p.bytes ++ [0x58#8], 4 + extra p, (.e, .b)⟩,
   ⟨.ld_e_c p, p.bytes ++ [0x59#8], 4 + extra p, (.e, .c)⟩,
   ⟨.ld_e_d p, p.bytes ++ [0x5A#8], 4 + extra p, (.e, .d)⟩,
   ⟨.ld_e_e p, p.bytes ++ [0x5B#8], 4 + extra p, (.e, .e)⟩,
   ⟨.ld_e_h, [0x5C#8], 4, (.e, .h)⟩,
   ⟨.ld_e_l, [0x5D#8], 4, (.e, .l)⟩,
   ⟨.ld_e_a p, p.bytes ++ [0x5F#8], 4 + extra p, (.e, .a)⟩,
   ⟨.ld_h_b, [0x60#8], 4, (.h, .b)⟩,
   ⟨.ld_h_c, [0x61#8], 4, (.h, .c)⟩,
   ⟨.ld_h_d, [0x62#8], 4, (.h, .d)⟩,
   ⟨.ld_h_e, [0x63#8], 4, (.h, .e)⟩,
   ⟨.ld_h_h, [0x64#8], 4, (.h, .h)⟩,
   ⟨.ld_h_l, [0x65#8], 4, (.h, .l)⟩,
   ⟨.ld_h_a, [0x67#8], 4, (.h, .a)⟩,
   ⟨.ld_l_b, [0x68#8], 4, (.l, .b)⟩,
   ⟨.ld_l_c, [0x69#8], 4, (.l, .c)⟩,
   ⟨.ld_l_d, [0x6A#8], 4, (.l, .d)⟩,
   ⟨.ld_l_e, [0x6B#8], 4, (.l, .e)⟩,
   ⟨.ld_l_h, [0x6C#8], 4, (.l, .h)⟩]

/-- Part of `registerLoads`. -/
noncomputable def registerLoads1 (p : IndexByte) : List (Row (R8 × R8)) :=
  [⟨.ld_l_l, [0x6D#8], 4, (.l, .l)⟩,
   ⟨.ld_l_a, [0x6F#8], 4, (.l, .a)⟩,
   ⟨.ld_a_b p, p.bytes ++ [0x78#8], 4 + extra p, (.a, .b)⟩,
   ⟨.ld_a_c p, p.bytes ++ [0x79#8], 4 + extra p, (.a, .c)⟩,
   ⟨.ld_a_d p, p.bytes ++ [0x7A#8], 4 + extra p, (.a, .d)⟩,
   ⟨.ld_a_e p, p.bytes ++ [0x7B#8], 4 + extra p, (.a, .e)⟩,
   ⟨.ld_a_h, [0x7C#8], 4, (.a, .h)⟩,
   ⟨.ld_a_l, [0x7D#8], 4, (.a, .l)⟩,
   ⟨.ld_a_a p, p.bytes ++ [0x7F#8], 4 + extra p, (.a, .a)⟩,
   ⟨.ld_b_ixh, [0xDD#8, 0x44#8], 8, (.b, .ixh)⟩,
   ⟨.ld_b_ixl, [0xDD#8, 0x45#8], 8, (.b, .ixl)⟩,
   ⟨.ld_c_ixh, [0xDD#8, 0x4C#8], 8, (.c, .ixh)⟩,
   ⟨.ld_c_ixl, [0xDD#8, 0x4D#8], 8, (.c, .ixl)⟩,
   ⟨.ld_d_ixh, [0xDD#8, 0x54#8], 8, (.d, .ixh)⟩,
   ⟨.ld_d_ixl, [0xDD#8, 0x55#8], 8, (.d, .ixl)⟩,
   ⟨.ld_e_ixh, [0xDD#8, 0x5C#8], 8, (.e, .ixh)⟩,
   ⟨.ld_e_ixl, [0xDD#8, 0x5D#8], 8, (.e, .ixl)⟩,
   ⟨.ld_ixh_b, [0xDD#8, 0x60#8], 8, (.ixh, .b)⟩,
   ⟨.ld_ixh_c, [0xDD#8, 0x61#8], 8, (.ixh, .c)⟩,
   ⟨.ld_ixh_d, [0xDD#8, 0x62#8], 8, (.ixh, .d)⟩,
   ⟨.ld_ixh_e, [0xDD#8, 0x63#8], 8, (.ixh, .e)⟩,
   ⟨.ld_ixh_ixh, [0xDD#8, 0x64#8], 8, (.ixh, .ixh)⟩,
   ⟨.ld_ixh_ixl, [0xDD#8, 0x65#8], 8, (.ixh, .ixl)⟩,
   ⟨.ld_ixh_a, [0xDD#8, 0x67#8], 8, (.ixh, .a)⟩,
   ⟨.ld_ixl_b, [0xDD#8, 0x68#8], 8, (.ixl, .b)⟩,
   ⟨.ld_ixl_c, [0xDD#8, 0x69#8], 8, (.ixl, .c)⟩,
   ⟨.ld_ixl_d, [0xDD#8, 0x6A#8], 8, (.ixl, .d)⟩,
   ⟨.ld_ixl_e, [0xDD#8, 0x6B#8], 8, (.ixl, .e)⟩,
   ⟨.ld_ixl_ixh, [0xDD#8, 0x6C#8], 8, (.ixl, .ixh)⟩,
   ⟨.ld_ixl_ixl, [0xDD#8, 0x6D#8], 8, (.ixl, .ixl)⟩,
   ⟨.ld_ixl_a, [0xDD#8, 0x6F#8], 8, (.ixl, .a)⟩,
   ⟨.ld_a_ixh, [0xDD#8, 0x7C#8], 8, (.a, .ixh)⟩,
   ⟨.ld_a_ixl, [0xDD#8, 0x7D#8], 8, (.a, .ixl)⟩,
   ⟨.ld_b_iyh, [0xFD#8, 0x44#8], 8, (.b, .iyh)⟩,
   ⟨.ld_b_iyl, [0xFD#8, 0x45#8], 8, (.b, .iyl)⟩,
   ⟨.ld_c_iyh, [0xFD#8, 0x4C#8], 8, (.c, .iyh)⟩,
   ⟨.ld_c_iyl, [0xFD#8, 0x4D#8], 8, (.c, .iyl)⟩,
   ⟨.ld_d_iyh, [0xFD#8, 0x54#8], 8, (.d, .iyh)⟩,
   ⟨.ld_d_iyl, [0xFD#8, 0x55#8], 8, (.d, .iyl)⟩,
   ⟨.ld_e_iyh, [0xFD#8, 0x5C#8], 8, (.e, .iyh)⟩]

/-- Part of `registerLoads`. -/
noncomputable def registerLoads2 : List (Row (R8 × R8)) :=
  [⟨.ld_e_iyl, [0xFD#8, 0x5D#8], 8, (.e, .iyl)⟩,
   ⟨.ld_iyh_b, [0xFD#8, 0x60#8], 8, (.iyh, .b)⟩,
   ⟨.ld_iyh_c, [0xFD#8, 0x61#8], 8, (.iyh, .c)⟩,
   ⟨.ld_iyh_d, [0xFD#8, 0x62#8], 8, (.iyh, .d)⟩,
   ⟨.ld_iyh_e, [0xFD#8, 0x63#8], 8, (.iyh, .e)⟩,
   ⟨.ld_iyh_iyh, [0xFD#8, 0x64#8], 8, (.iyh, .iyh)⟩,
   ⟨.ld_iyh_iyl, [0xFD#8, 0x65#8], 8, (.iyh, .iyl)⟩,
   ⟨.ld_iyh_a, [0xFD#8, 0x67#8], 8, (.iyh, .a)⟩,
   ⟨.ld_iyl_b, [0xFD#8, 0x68#8], 8, (.iyl, .b)⟩,
   ⟨.ld_iyl_c, [0xFD#8, 0x69#8], 8, (.iyl, .c)⟩,
   ⟨.ld_iyl_d, [0xFD#8, 0x6A#8], 8, (.iyl, .d)⟩,
   ⟨.ld_iyl_e, [0xFD#8, 0x6B#8], 8, (.iyl, .e)⟩,
   ⟨.ld_iyl_iyh, [0xFD#8, 0x6C#8], 8, (.iyl, .iyh)⟩,
   ⟨.ld_iyl_iyl, [0xFD#8, 0x6D#8], 8, (.iyl, .iyl)⟩,
   ⟨.ld_iyl_a, [0xFD#8, 0x6F#8], 8, (.iyl, .a)⟩,
   ⟨.ld_a_iyh, [0xFD#8, 0x7C#8], 8, (.a, .iyh)⟩,
   ⟨.ld_a_iyl, [0xFD#8, 0x7D#8], 8, (.a, .iyl)⟩]

/-- `LD r,r'` and the index halves: destination and source (R401, R419). -/
noncomputable def registerLoads (p : IndexByte) : List (Row (R8 × R8)) :=
  registerLoads0 p ++ registerLoads1 p ++ registerLoads2

/-- `LD r,n`, `LD XRH,n` and `LD XRL,n`: destination (R402, R420). -/
noncomputable def immediateLoads (p : IndexByte) (n : Byte) : List (Row R8) :=
  [⟨.ld_b_n p n, p.bytes ++ [0x06#8, n], 7 + extra p, .b⟩,
   ⟨.ld_c_n p n, p.bytes ++ [0x0E#8, n], 7 + extra p, .c⟩,
   ⟨.ld_d_n p n, p.bytes ++ [0x16#8, n], 7 + extra p, .d⟩,
   ⟨.ld_e_n p n, p.bytes ++ [0x1E#8, n], 7 + extra p, .e⟩,
   ⟨.ld_h_n n, [0x26#8, n], 7, .h⟩,
   ⟨.ld_l_n n, [0x2E#8, n], 7, .l⟩,
   ⟨.ld_a_n p n, p.bytes ++ [0x3E#8, n], 7 + extra p, .a⟩,
   ⟨.ld_ixh_n n, [0xDD#8, 0x26#8, n], 11, .ixh⟩,
   ⟨.ld_ixl_n n, [0xDD#8, 0x2E#8, n], 11, .ixl⟩,
   ⟨.ld_iyh_n n, [0xFD#8, 0x26#8, n], 11, .iyh⟩,
   ⟨.ld_iyl_n n, [0xFD#8, 0x2E#8, n], 11, .iyl⟩]

/-- Loads of a byte: destination and address (R403, R404, R409 to R411). -/
noncomputable def byteLoads (s : State) (p : IndexByte) (d : Byte) (nn : Word) : List (Row (R8 × Word)) :=
  [⟨.ld_a__bc p, p.bytes ++ [0x0A#8], 7 + extra p, (.a, s.getR16 .bc)⟩,
   ⟨.ld_a__de p, p.bytes ++ [0x1A#8], 7 + extra p, (.a, s.getR16 .de)⟩,
   ⟨.ld_a__nn p nn, p.bytes ++ [0x3A#8, loByte nn, hiByte nn], 13 + extra p, (.a, nn)⟩,
   ⟨.ld_b__hl, [0x46#8], 7, (.b, s.hl)⟩,
   ⟨.ld_c__hl, [0x4E#8], 7, (.c, s.hl)⟩,
   ⟨.ld_d__hl, [0x56#8], 7, (.d, s.hl)⟩,
   ⟨.ld_e__hl, [0x5E#8], 7, (.e, s.hl)⟩,
   ⟨.ld_h__hl, [0x66#8], 7, (.h, s.hl)⟩,
   ⟨.ld_l__hl, [0x6E#8], 7, (.l, s.hl)⟩,
   ⟨.ld_a__hl, [0x7E#8], 7, (.a, s.hl)⟩,
   ⟨.ld_b__ixd d, [0xDD#8, 0x46#8, d], 19, (.b, s.idxAddr .ix d)⟩,
   ⟨.ld_c__ixd d, [0xDD#8, 0x4E#8, d], 19, (.c, s.idxAddr .ix d)⟩,
   ⟨.ld_d__ixd d, [0xDD#8, 0x56#8, d], 19, (.d, s.idxAddr .ix d)⟩,
   ⟨.ld_e__ixd d, [0xDD#8, 0x5E#8, d], 19, (.e, s.idxAddr .ix d)⟩,
   ⟨.ld_h__ixd d, [0xDD#8, 0x66#8, d], 19, (.h, s.idxAddr .ix d)⟩,
   ⟨.ld_l__ixd d, [0xDD#8, 0x6E#8, d], 19, (.l, s.idxAddr .ix d)⟩,
   ⟨.ld_a__ixd d, [0xDD#8, 0x7E#8, d], 19, (.a, s.idxAddr .ix d)⟩,
   ⟨.ld_b__iyd d, [0xFD#8, 0x46#8, d], 19, (.b, s.idxAddr .iy d)⟩,
   ⟨.ld_c__iyd d, [0xFD#8, 0x4E#8, d], 19, (.c, s.idxAddr .iy d)⟩,
   ⟨.ld_d__iyd d, [0xFD#8, 0x56#8, d], 19, (.d, s.idxAddr .iy d)⟩,
   ⟨.ld_e__iyd d, [0xFD#8, 0x5E#8, d], 19, (.e, s.idxAddr .iy d)⟩,
   ⟨.ld_h__iyd d, [0xFD#8, 0x66#8, d], 19, (.h, s.idxAddr .iy d)⟩,
   ⟨.ld_l__iyd d, [0xFD#8, 0x6E#8, d], 19, (.l, s.idxAddr .iy d)⟩,
   ⟨.ld_a__iyd d, [0xFD#8, 0x7E#8, d], 19, (.a, s.idxAddr .iy d)⟩]

/-- Stores of a byte: address and value (R405 to R408, R412 to R414). -/
noncomputable def byteStores (s : State) (p : IndexByte) (d n : Byte) (nn : Word) : List (Row (Word × Byte)) :=
  [⟨.ld__bc__a p, p.bytes ++ [0x02#8], 7 + extra p, (s.getR16 .bc, s.main.a)⟩,
   ⟨.ld__de__a p, p.bytes ++ [0x12#8], 7 + extra p, (s.getR16 .de, s.main.a)⟩,
   ⟨.ld__nn__a p nn, p.bytes ++ [0x32#8, loByte nn, hiByte nn], 13 + extra p, (nn, s.main.a)⟩,
   ⟨.ld__hl__n n, [0x36#8, n], 10, (s.hl, n)⟩,
   ⟨.ld__hl__b, [0x70#8], 7, (s.hl, s.getR8 .b)⟩,
   ⟨.ld__hl__c, [0x71#8], 7, (s.hl, s.getR8 .c)⟩,
   ⟨.ld__hl__d, [0x72#8], 7, (s.hl, s.getR8 .d)⟩,
   ⟨.ld__hl__e, [0x73#8], 7, (s.hl, s.getR8 .e)⟩,
   ⟨.ld__hl__h, [0x74#8], 7, (s.hl, s.getR8 .h)⟩,
   ⟨.ld__hl__l, [0x75#8], 7, (s.hl, s.getR8 .l)⟩,
   ⟨.ld__hl__a, [0x77#8], 7, (s.hl, s.getR8 .a)⟩,
   ⟨.ld__ixd__n d n, [0xDD#8, 0x36#8, d, n], 19, (s.idxAddr .ix d, n)⟩,
   ⟨.ld__ixd__b d, [0xDD#8, 0x70#8, d], 19, (s.idxAddr .ix d, s.getR8 .b)⟩,
   ⟨.ld__ixd__c d, [0xDD#8, 0x71#8, d], 19, (s.idxAddr .ix d, s.getR8 .c)⟩,
   ⟨.ld__ixd__d d, [0xDD#8, 0x72#8, d], 19, (s.idxAddr .ix d, s.getR8 .d)⟩,
   ⟨.ld__ixd__e d, [0xDD#8, 0x73#8, d], 19, (s.idxAddr .ix d, s.getR8 .e)⟩,
   ⟨.ld__ixd__h d, [0xDD#8, 0x74#8, d], 19, (s.idxAddr .ix d, s.getR8 .h)⟩,
   ⟨.ld__ixd__l d, [0xDD#8, 0x75#8, d], 19, (s.idxAddr .ix d, s.getR8 .l)⟩,
   ⟨.ld__ixd__a d, [0xDD#8, 0x77#8, d], 19, (s.idxAddr .ix d, s.getR8 .a)⟩,
   ⟨.ld__iyd__n d n, [0xFD#8, 0x36#8, d, n], 19, (s.idxAddr .iy d, n)⟩,
   ⟨.ld__iyd__b d, [0xFD#8, 0x70#8, d], 19, (s.idxAddr .iy d, s.getR8 .b)⟩,
   ⟨.ld__iyd__c d, [0xFD#8, 0x71#8, d], 19, (s.idxAddr .iy d, s.getR8 .c)⟩,
   ⟨.ld__iyd__d d, [0xFD#8, 0x72#8, d], 19, (s.idxAddr .iy d, s.getR8 .d)⟩,
   ⟨.ld__iyd__e d, [0xFD#8, 0x73#8, d], 19, (s.idxAddr .iy d, s.getR8 .e)⟩,
   ⟨.ld__iyd__h d, [0xFD#8, 0x74#8, d], 19, (s.idxAddr .iy d, s.getR8 .h)⟩,
   ⟨.ld__iyd__l d, [0xFD#8, 0x75#8, d], 19, (s.idxAddr .iy d, s.getR8 .l)⟩,
   ⟨.ld__iyd__a d, [0xFD#8, 0x77#8, d], 19, (s.idxAddr .iy d, s.getR8 .a)⟩]

/-- `LD rp,nn`, `LD XR,nn`, `LD SP,HLX`: destination and value (R451, R456). -/
noncomputable def pairLoads (s : State) (p : IndexByte) (nn : Word) : List (Row (R16 × Word)) :=
  [⟨.ld_bc_nn p nn, p.bytes ++ [0x01#8, loByte nn, hiByte nn], 10 + extra p, (.bc, nn)⟩,
   ⟨.ld_de_nn p nn, p.bytes ++ [0x11#8, loByte nn, hiByte nn], 10 + extra p, (.de, nn)⟩,
   ⟨.ld_hl_nn nn, [0x21#8, loByte nn, hiByte nn], 10, (.hl, nn)⟩,
   ⟨.ld_sp_nn p nn, p.bytes ++ [0x31#8, loByte nn, hiByte nn], 10 + extra p, (.sp, nn)⟩,
   ⟨.ld_ix_nn nn, [0xDD#8, 0x21#8, loByte nn, hiByte nn], 14, (.ix, nn)⟩,
   ⟨.ld_iy_nn nn, [0xFD#8, 0x21#8, loByte nn, hiByte nn], 14, (.iy, nn)⟩,
   ⟨.ld_sp_hl, [0xF9#8], 6, (.sp, s.getR16 .hl)⟩,
   ⟨.ld_sp_ix, [0xDD#8, 0xF9#8], 10, (.sp, s.getR16 .ix)⟩,
   ⟨.ld_sp_iy, [0xFD#8, 0xF9#8], 10, (.sp, s.getR16 .iy)⟩]

/-- Loads of a word: destination (R452, R453). -/
noncomputable def wordLoads (nn : Word) : List (Row R16) :=
  [⟨.ld_hl__nn nn, [0x2A#8, loByte nn, hiByte nn], 16, .hl⟩,
   ⟨.ld_bc__nn nn, [0xED#8, 0x4B#8, loByte nn, hiByte nn], 20, .bc⟩,
   ⟨.ld_de__nn nn, [0xED#8, 0x5B#8, loByte nn, hiByte nn], 20, .de⟩,
   ⟨.ld_hl__nn_ed nn, [0xED#8, 0x6B#8, loByte nn, hiByte nn], 20, .hl⟩,
   ⟨.ld_sp__nn nn, [0xED#8, 0x7B#8, loByte nn, hiByte nn], 20, .sp⟩,
   ⟨.ld_ix__nn nn, [0xDD#8, 0x2A#8, loByte nn, hiByte nn], 20, .ix⟩,
   ⟨.ld_iy__nn nn, [0xFD#8, 0x2A#8, loByte nn, hiByte nn], 20, .iy⟩]

/-- Stores of a word: source (R454, R455). -/
noncomputable def wordStores (nn : Word) : List (Row R16) :=
  [⟨.ld__nn__hl nn, [0x22#8, loByte nn, hiByte nn], 16, .hl⟩,
   ⟨.ld__nn__bc nn, [0xED#8, 0x43#8, loByte nn, hiByte nn], 20, .bc⟩,
   ⟨.ld__nn__de nn, [0xED#8, 0x53#8, loByte nn, hiByte nn], 20, .de⟩,
   ⟨.ld__nn__hl_ed nn, [0xED#8, 0x63#8, loByte nn, hiByte nn], 20, .hl⟩,
   ⟨.ld__nn__sp nn, [0xED#8, 0x73#8, loByte nn, hiByte nn], 20, .sp⟩,
   ⟨.ld__nn__ix nn, [0xDD#8, 0x22#8, loByte nn, hiByte nn], 20, .ix⟩,
   ⟨.ld__nn__iy nn, [0xFD#8, 0x22#8, loByte nn, hiByte nn], 20, .iy⟩]

/-- `PUSH`: source (R457). -/
noncomputable def pushes (p : IndexByte) : List (Row R16) :=
  [⟨.push_bc p, p.bytes ++ [0xC5#8], 11 + extra p, .bc⟩,
   ⟨.push_de p, p.bytes ++ [0xD5#8], 11 + extra p, .de⟩,
   ⟨.push_hl, [0xE5#8], 11, .hl⟩,
   ⟨.push_af p, p.bytes ++ [0xF5#8], 11 + extra p, .af⟩,
   ⟨.push_ix, [0xDD#8, 0xE5#8], 15, .ix⟩,
   ⟨.push_iy, [0xFD#8, 0xE5#8], 15, .iy⟩]

/-- `POP`: destination (R458). -/
noncomputable def pops (p : IndexByte) : List (Row R16) :=
  [⟨.pop_bc p, p.bytes ++ [0xC1#8], 10 + extra p, .bc⟩,
   ⟨.pop_de p, p.bytes ++ [0xD1#8], 10 + extra p, .de⟩,
   ⟨.pop_hl, [0xE1#8], 10, .hl⟩,
   ⟨.pop_af p, p.bytes ++ [0xF1#8], 10 + extra p, .af⟩,
   ⟨.pop_ix, [0xDD#8, 0xE1#8], 14, .ix⟩,
   ⟨.pop_iy, [0xFD#8, 0xE1#8], 14, .iy⟩]

/-- `EX (SP),HLX`: the register (R462). -/
noncomputable def stackExchanges : List (Row R16) :=
  [⟨.ex__sp__hl, [0xE3#8], 19, .hl⟩,
   ⟨.ex__sp__ix, [0xDD#8, 0xE3#8], 23, .ix⟩,
   ⟨.ex__sp__iy, [0xFD#8, 0xE3#8], 23, .iy⟩]

/-- Jumps: the condition where there is one, the target, and the cycles when it is not taken (R360
to R363, R365). -/
noncomputable def jumps (s : State) (p : IndexByte) (e : Byte) (nn : Word) : List (Row (Option Cond × Word × Nat)) :=
  [⟨.jp_nn p nn, p.bytes ++ [0xC3#8, loByte nn, hiByte nn], 10 + extra p, (none, nn, 10 + extra p)⟩,
   ⟨.jp__hl, [0xE9#8], 4, (none, s.getR16 .hl, 4)⟩,
   ⟨.jp__ix, [0xDD#8, 0xE9#8], 8, (none, s.getR16 .ix, 8)⟩,
   ⟨.jp__iy, [0xFD#8, 0xE9#8], 8, (none, s.getR16 .iy, 8)⟩,
   ⟨.jr_e p e, p.bytes ++ [0x18#8, e], 12 + extra p, (none, s.pc + e.signExtend 16, 12 + extra p)⟩,
   ⟨.jp_nz_nn p nn, p.bytes ++ [0xC2#8, loByte nn, hiByte nn], 10 + extra p, (some .nz, nn, 10 + extra p)⟩,
   ⟨.jp_z_nn p nn, p.bytes ++ [0xCA#8, loByte nn, hiByte nn], 10 + extra p, (some .z, nn, 10 + extra p)⟩,
   ⟨.jp_nc_nn p nn, p.bytes ++ [0xD2#8, loByte nn, hiByte nn], 10 + extra p, (some .nc, nn, 10 + extra p)⟩,
   ⟨.jp_c_nn p nn, p.bytes ++ [0xDA#8, loByte nn, hiByte nn], 10 + extra p, (some .c, nn, 10 + extra p)⟩,
   ⟨.jp_po_nn p nn, p.bytes ++ [0xE2#8, loByte nn, hiByte nn], 10 + extra p, (some .po, nn, 10 + extra p)⟩,
   ⟨.jp_pe_nn p nn, p.bytes ++ [0xEA#8, loByte nn, hiByte nn], 10 + extra p, (some .pe, nn, 10 + extra p)⟩,
   ⟨.jp_p_nn p nn, p.bytes ++ [0xF2#8, loByte nn, hiByte nn], 10 + extra p, (some .p, nn, 10 + extra p)⟩,
   ⟨.jp_m_nn p nn, p.bytes ++ [0xFA#8, loByte nn, hiByte nn], 10 + extra p, (some .m, nn, 10 + extra p)⟩,
   ⟨.jr_nz_e p e, p.bytes ++ [0x20#8, e], 12 + extra p, (some .nz, s.pc + e.signExtend 16, 7 + extra p)⟩,
   ⟨.jr_z_e p e, p.bytes ++ [0x28#8, e], 12 + extra p, (some .z, s.pc + e.signExtend 16, 7 + extra p)⟩,
   ⟨.jr_nc_e p e, p.bytes ++ [0x30#8, e], 12 + extra p, (some .nc, s.pc + e.signExtend 16, 7 + extra p)⟩,
   ⟨.jr_c_e p e, p.bytes ++ [0x38#8, e], 12 + extra p, (some .c, s.pc + e.signExtend 16, 7 + extra p)⟩]

/-- Calls and restarts: condition, target, cycles not taken (R366, R367, R372). -/
noncomputable def calls (p : IndexByte) (nn : Word) : List (Row (Option Cond × Word × Nat)) :=
  [⟨.rst_00h p, p.bytes ++ [0xC7#8], 11 + extra p, (none, 0x0000#16, 11 + extra p)⟩,
   ⟨.call_nn p nn, p.bytes ++ [0xCD#8, loByte nn, hiByte nn], 17 + extra p, (none, nn, 17 + extra p)⟩,
   ⟨.rst_08h p, p.bytes ++ [0xCF#8], 11 + extra p, (none, 0x0008#16, 11 + extra p)⟩,
   ⟨.rst_10h p, p.bytes ++ [0xD7#8], 11 + extra p, (none, 0x0010#16, 11 + extra p)⟩,
   ⟨.rst_18h p, p.bytes ++ [0xDF#8], 11 + extra p, (none, 0x0018#16, 11 + extra p)⟩,
   ⟨.rst_20h p, p.bytes ++ [0xE7#8], 11 + extra p, (none, 0x0020#16, 11 + extra p)⟩,
   ⟨.rst_28h p, p.bytes ++ [0xEF#8], 11 + extra p, (none, 0x0028#16, 11 + extra p)⟩,
   ⟨.rst_30h p, p.bytes ++ [0xF7#8], 11 + extra p, (none, 0x0030#16, 11 + extra p)⟩,
   ⟨.rst_38h p, p.bytes ++ [0xFF#8], 11 + extra p, (none, 0x0038#16, 11 + extra p)⟩,
   ⟨.call_nz_nn p nn, p.bytes ++ [0xC4#8, loByte nn, hiByte nn], 17 + extra p, (some .nz, nn, 10 + extra p)⟩,
   ⟨.call_z_nn p nn, p.bytes ++ [0xCC#8, loByte nn, hiByte nn], 17 + extra p, (some .z, nn, 10 + extra p)⟩,
   ⟨.call_nc_nn p nn, p.bytes ++ [0xD4#8, loByte nn, hiByte nn], 17 + extra p, (some .nc, nn, 10 + extra p)⟩,
   ⟨.call_c_nn p nn, p.bytes ++ [0xDC#8, loByte nn, hiByte nn], 17 + extra p, (some .c, nn, 10 + extra p)⟩,
   ⟨.call_po_nn p nn, p.bytes ++ [0xE4#8, loByte nn, hiByte nn], 17 + extra p, (some .po, nn, 10 + extra p)⟩,
   ⟨.call_pe_nn p nn, p.bytes ++ [0xEC#8, loByte nn, hiByte nn], 17 + extra p, (some .pe, nn, 10 + extra p)⟩,
   ⟨.call_p_nn p nn, p.bytes ++ [0xF4#8, loByte nn, hiByte nn], 17 + extra p, (some .p, nn, 10 + extra p)⟩,
   ⟨.call_m_nn p nn, p.bytes ++ [0xFC#8, loByte nn, hiByte nn], 17 + extra p, (some .m, nn, 10 + extra p)⟩]

/-- Returns: condition, cycles not taken (R368, R369). -/
noncomputable def returns (p : IndexByte) : List (Row (Option Cond × Nat)) :=
  [⟨.ret p, p.bytes ++ [0xC9#8], 10 + extra p, (none, 10 + extra p)⟩,
   ⟨.ret_nz p, p.bytes ++ [0xC0#8], 11 + extra p, (some .nz, 5 + extra p)⟩,
   ⟨.ret_z p, p.bytes ++ [0xC8#8], 11 + extra p, (some .z, 5 + extra p)⟩,
   ⟨.ret_nc p, p.bytes ++ [0xD0#8], 11 + extra p, (some .nc, 5 + extra p)⟩,
   ⟨.ret_c p, p.bytes ++ [0xD8#8], 11 + extra p, (some .c, 5 + extra p)⟩,
   ⟨.ret_po p, p.bytes ++ [0xE0#8], 11 + extra p, (some .po, 5 + extra p)⟩,
   ⟨.ret_pe p, p.bytes ++ [0xE8#8], 11 + extra p, (some .pe, 5 + extra p)⟩,
   ⟨.ret_p p, p.bytes ++ [0xF0#8], 11 + extra p, (some .p, 5 + extra p)⟩,
   ⟨.ret_m p, p.bytes ++ [0xF8#8], 11 + extra p, (some .m, 5 + extra p)⟩]

/-- Block transfers: whether the pointers go up, whether the instruction repeats (R503 to R506). -/
noncomputable def blockTransfers : List (Row (Bool × Bool)) :=
  [⟨.ldi, [0xED#8, 0xA0#8], 16, (true, false)⟩,
   ⟨.ldd, [0xED#8, 0xA8#8], 16, (false, false)⟩,
   ⟨.ldir, [0xED#8, 0xB0#8], 16, (true, true)⟩,
   ⟨.lddr, [0xED#8, 0xB8#8], 16, (false, true)⟩]

/-- Block searches (R507 to R510). -/
noncomputable def blockSearches : List (Row (Bool × Bool)) :=
  [⟨.cpi, [0xED#8, 0xA1#8], 16, (true, false)⟩,
   ⟨.cpd, [0xED#8, 0xA9#8], 16, (false, false)⟩,
   ⟨.cpir, [0xED#8, 0xB1#8], 16, (true, true)⟩,
   ⟨.cpdr, [0xED#8, 0xB9#8], 16, (false, true)⟩]

/-- Block inputs (R558 to R561). -/
noncomputable def blockInputs : List (Row (Bool × Bool)) :=
  [⟨.ini, [0xED#8, 0xA2#8], 16, (true, false)⟩,
   ⟨.ind, [0xED#8, 0xAA#8], 16, (false, false)⟩,
   ⟨.inir, [0xED#8, 0xB2#8], 16, (true, true)⟩,
   ⟨.indr, [0xED#8, 0xBA#8], 16, (false, true)⟩]

/-- Block outputs (R562 to R565). -/
noncomputable def blockOutputs : List (Row (Bool × Bool)) :=
  [⟨.outi, [0xED#8, 0xA3#8], 16, (true, false)⟩,
   ⟨.outd, [0xED#8, 0xAB#8], 16, (false, false)⟩,
   ⟨.otir, [0xED#8, 0xB3#8], 16, (true, true)⟩,
   ⟨.otdr, [0xED#8, 0xBB#8], 16, (false, true)⟩]

/-- `IN r,(C)`: destination; none for `IN F,(C)` (R553, R554). -/
noncomputable def registerInputs : List (Row (Option R8)) :=
  [⟨.in_b__c, [0xED#8, 0x40#8], 12, some .b⟩,
   ⟨.in_c__c, [0xED#8, 0x48#8], 12, some .c⟩,
   ⟨.in_d__c, [0xED#8, 0x50#8], 12, some .d⟩,
   ⟨.in_e__c, [0xED#8, 0x58#8], 12, some .e⟩,
   ⟨.in_h__c, [0xED#8, 0x60#8], 12, some .h⟩,
   ⟨.in_l__c, [0xED#8, 0x68#8], 12, some .l⟩,
   ⟨.in_a__c, [0xED#8, 0x78#8], 12, some .a⟩,
   ⟨.in_f__c, [0xED#8, 0x70#8], 12, none⟩]

/-- `OUT`: port and byte (R555 to R557). -/
noncomputable def outputs (s : State) (p : IndexByte) (n : Byte) : List (Row (Byte × Byte)) :=
  [⟨.out__n__a p n, p.bytes ++ [0xD3#8, n], 11 + extra p, (n, s.main.a)⟩,
   ⟨.out__c__b, [0xED#8, 0x41#8], 12, (s.main.c, s.getR8 .b)⟩,
   ⟨.out__c__c, [0xED#8, 0x49#8], 12, (s.main.c, s.getR8 .c)⟩,
   ⟨.out__c__d, [0xED#8, 0x51#8], 12, (s.main.c, s.getR8 .d)⟩,
   ⟨.out__c__e, [0xED#8, 0x59#8], 12, (s.main.c, s.getR8 .e)⟩,
   ⟨.out__c__h, [0xED#8, 0x61#8], 12, (s.main.c, s.getR8 .h)⟩,
   ⟨.out__c__l, [0xED#8, 0x69#8], 12, (s.main.c, s.getR8 .l)⟩,
   ⟨.out__c__0, [0xED#8, 0x71#8], 12, (s.main.c, s.params.outC0Value)⟩,
   ⟨.out__c__a, [0xED#8, 0x79#8], 12, (s.main.c, s.getR8 .a)⟩]

/-- Part of `accumulators`. -/
noncomputable def accumulators0 (s : State) (p : IndexByte) : List (Row (AluOp × Byte × List PortCall)) :=
  [⟨.add_a_b p, p.bytes ++ [0x80#8], 4 + extra p, (.add, s.getR8 .b, [])⟩,
   ⟨.add_a_c p, p.bytes ++ [0x81#8], 4 + extra p, (.add, s.getR8 .c, [])⟩,
   ⟨.add_a_d p, p.bytes ++ [0x82#8], 4 + extra p, (.add, s.getR8 .d, [])⟩,
   ⟨.add_a_e p, p.bytes ++ [0x83#8], 4 + extra p, (.add, s.getR8 .e, [])⟩,
   ⟨.add_a_h, [0x84#8], 4, (.add, s.getR8 .h, [])⟩,
   ⟨.add_a_l, [0x85#8], 4, (.add, s.getR8 .l, [])⟩,
   ⟨.add_a_a p, p.bytes ++ [0x87#8], 4 + extra p, (.add, s.getR8 .a, [])⟩,
   ⟨.adc_a_b p, p.bytes ++ [0x88#8], 4 + extra p, (.adc, s.getR8 .b, [])⟩,
   ⟨.adc_a_c p, p.bytes ++ [0x89#8], 4 + extra p, (.adc, s.getR8 .c, [])⟩,
   ⟨.adc_a_d p, p.bytes ++ [0x8A#8], 4 + extra p, (.adc, s.getR8 .d, [])⟩,
   ⟨.adc_a_e p, p.bytes ++ [0x8B#8], 4 + extra p, (.adc, s.getR8 .e, [])⟩,
   ⟨.adc_a_h, [0x8C#8], 4, (.adc, s.getR8 .h, [])⟩,
   ⟨.adc_a_l, [0x8D#8], 4, (.adc, s.getR8 .l, [])⟩,
   ⟨.adc_a_a p, p.bytes ++ [0x8F#8], 4 + extra p, (.adc, s.getR8 .a, [])⟩,
   ⟨.sub_b p, p.bytes ++ [0x90#8], 4 + extra p, (.sub, s.getR8 .b, [])⟩,
   ⟨.sub_c p, p.bytes ++ [0x91#8], 4 + extra p, (.sub, s.getR8 .c, [])⟩,
   ⟨.sub_d p, p.bytes ++ [0x92#8], 4 + extra p, (.sub, s.getR8 .d, [])⟩,
   ⟨.sub_e p, p.bytes ++ [0x93#8], 4 + extra p, (.sub, s.getR8 .e, [])⟩,
   ⟨.sub_h, [0x94#8], 4, (.sub, s.getR8 .h, [])⟩,
   ⟨.sub_l, [0x95#8], 4, (.sub, s.getR8 .l, [])⟩,
   ⟨.sub_a p, p.bytes ++ [0x97#8], 4 + extra p, (.sub, s.getR8 .a, [])⟩,
   ⟨.sbc_a_b p, p.bytes ++ [0x98#8], 4 + extra p, (.sbc, s.getR8 .b, [])⟩,
   ⟨.sbc_a_c p, p.bytes ++ [0x99#8], 4 + extra p, (.sbc, s.getR8 .c, [])⟩,
   ⟨.sbc_a_d p, p.bytes ++ [0x9A#8], 4 + extra p, (.sbc, s.getR8 .d, [])⟩,
   ⟨.sbc_a_e p, p.bytes ++ [0x9B#8], 4 + extra p, (.sbc, s.getR8 .e, [])⟩,
   ⟨.sbc_a_h, [0x9C#8], 4, (.sbc, s.getR8 .h, [])⟩,
   ⟨.sbc_a_l, [0x9D#8], 4, (.sbc, s.getR8 .l, [])⟩,
   ⟨.sbc_a_a p, p.bytes ++ [0x9F#8], 4 + extra p, (.sbc, s.getR8 .a, [])⟩,
   ⟨.and_b p, p.bytes ++ [0xA0#8], 4 + extra p, (.and, s.getR8 .b, [])⟩,
   ⟨.and_c p, p.bytes ++ [0xA1#8], 4 + extra p, (.and, s.getR8 .c, [])⟩,
   ⟨.and_d p, p.bytes ++ [0xA2#8], 4 + extra p, (.and, s.getR8 .d, [])⟩,
   ⟨.and_e p, p.bytes ++ [0xA3#8], 4 + extra p, (.and, s.getR8 .e, [])⟩,
   ⟨.and_h, [0xA4#8], 4, (.and, s.getR8 .h, [])⟩,
   ⟨.and_l, [0xA5#8], 4, (.and, s.getR8 .l, [])⟩,
   ⟨.and_a p, p.bytes ++ [0xA7#8], 4 + extra p, (.and, s.getR8 .a, [])⟩,
   ⟨.xor_b p, p.bytes ++ [0xA8#8], 4 + extra p, (.xor, s.getR8 .b, [])⟩,
   ⟨.xor_c p, p.bytes ++ [0xA9#8], 4 + extra p, (.xor, s.getR8 .c, [])⟩,
   ⟨.xor_d p, p.bytes ++ [0xAA#8], 4 + extra p, (.xor, s.getR8 .d, [])⟩,
   ⟨.xor_e p, p.bytes ++ [0xAB#8], 4 + extra p, (.xor, s.getR8 .e, [])⟩,
   ⟨.xor_h, [0xAC#8], 4, (.xor, s.getR8 .h, [])⟩]

/-- Part of `accumulators`. -/
noncomputable def accumulators1 (s : State) (p : IndexByte) (n : Byte) : List (Row (AluOp × Byte × List PortCall)) :=
  [⟨.xor_l, [0xAD#8], 4, (.xor, s.getR8 .l, [])⟩,
   ⟨.xor_a p, p.bytes ++ [0xAF#8], 4 + extra p, (.xor, s.getR8 .a, [])⟩,
   ⟨.or_b p, p.bytes ++ [0xB0#8], 4 + extra p, (.or, s.getR8 .b, [])⟩,
   ⟨.or_c p, p.bytes ++ [0xB1#8], 4 + extra p, (.or, s.getR8 .c, [])⟩,
   ⟨.or_d p, p.bytes ++ [0xB2#8], 4 + extra p, (.or, s.getR8 .d, [])⟩,
   ⟨.or_e p, p.bytes ++ [0xB3#8], 4 + extra p, (.or, s.getR8 .e, [])⟩,
   ⟨.or_h, [0xB4#8], 4, (.or, s.getR8 .h, [])⟩,
   ⟨.or_l, [0xB5#8], 4, (.or, s.getR8 .l, [])⟩,
   ⟨.or_a p, p.bytes ++ [0xB7#8], 4 + extra p, (.or, s.getR8 .a, [])⟩,
   ⟨.cp_b p, p.bytes ++ [0xB8#8], 4 + extra p, (.cp, s.getR8 .b, [])⟩,
   ⟨.cp_c p, p.bytes ++ [0xB9#8], 4 + extra p, (.cp, s.getR8 .c, [])⟩,
   ⟨.cp_d p, p.bytes ++ [0xBA#8], 4 + extra p, (.cp, s.getR8 .d, [])⟩,
   ⟨.cp_e p, p.bytes ++ [0xBB#8], 4 + extra p, (.cp, s.getR8 .e, [])⟩,
   ⟨.cp_h, [0xBC#8], 4, (.cp, s.getR8 .h, [])⟩,
   ⟨.cp_l, [0xBD#8], 4, (.cp, s.getR8 .l, [])⟩,
   ⟨.cp_a p, p.bytes ++ [0xBF#8], 4 + extra p, (.cp, s.getR8 .a, [])⟩,
   ⟨.add_a_n p n, p.bytes ++ [0xC6#8, n], 7 + extra p, (.add, n, [])⟩,
   ⟨.adc_a_n p n, p.bytes ++ [0xCE#8, n], 7 + extra p, (.adc, n, [])⟩,
   ⟨.sub_n p n, p.bytes ++ [0xD6#8, n], 7 + extra p, (.sub, n, [])⟩,
   ⟨.sbc_a_n p n, p.bytes ++ [0xDE#8, n], 7 + extra p, (.sbc, n, [])⟩,
   ⟨.and_n p n, p.bytes ++ [0xE6#8, n], 7 + extra p, (.and, n, [])⟩,
   ⟨.xor_n p n, p.bytes ++ [0xEE#8, n], 7 + extra p, (.xor, n, [])⟩,
   ⟨.or_n p n, p.bytes ++ [0xF6#8, n], 7 + extra p, (.or, n, [])⟩,
   ⟨.cp_n p n, p.bytes ++ [0xFE#8, n], 7 + extra p, (.cp, n, [])⟩,
   ⟨.add_a_ixh, [0xDD#8, 0x84#8], 8, (.add, s.getR8 .ixh, [])⟩,
   ⟨.add_a_ixl, [0xDD#8, 0x85#8], 8, (.add, s.getR8 .ixl, [])⟩,
   ⟨.adc_a_ixh, [0xDD#8, 0x8C#8], 8, (.adc, s.getR8 .ixh, [])⟩,
   ⟨.adc_a_ixl, [0xDD#8, 0x8D#8], 8, (.adc, s.getR8 .ixl, [])⟩,
   ⟨.sub_ixh, [0xDD#8, 0x94#8], 8, (.sub, s.getR8 .ixh, [])⟩,
   ⟨.sub_ixl, [0xDD#8, 0x95#8], 8, (.sub, s.getR8 .ixl, [])⟩,
   ⟨.sbc_a_ixh, [0xDD#8, 0x9C#8], 8, (.sbc, s.getR8 .ixh, [])⟩,
   ⟨.sbc_a_ixl, [0xDD#8, 0x9D#8], 8, (.sbc, s.getR8 .ixl, [])⟩,
   ⟨.and_ixh, [0xDD#8, 0xA4#8], 8, (.and, s.getR8 .ixh, [])⟩,
   ⟨.and_ixl, [0xDD#8, 0xA5#8], 8, (.and, s.getR8 .ixl, [])⟩,
   ⟨.xor_ixh, [0xDD#8, 0xAC#8], 8, (.xor, s.getR8 .ixh, [])⟩,
   ⟨.xor_ixl, [0xDD#8, 0xAD#8], 8, (.xor, s.getR8 .ixl, [])⟩,
   ⟨.or_ixh, [0xDD#8, 0xB4#8], 8, (.or, s.getR8 .ixh, [])⟩,
   ⟨.or_ixl, [0xDD#8, 0xB5#8], 8, (.or, s.getR8 .ixl, [])⟩,
   ⟨.cp_ixh, [0xDD#8, 0xBC#8], 8, (.cp, s.getR8 .ixh, [])⟩,
   ⟨.cp_ixl, [0xDD#8, 0xBD#8], 8, (.cp, s.getR8 .ixl, [])⟩]

/-- Part of `accumulators`. -/
noncomputable def accumulators2 (s : State) (d : Byte) : List (Row (AluOp × Byte × List PortCall)) :=
  [⟨.add_a_iyh, [0xFD#8, 0x84#8], 8, (.add, s.getR8 .iyh, [])⟩,
   ⟨.add_a_iyl, [0xFD#8, 0x85#8], 8, (.add, s.getR8 .iyl, [])⟩,
   ⟨.adc_a_iyh, [0xFD#8, 0x8C#8], 8, (.adc, s.getR8 .iyh, [])⟩,
   ⟨.adc_a_iyl, [0xFD#8, 0x8D#8], 8, (.adc, s.getR8 .iyl, [])⟩,
   ⟨.sub_iyh, [0xFD#8, 0x94#8], 8, (.sub, s.getR8 .iyh, [])⟩,
   ⟨.sub_iyl, [0xFD#8, 0x95#8], 8, (.sub, s.getR8 .iyl, [])⟩,
   ⟨.sbc_a_iyh, [0xFD#8, 0x9C#8], 8, (.sbc, s.getR8 .iyh, [])⟩,
   ⟨.sbc_a_iyl, [0xFD#8, 0x9D#8], 8, (.sbc, s.getR8 .iyl, [])⟩,
   ⟨.and_iyh, [0xFD#8, 0xA4#8], 8, (.and, s.getR8 .iyh, [])⟩,
   ⟨.and_iyl, [0xFD#8, 0xA5#8], 8, (.and, s.getR8 .iyl, [])⟩,
   ⟨.xor_iyh, [0xFD#8, 0xAC#8], 8, (.xor, s.getR8 .iyh, [])⟩,
   ⟨.xor_iyl, [0xFD#8, 0xAD#8], 8, (.xor, s.getR8 .iyl, [])⟩,
   ⟨.or_iyh, [0xFD#8, 0xB4#8], 8, (.or, s.getR8 .iyh, [])⟩,
   ⟨.or_iyl, [0xFD#8, 0xB5#8], 8, (.or, s.getR8 .iyl, [])⟩,
   ⟨.cp_iyh, [0xFD#8, 0xBC#8], 8, (.cp, s.getR8 .iyh, [])⟩,
   ⟨.cp_iyl, [0xFD#8, 0xBD#8], 8, (.cp, s.getR8 .iyl, [])⟩,
   ⟨.add_a__hl, [0x86#8], 7, (.add, s.peek s.hl, [.memRead s.hl (s.peek s.hl)])⟩,
   ⟨.adc_a__hl, [0x8E#8], 7, (.adc, s.peek s.hl, [.memRead s.hl (s.peek s.hl)])⟩,
   ⟨.sub__hl, [0x96#8], 7, (.sub, s.peek s.hl, [.memRead s.hl (s.peek s.hl)])⟩,
   ⟨.sbc_a__hl, [0x9E#8], 7, (.sbc, s.peek s.hl, [.memRead s.hl (s.peek s.hl)])⟩,
   ⟨.and__hl, [0xA6#8], 7, (.and, s.peek s.hl, [.memRead s.hl (s.peek s.hl)])⟩,
   ⟨.xor__hl, [0xAE#8], 7, (.xor, s.peek s.hl, [.memRead s.hl (s.peek s.hl)])⟩,
   ⟨.or__hl, [0xB6#8], 7, (.or, s.peek s.hl, [.memRead s.hl (s.peek s.hl)])⟩,
   ⟨.cp__hl, [0xBE#8], 7, (.cp, s.peek s.hl, [.memRead s.hl (s.peek s.hl)])⟩,
   ⟨.add_a__ixd d, [0xDD#8, 0x86#8, d], 19, (.add, s.peek (s.idxAddr .ix d), [.memRead (s.idxAddr .ix d) (s.peek (s.idxAddr .ix d))])⟩,
   ⟨.adc_a__ixd d, [0xDD#8, 0x8E#8, d], 19, (.adc, s.peek (s.idxAddr .ix d), [.memRead (s.idxAddr .ix d) (s.peek (s.idxAddr .ix d))])⟩,
   ⟨.sub__ixd d, [0xDD#8, 0x96#8, d], 19, (.sub, s.peek (s.idxAddr .ix d), [.memRead (s.idxAddr .ix d) (s.peek (s.idxAddr .ix d))])⟩,
   ⟨.sbc_a__ixd d, [0xDD#8, 0x9E#8, d], 19, (.sbc, s.peek (s.idxAddr .ix d), [.memRead (s.idxAddr .ix d) (s.peek (s.idxAddr .ix d))])⟩,
   ⟨.and__ixd d, [0xDD#8, 0xA6#8, d], 19, (.and, s.peek (s.idxAddr .ix d), [.memRead (s.idxAddr .ix d) (s.peek (s.idxAddr .ix d))])⟩,
   ⟨.xor__ixd d, [0xDD#8, 0xAE#8, d], 19, (.xor, s.peek (s.idxAddr .ix d), [.memRead (s.idxAddr .ix d) (s.peek (s.idxAddr .ix d))])⟩,
   ⟨.or__ixd d, [0xDD#8, 0xB6#8, d], 19, (.or, s.peek (s.idxAddr .ix d), [.memRead (s.idxAddr .ix d) (s.peek (s.idxAddr .ix d))])⟩,
   ⟨.cp__ixd d, [0xDD#8, 0xBE#8, d], 19, (.cp, s.peek (s.idxAddr .ix d), [.memRead (s.idxAddr .ix d) (s.peek (s.idxAddr .ix d))])⟩,
   ⟨.add_a__iyd d, [0xFD#8, 0x86#8, d], 19, (.add, s.peek (s.idxAddr .iy d), [.memRead (s.idxAddr .iy d) (s.peek (s.idxAddr .iy d))])⟩,
   ⟨.adc_a__iyd d, [0xFD#8, 0x8E#8, d], 19, (.adc, s.peek (s.idxAddr .iy d), [.memRead (s.idxAddr .iy d) (s.peek (s.idxAddr .iy d))])⟩,
   ⟨.sub__iyd d, [0xFD#8, 0x96#8, d], 19, (.sub, s.peek (s.idxAddr .iy d), [.memRead (s.idxAddr .iy d) (s.peek (s.idxAddr .iy d))])⟩,
   ⟨.sbc_a__iyd d, [0xFD#8, 0x9E#8, d], 19, (.sbc, s.peek (s.idxAddr .iy d), [.memRead (s.idxAddr .iy d) (s.peek (s.idxAddr .iy d))])⟩,
   ⟨.and__iyd d, [0xFD#8, 0xA6#8, d], 19, (.and, s.peek (s.idxAddr .iy d), [.memRead (s.idxAddr .iy d) (s.peek (s.idxAddr .iy d))])⟩,
   ⟨.xor__iyd d, [0xFD#8, 0xAE#8, d], 19, (.xor, s.peek (s.idxAddr .iy d), [.memRead (s.idxAddr .iy d) (s.peek (s.idxAddr .iy d))])⟩,
   ⟨.or__iyd d, [0xFD#8, 0xB6#8, d], 19, (.or, s.peek (s.idxAddr .iy d), [.memRead (s.idxAddr .iy d) (s.peek (s.idxAddr .iy d))])⟩,
   ⟨.cp__iyd d, [0xFD#8, 0xBE#8, d], 19, (.cp, s.peek (s.idxAddr .iy d), [.memRead (s.idxAddr .iy d) (s.peek (s.idxAddr .iy d))])⟩]

/-- The accumulator operations: operation, operand, port calls (R650 to R658). -/
noncomputable def accumulators (s : State) (p : IndexByte) (d n : Byte) : List (Row (AluOp × Byte × List PortCall)) :=
  accumulators0 s p ++ accumulators1 s p n ++ accumulators2 s d

/-- `INC` and `DEC` of a byte: whether up, and the operand (R659 to R664). -/
noncomputable def byteCounts (s : State) (p : IndexByte) (d : Byte) : List (Row (Bool × Place)) :=
  [⟨.inc_b p, p.bytes ++ [0x04#8], 4 + extra p, (true, .reg .b)⟩,
   ⟨.inc_c p, p.bytes ++ [0x0C#8], 4 + extra p, (true, .reg .c)⟩,
   ⟨.inc_d p, p.bytes ++ [0x14#8], 4 + extra p, (true, .reg .d)⟩,
   ⟨.inc_e p, p.bytes ++ [0x1C#8], 4 + extra p, (true, .reg .e)⟩,
   ⟨.inc_h, [0x24#8], 4, (true, .reg .h)⟩,
   ⟨.inc_l, [0x2C#8], 4, (true, .reg .l)⟩,
   ⟨.inc_a p, p.bytes ++ [0x3C#8], 4 + extra p, (true, .reg .a)⟩,
   ⟨.inc_ixh, [0xDD#8, 0x24#8], 8, (true, .reg .ixh)⟩,
   ⟨.inc_ixl, [0xDD#8, 0x2C#8], 8, (true, .reg .ixl)⟩,
   ⟨.inc_iyh, [0xFD#8, 0x24#8], 8, (true, .reg .iyh)⟩,
   ⟨.inc_iyl, [0xFD#8, 0x2C#8], 8, (true, .reg .iyl)⟩,
   ⟨.dec_b p, p.bytes ++ [0x05#8], 4 + extra p, (false, .reg .b)⟩,
   ⟨.dec_c p, p.bytes ++ [0x0D#8], 4 + extra p, (false, .reg .c)⟩,
   ⟨.dec_d p, p.bytes ++ [0x15#8], 4 + extra p, (false, .reg .d)⟩,
   ⟨.dec_e p, p.bytes ++ [0x1D#8], 4 + extra p, (false, .reg .e)⟩,
   ⟨.dec_h, [0x25#8], 4, (false, .reg .h)⟩,
   ⟨.dec_l, [0x2D#8], 4, (false, .reg .l)⟩,
   ⟨.dec_a p, p.bytes ++ [0x3D#8], 4 + extra p, (false, .reg .a)⟩,
   ⟨.dec_ixh, [0xDD#8, 0x25#8], 8, (false, .reg .ixh)⟩,
   ⟨.dec_ixl, [0xDD#8, 0x2D#8], 8, (false, .reg .ixl)⟩,
   ⟨.dec_iyh, [0xFD#8, 0x25#8], 8, (false, .reg .iyh)⟩,
   ⟨.dec_iyl, [0xFD#8, 0x2D#8], 8, (false, .reg .iyl)⟩,
   ⟨.inc__hl, [0x34#8], 11, (true, .mem s.hl)⟩,
   ⟨.inc__ixd d, [0xDD#8, 0x34#8, d], 23, (true, .mem (s.idxAddr .ix d))⟩,
   ⟨.inc__iyd d, [0xFD#8, 0x34#8, d], 23, (true, .mem (s.idxAddr .iy d))⟩,
   ⟨.dec__hl, [0x35#8], 11, (false, .mem s.hl)⟩,
   ⟨.dec__ixd d, [0xDD#8, 0x35#8, d], 23, (false, .mem (s.idxAddr .ix d))⟩,
   ⟨.dec__iyd d, [0xFD#8, 0x35#8, d], 23, (false, .mem (s.idxAddr .iy d))⟩]

/-- `ADD HL,rp` and `ADD XR,rp`: destination and source (R701, R702). -/
noncomputable def pairSums : List (Row (R16 × R16)) :=
  [⟨.add_hl_bc, [0x09#8], 11, (.hl, .bc)⟩,
   ⟨.add_hl_de, [0x19#8], 11, (.hl, .de)⟩,
   ⟨.add_hl_hl, [0x29#8], 11, (.hl, .hl)⟩,
   ⟨.add_hl_sp, [0x39#8], 11, (.hl, .sp)⟩,
   ⟨.add_ix_bc, [0xDD#8, 0x09#8], 15, (.ix, .bc)⟩,
   ⟨.add_ix_de, [0xDD#8, 0x19#8], 15, (.ix, .de)⟩,
   ⟨.add_ix_ix, [0xDD#8, 0x29#8], 15, (.ix, .ix)⟩,
   ⟨.add_ix_sp, [0xDD#8, 0x39#8], 15, (.ix, .sp)⟩,
   ⟨.add_iy_bc, [0xFD#8, 0x09#8], 15, (.iy, .bc)⟩,
   ⟨.add_iy_de, [0xFD#8, 0x19#8], 15, (.iy, .de)⟩,
   ⟨.add_iy_iy, [0xFD#8, 0x29#8], 15, (.iy, .iy)⟩,
   ⟨.add_iy_sp, [0xFD#8, 0x39#8], 15, (.iy, .sp)⟩]

/-- `ADC HL,rp` and `SBC HL,rp`: whether it subtracts, and the source (R703, R704). -/
noncomputable def carrySums : List (Row (Bool × R16)) :=
  [⟨.adc_hl_bc, [0xED#8, 0x4A#8], 15, (false, .bc)⟩,
   ⟨.adc_hl_de, [0xED#8, 0x5A#8], 15, (false, .de)⟩,
   ⟨.adc_hl_hl, [0xED#8, 0x6A#8], 15, (false, .hl)⟩,
   ⟨.adc_hl_sp, [0xED#8, 0x7A#8], 15, (false, .sp)⟩,
   ⟨.sbc_hl_bc, [0xED#8, 0x42#8], 15, (true, .bc)⟩,
   ⟨.sbc_hl_de, [0xED#8, 0x52#8], 15, (true, .de)⟩,
   ⟨.sbc_hl_hl, [0xED#8, 0x62#8], 15, (true, .hl)⟩,
   ⟨.sbc_hl_sp, [0xED#8, 0x72#8], 15, (true, .sp)⟩]

/-- `INC` and `DEC` of a pair: whether up, and the pair (R705, R706). -/
noncomputable def pairCounts (p : IndexByte) : List (Row (Bool × R16)) :=
  [⟨.inc_bc p, p.bytes ++ [0x03#8], 6 + extra p, (true, .bc)⟩,
   ⟨.inc_de p, p.bytes ++ [0x13#8], 6 + extra p, (true, .de)⟩,
   ⟨.inc_hl, [0x23#8], 6, (true, .hl)⟩,
   ⟨.inc_sp p, p.bytes ++ [0x33#8], 6 + extra p, (true, .sp)⟩,
   ⟨.inc_ix, [0xDD#8, 0x23#8], 10, (true, .ix)⟩,
   ⟨.inc_iy, [0xFD#8, 0x23#8], 10, (true, .iy)⟩,
   ⟨.dec_bc p, p.bytes ++ [0x0B#8], 6 + extra p, (false, .bc)⟩,
   ⟨.dec_de p, p.bytes ++ [0x1B#8], 6 + extra p, (false, .de)⟩,
   ⟨.dec_hl, [0x2B#8], 6, (false, .hl)⟩,
   ⟨.dec_sp p, p.bytes ++ [0x3B#8], 6 + extra p, (false, .sp)⟩,
   ⟨.dec_ix, [0xDD#8, 0x2B#8], 10, (false, .ix)⟩,
   ⟨.dec_iy, [0xFD#8, 0x2B#8], 10, (false, .iy)⟩]

/-- RLCA, RRCA, RLA, RRA (R750 to R754). -/
noncomputable def accumulatorRotates (p : IndexByte) : List (Row RotOp) :=
  [⟨.rlca p, p.bytes ++ [0x07#8], 4 + extra p, .rlc⟩,
   ⟨.rrca p, p.bytes ++ [0x0F#8], 4 + extra p, .rrc⟩,
   ⟨.rla p, p.bytes ++ [0x17#8], 4 + extra p, .rl⟩,
   ⟨.rra p, p.bytes ++ [0x1F#8], 4 + extra p, .rr⟩]

/-- Part of `rotates`. -/
noncomputable def rotates0 : List (Row (RotOp × Place)) :=
  [⟨.rlc_b, [0xCB#8, 0x00#8], 8, (.rlc, .reg .b)⟩,
   ⟨.rlc_c, [0xCB#8, 0x01#8], 8, (.rlc, .reg .c)⟩,
   ⟨.rlc_d, [0xCB#8, 0x02#8], 8, (.rlc, .reg .d)⟩,
   ⟨.rlc_e, [0xCB#8, 0x03#8], 8, (.rlc, .reg .e)⟩,
   ⟨.rlc_h, [0xCB#8, 0x04#8], 8, (.rlc, .reg .h)⟩,
   ⟨.rlc_l, [0xCB#8, 0x05#8], 8, (.rlc, .reg .l)⟩,
   ⟨.rlc_a, [0xCB#8, 0x07#8], 8, (.rlc, .reg .a)⟩,
   ⟨.rrc_b, [0xCB#8, 0x08#8], 8, (.rrc, .reg .b)⟩,
   ⟨.rrc_c, [0xCB#8, 0x09#8], 8, (.rrc, .reg .c)⟩,
   ⟨.rrc_d, [0xCB#8, 0x0A#8], 8, (.rrc, .reg .d)⟩,
   ⟨.rrc_e, [0xCB#8, 0x0B#8], 8, (.rrc, .reg .e)⟩,
   ⟨.rrc_h, [0xCB#8, 0x0C#8], 8, (.rrc, .reg .h)⟩,
   ⟨.rrc_l, [0xCB#8, 0x0D#8], 8, (.rrc, .reg .l)⟩,
   ⟨.rrc_a, [0xCB#8, 0x0F#8], 8, (.rrc, .reg .a)⟩,
   ⟨.rl_b, [0xCB#8, 0x10#8], 8, (.rl, .reg .b)⟩,
   ⟨.rl_c, [0xCB#8, 0x11#8], 8, (.rl, .reg .c)⟩,
   ⟨.rl_d, [0xCB#8, 0x12#8], 8, (.rl, .reg .d)⟩,
   ⟨.rl_e, [0xCB#8, 0x13#8], 8, (.rl, .reg .e)⟩,
   ⟨.rl_h, [0xCB#8, 0x14#8], 8, (.rl, .reg .h)⟩,
   ⟨.rl_l, [0xCB#8, 0x15#8], 8, (.rl, .reg .l)⟩,
   ⟨.rl_a, [0xCB#8, 0x17#8], 8, (.rl, .reg .a)⟩,
   ⟨.rr_b, [0xCB#8, 0x18#8], 8, (.rr, .reg .b)⟩,
   ⟨.rr_c, [0xCB#8, 0x19#8], 8, (.rr, .reg .c)⟩,
   ⟨.rr_d, [0xCB#8, 0x1A#8], 8, (.rr, .reg .d)⟩,
   ⟨.rr_e, [0xCB#8, 0x1B#8], 8, (.rr, .reg .e)⟩,
   ⟨.rr_h, [0xCB#8, 0x1C#8], 8, (.rr, .reg .h)⟩,
   ⟨.rr_l, [0xCB#8, 0x1D#8], 8, (.rr, .reg .l)⟩,
   ⟨.rr_a, [0xCB#8, 0x1F#8], 8, (.rr, .reg .a)⟩,
   ⟨.sla_b, [0xCB#8, 0x20#8], 8, (.sla, .reg .b)⟩,
   ⟨.sla_c, [0xCB#8, 0x21#8], 8, (.sla, .reg .c)⟩,
   ⟨.sla_d, [0xCB#8, 0x22#8], 8, (.sla, .reg .d)⟩,
   ⟨.sla_e, [0xCB#8, 0x23#8], 8, (.sla, .reg .e)⟩,
   ⟨.sla_h, [0xCB#8, 0x24#8], 8, (.sla, .reg .h)⟩,
   ⟨.sla_l, [0xCB#8, 0x25#8], 8, (.sla, .reg .l)⟩,
   ⟨.sla_a, [0xCB#8, 0x27#8], 8, (.sla, .reg .a)⟩,
   ⟨.sra_b, [0xCB#8, 0x28#8], 8, (.sra, .reg .b)⟩,
   ⟨.sra_c, [0xCB#8, 0x29#8], 8, (.sra, .reg .c)⟩,
   ⟨.sra_d, [0xCB#8, 0x2A#8], 8, (.sra, .reg .d)⟩,
   ⟨.sra_e, [0xCB#8, 0x2B#8], 8, (.sra, .reg .e)⟩,
   ⟨.sra_h, [0xCB#8, 0x2C#8], 8, (.sra, .reg .h)⟩]

/-- Part of `rotates`. -/
noncomputable def rotates1 (s : State) (d : Byte) : List (Row (RotOp × Place)) :=
  [⟨.sra_l, [0xCB#8, 0x2D#8], 8, (.sra, .reg .l)⟩,
   ⟨.sra_a, [0xCB#8, 0x2F#8], 8, (.sra, .reg .a)⟩,
   ⟨.sll_b, [0xCB#8, 0x30#8], 8, (.sll, .reg .b)⟩,
   ⟨.sll_c, [0xCB#8, 0x31#8], 8, (.sll, .reg .c)⟩,
   ⟨.sll_d, [0xCB#8, 0x32#8], 8, (.sll, .reg .d)⟩,
   ⟨.sll_e, [0xCB#8, 0x33#8], 8, (.sll, .reg .e)⟩,
   ⟨.sll_h, [0xCB#8, 0x34#8], 8, (.sll, .reg .h)⟩,
   ⟨.sll_l, [0xCB#8, 0x35#8], 8, (.sll, .reg .l)⟩,
   ⟨.sll_a, [0xCB#8, 0x37#8], 8, (.sll, .reg .a)⟩,
   ⟨.srl_b, [0xCB#8, 0x38#8], 8, (.srl, .reg .b)⟩,
   ⟨.srl_c, [0xCB#8, 0x39#8], 8, (.srl, .reg .c)⟩,
   ⟨.srl_d, [0xCB#8, 0x3A#8], 8, (.srl, .reg .d)⟩,
   ⟨.srl_e, [0xCB#8, 0x3B#8], 8, (.srl, .reg .e)⟩,
   ⟨.srl_h, [0xCB#8, 0x3C#8], 8, (.srl, .reg .h)⟩,
   ⟨.srl_l, [0xCB#8, 0x3D#8], 8, (.srl, .reg .l)⟩,
   ⟨.srl_a, [0xCB#8, 0x3F#8], 8, (.srl, .reg .a)⟩,
   ⟨.rlc__hl, [0xCB#8, 0x06#8], 15, (.rlc, .mem s.hl)⟩,
   ⟨.rrc__hl, [0xCB#8, 0x0E#8], 15, (.rrc, .mem s.hl)⟩,
   ⟨.rl__hl, [0xCB#8, 0x16#8], 15, (.rl, .mem s.hl)⟩,
   ⟨.rr__hl, [0xCB#8, 0x1E#8], 15, (.rr, .mem s.hl)⟩,
   ⟨.sla__hl, [0xCB#8, 0x26#8], 15, (.sla, .mem s.hl)⟩,
   ⟨.sra__hl, [0xCB#8, 0x2E#8], 15, (.sra, .mem s.hl)⟩,
   ⟨.sll__hl, [0xCB#8, 0x36#8], 15, (.sll, .mem s.hl)⟩,
   ⟨.srl__hl, [0xCB#8, 0x3E#8], 15, (.srl, .mem s.hl)⟩,
   ⟨.rlc__ixd d, [0xDD#8, 0xCB#8, d, 0x06#8], 23, (.rlc, .mem (s.idxAddr .ix d))⟩,
   ⟨.rrc__ixd d, [0xDD#8, 0xCB#8, d, 0x0E#8], 23, (.rrc, .mem (s.idxAddr .ix d))⟩,
   ⟨.rl__ixd d, [0xDD#8, 0xCB#8, d, 0x16#8], 23, (.rl, .mem (s.idxAddr .ix d))⟩,
   ⟨.rr__ixd d, [0xDD#8, 0xCB#8, d, 0x1E#8], 23, (.rr, .mem (s.idxAddr .ix d))⟩,
   ⟨.sla__ixd d, [0xDD#8, 0xCB#8, d, 0x26#8], 23, (.sla, .mem (s.idxAddr .ix d))⟩,
   ⟨.sra__ixd d, [0xDD#8, 0xCB#8, d, 0x2E#8], 23, (.sra, .mem (s.idxAddr .ix d))⟩,
   ⟨.sll__ixd d, [0xDD#8, 0xCB#8, d, 0x36#8], 23, (.sll, .mem (s.idxAddr .ix d))⟩,
   ⟨.srl__ixd d, [0xDD#8, 0xCB#8, d, 0x3E#8], 23, (.srl, .mem (s.idxAddr .ix d))⟩,
   ⟨.rlc__iyd d, [0xFD#8, 0xCB#8, d, 0x06#8], 23, (.rlc, .mem (s.idxAddr .iy d))⟩,
   ⟨.rrc__iyd d, [0xFD#8, 0xCB#8, d, 0x0E#8], 23, (.rrc, .mem (s.idxAddr .iy d))⟩,
   ⟨.rl__iyd d, [0xFD#8, 0xCB#8, d, 0x16#8], 23, (.rl, .mem (s.idxAddr .iy d))⟩,
   ⟨.rr__iyd d, [0xFD#8, 0xCB#8, d, 0x1E#8], 23, (.rr, .mem (s.idxAddr .iy d))⟩,
   ⟨.sla__iyd d, [0xFD#8, 0xCB#8, d, 0x26#8], 23, (.sla, .mem (s.idxAddr .iy d))⟩,
   ⟨.sra__iyd d, [0xFD#8, 0xCB#8, d, 0x2E#8], 23, (.sra, .mem (s.idxAddr .iy d))⟩,
   ⟨.sll__iyd d, [0xFD#8, 0xCB#8, d, 0x36#8], 23, (.sll, .mem (s.idxAddr .iy d))⟩,
   ⟨.srl__iyd d, [0xFD#8, 0xCB#8, d, 0x3E#8], 23, (.srl, .mem (s.idxAddr .iy d))⟩]

/-- Part of `rotates`. -/
noncomputable def rotates2 (s : State) (d : Byte) : List (Row (RotOp × Place)) :=
  [⟨.rlc__ixd__b d, [0xDD#8, 0xCB#8, d, 0x00#8], 23, (.rlc, .memCopy (s.idxAddr .ix d) .b)⟩,
   ⟨.rlc__ixd__c d, [0xDD#8, 0xCB#8, d, 0x01#8], 23, (.rlc, .memCopy (s.idxAddr .ix d) .c)⟩,
   ⟨.rlc__ixd__d d, [0xDD#8, 0xCB#8, d, 0x02#8], 23, (.rlc, .memCopy (s.idxAddr .ix d) .d)⟩,
   ⟨.rlc__ixd__e d, [0xDD#8, 0xCB#8, d, 0x03#8], 23, (.rlc, .memCopy (s.idxAddr .ix d) .e)⟩,
   ⟨.rlc__ixd__h d, [0xDD#8, 0xCB#8, d, 0x04#8], 23, (.rlc, .memCopy (s.idxAddr .ix d) .h)⟩,
   ⟨.rlc__ixd__l d, [0xDD#8, 0xCB#8, d, 0x05#8], 23, (.rlc, .memCopy (s.idxAddr .ix d) .l)⟩,
   ⟨.rlc__ixd__a d, [0xDD#8, 0xCB#8, d, 0x07#8], 23, (.rlc, .memCopy (s.idxAddr .ix d) .a)⟩,
   ⟨.rrc__ixd__b d, [0xDD#8, 0xCB#8, d, 0x08#8], 23, (.rrc, .memCopy (s.idxAddr .ix d) .b)⟩,
   ⟨.rrc__ixd__c d, [0xDD#8, 0xCB#8, d, 0x09#8], 23, (.rrc, .memCopy (s.idxAddr .ix d) .c)⟩,
   ⟨.rrc__ixd__d d, [0xDD#8, 0xCB#8, d, 0x0A#8], 23, (.rrc, .memCopy (s.idxAddr .ix d) .d)⟩,
   ⟨.rrc__ixd__e d, [0xDD#8, 0xCB#8, d, 0x0B#8], 23, (.rrc, .memCopy (s.idxAddr .ix d) .e)⟩,
   ⟨.rrc__ixd__h d, [0xDD#8, 0xCB#8, d, 0x0C#8], 23, (.rrc, .memCopy (s.idxAddr .ix d) .h)⟩,
   ⟨.rrc__ixd__l d, [0xDD#8, 0xCB#8, d, 0x0D#8], 23, (.rrc, .memCopy (s.idxAddr .ix d) .l)⟩,
   ⟨.rrc__ixd__a d, [0xDD#8, 0xCB#8, d, 0x0F#8], 23, (.rrc, .memCopy (s.idxAddr .ix d) .a)⟩,
   ⟨.rl__ixd__b d, [0xDD#8, 0xCB#8, d, 0x10#8], 23, (.rl, .memCopy (s.idxAddr .ix d) .b)⟩,
   ⟨.rl__ixd__c d, [0xDD#8, 0xCB#8, d, 0x11#8], 23, (.rl, .memCopy (s.idxAddr .ix d) .c)⟩,
   ⟨.rl__ixd__d d, [0xDD#8, 0xCB#8, d, 0x12#8], 23, (.rl, .memCopy (s.idxAddr .ix d) .d)⟩,
   ⟨.rl__ixd__e d, [0xDD#8, 0xCB#8, d, 0x13#8], 23, (.rl, .memCopy (s.idxAddr .ix d) .e)⟩,
   ⟨.rl__ixd__h d, [0xDD#8, 0xCB#8, d, 0x14#8], 23, (.rl, .memCopy (s.idxAddr .ix d) .h)⟩,
   ⟨.rl__ixd__l d, [0xDD#8, 0xCB#8, d, 0x15#8], 23, (.rl, .memCopy (s.idxAddr .ix d) .l)⟩,
   ⟨.rl__ixd__a d, [0xDD#8, 0xCB#8, d, 0x17#8], 23, (.rl, .memCopy (s.idxAddr .ix d) .a)⟩,
   ⟨.rr__ixd__b d, [0xDD#8, 0xCB#8, d, 0x18#8], 23, (.rr, .memCopy (s.idxAddr .ix d) .b)⟩,
   ⟨.rr__ixd__c d, [0xDD#8, 0xCB#8, d, 0x19#8], 23, (.rr, .memCopy (s.idxAddr .ix d) .c)⟩,
   ⟨.rr__ixd__d d, [0xDD#8, 0xCB#8, d, 0x1A#8], 23, (.rr, .memCopy (s.idxAddr .ix d) .d)⟩,
   ⟨.rr__ixd__e d, [0xDD#8, 0xCB#8, d, 0x1B#8], 23, (.rr, .memCopy (s.idxAddr .ix d) .e)⟩,
   ⟨.rr__ixd__h d, [0xDD#8, 0xCB#8, d, 0x1C#8], 23, (.rr, .memCopy (s.idxAddr .ix d) .h)⟩,
   ⟨.rr__ixd__l d, [0xDD#8, 0xCB#8, d, 0x1D#8], 23, (.rr, .memCopy (s.idxAddr .ix d) .l)⟩,
   ⟨.rr__ixd__a d, [0xDD#8, 0xCB#8, d, 0x1F#8], 23, (.rr, .memCopy (s.idxAddr .ix d) .a)⟩,
   ⟨.sla__ixd__b d, [0xDD#8, 0xCB#8, d, 0x20#8], 23, (.sla, .memCopy (s.idxAddr .ix d) .b)⟩,
   ⟨.sla__ixd__c d, [0xDD#8, 0xCB#8, d, 0x21#8], 23, (.sla, .memCopy (s.idxAddr .ix d) .c)⟩,
   ⟨.sla__ixd__d d, [0xDD#8, 0xCB#8, d, 0x22#8], 23, (.sla, .memCopy (s.idxAddr .ix d) .d)⟩,
   ⟨.sla__ixd__e d, [0xDD#8, 0xCB#8, d, 0x23#8], 23, (.sla, .memCopy (s.idxAddr .ix d) .e)⟩,
   ⟨.sla__ixd__h d, [0xDD#8, 0xCB#8, d, 0x24#8], 23, (.sla, .memCopy (s.idxAddr .ix d) .h)⟩,
   ⟨.sla__ixd__l d, [0xDD#8, 0xCB#8, d, 0x25#8], 23, (.sla, .memCopy (s.idxAddr .ix d) .l)⟩,
   ⟨.sla__ixd__a d, [0xDD#8, 0xCB#8, d, 0x27#8], 23, (.sla, .memCopy (s.idxAddr .ix d) .a)⟩,
   ⟨.sra__ixd__b d, [0xDD#8, 0xCB#8, d, 0x28#8], 23, (.sra, .memCopy (s.idxAddr .ix d) .b)⟩,
   ⟨.sra__ixd__c d, [0xDD#8, 0xCB#8, d, 0x29#8], 23, (.sra, .memCopy (s.idxAddr .ix d) .c)⟩,
   ⟨.sra__ixd__d d, [0xDD#8, 0xCB#8, d, 0x2A#8], 23, (.sra, .memCopy (s.idxAddr .ix d) .d)⟩,
   ⟨.sra__ixd__e d, [0xDD#8, 0xCB#8, d, 0x2B#8], 23, (.sra, .memCopy (s.idxAddr .ix d) .e)⟩,
   ⟨.sra__ixd__h d, [0xDD#8, 0xCB#8, d, 0x2C#8], 23, (.sra, .memCopy (s.idxAddr .ix d) .h)⟩]

/-- Part of `rotates`. -/
noncomputable def rotates3 (s : State) (d : Byte) : List (Row (RotOp × Place)) :=
  [⟨.sra__ixd__l d, [0xDD#8, 0xCB#8, d, 0x2D#8], 23, (.sra, .memCopy (s.idxAddr .ix d) .l)⟩,
   ⟨.sra__ixd__a d, [0xDD#8, 0xCB#8, d, 0x2F#8], 23, (.sra, .memCopy (s.idxAddr .ix d) .a)⟩,
   ⟨.sll__ixd__b d, [0xDD#8, 0xCB#8, d, 0x30#8], 23, (.sll, .memCopy (s.idxAddr .ix d) .b)⟩,
   ⟨.sll__ixd__c d, [0xDD#8, 0xCB#8, d, 0x31#8], 23, (.sll, .memCopy (s.idxAddr .ix d) .c)⟩,
   ⟨.sll__ixd__d d, [0xDD#8, 0xCB#8, d, 0x32#8], 23, (.sll, .memCopy (s.idxAddr .ix d) .d)⟩,
   ⟨.sll__ixd__e d, [0xDD#8, 0xCB#8, d, 0x33#8], 23, (.sll, .memCopy (s.idxAddr .ix d) .e)⟩,
   ⟨.sll__ixd__h d, [0xDD#8, 0xCB#8, d, 0x34#8], 23, (.sll, .memCopy (s.idxAddr .ix d) .h)⟩,
   ⟨.sll__ixd__l d, [0xDD#8, 0xCB#8, d, 0x35#8], 23, (.sll, .memCopy (s.idxAddr .ix d) .l)⟩,
   ⟨.sll__ixd__a d, [0xDD#8, 0xCB#8, d, 0x37#8], 23, (.sll, .memCopy (s.idxAddr .ix d) .a)⟩,
   ⟨.srl__ixd__b d, [0xDD#8, 0xCB#8, d, 0x38#8], 23, (.srl, .memCopy (s.idxAddr .ix d) .b)⟩,
   ⟨.srl__ixd__c d, [0xDD#8, 0xCB#8, d, 0x39#8], 23, (.srl, .memCopy (s.idxAddr .ix d) .c)⟩,
   ⟨.srl__ixd__d d, [0xDD#8, 0xCB#8, d, 0x3A#8], 23, (.srl, .memCopy (s.idxAddr .ix d) .d)⟩,
   ⟨.srl__ixd__e d, [0xDD#8, 0xCB#8, d, 0x3B#8], 23, (.srl, .memCopy (s.idxAddr .ix d) .e)⟩,
   ⟨.srl__ixd__h d, [0xDD#8, 0xCB#8, d, 0x3C#8], 23, (.srl, .memCopy (s.idxAddr .ix d) .h)⟩,
   ⟨.srl__ixd__l d, [0xDD#8, 0xCB#8, d, 0x3D#8], 23, (.srl, .memCopy (s.idxAddr .ix d) .l)⟩,
   ⟨.srl__ixd__a d, [0xDD#8, 0xCB#8, d, 0x3F#8], 23, (.srl, .memCopy (s.idxAddr .ix d) .a)⟩,
   ⟨.rlc__iyd__b d, [0xFD#8, 0xCB#8, d, 0x00#8], 23, (.rlc, .memCopy (s.idxAddr .iy d) .b)⟩,
   ⟨.rlc__iyd__c d, [0xFD#8, 0xCB#8, d, 0x01#8], 23, (.rlc, .memCopy (s.idxAddr .iy d) .c)⟩,
   ⟨.rlc__iyd__d d, [0xFD#8, 0xCB#8, d, 0x02#8], 23, (.rlc, .memCopy (s.idxAddr .iy d) .d)⟩,
   ⟨.rlc__iyd__e d, [0xFD#8, 0xCB#8, d, 0x03#8], 23, (.rlc, .memCopy (s.idxAddr .iy d) .e)⟩,
   ⟨.rlc__iyd__h d, [0xFD#8, 0xCB#8, d, 0x04#8], 23, (.rlc, .memCopy (s.idxAddr .iy d) .h)⟩,
   ⟨.rlc__iyd__l d, [0xFD#8, 0xCB#8, d, 0x05#8], 23, (.rlc, .memCopy (s.idxAddr .iy d) .l)⟩,
   ⟨.rlc__iyd__a d, [0xFD#8, 0xCB#8, d, 0x07#8], 23, (.rlc, .memCopy (s.idxAddr .iy d) .a)⟩,
   ⟨.rrc__iyd__b d, [0xFD#8, 0xCB#8, d, 0x08#8], 23, (.rrc, .memCopy (s.idxAddr .iy d) .b)⟩,
   ⟨.rrc__iyd__c d, [0xFD#8, 0xCB#8, d, 0x09#8], 23, (.rrc, .memCopy (s.idxAddr .iy d) .c)⟩,
   ⟨.rrc__iyd__d d, [0xFD#8, 0xCB#8, d, 0x0A#8], 23, (.rrc, .memCopy (s.idxAddr .iy d) .d)⟩,
   ⟨.rrc__iyd__e d, [0xFD#8, 0xCB#8, d, 0x0B#8], 23, (.rrc, .memCopy (s.idxAddr .iy d) .e)⟩,
   ⟨.rrc__iyd__h d, [0xFD#8, 0xCB#8, d, 0x0C#8], 23, (.rrc, .memCopy (s.idxAddr .iy d) .h)⟩,
   ⟨.rrc__iyd__l d, [0xFD#8, 0xCB#8, d, 0x0D#8], 23, (.rrc, .memCopy (s.idxAddr .iy d) .l)⟩,
   ⟨.rrc__iyd__a d, [0xFD#8, 0xCB#8, d, 0x0F#8], 23, (.rrc, .memCopy (s.idxAddr .iy d) .a)⟩,
   ⟨.rl__iyd__b d, [0xFD#8, 0xCB#8, d, 0x10#8], 23, (.rl, .memCopy (s.idxAddr .iy d) .b)⟩,
   ⟨.rl__iyd__c d, [0xFD#8, 0xCB#8, d, 0x11#8], 23, (.rl, .memCopy (s.idxAddr .iy d) .c)⟩,
   ⟨.rl__iyd__d d, [0xFD#8, 0xCB#8, d, 0x12#8], 23, (.rl, .memCopy (s.idxAddr .iy d) .d)⟩,
   ⟨.rl__iyd__e d, [0xFD#8, 0xCB#8, d, 0x13#8], 23, (.rl, .memCopy (s.idxAddr .iy d) .e)⟩,
   ⟨.rl__iyd__h d, [0xFD#8, 0xCB#8, d, 0x14#8], 23, (.rl, .memCopy (s.idxAddr .iy d) .h)⟩,
   ⟨.rl__iyd__l d, [0xFD#8, 0xCB#8, d, 0x15#8], 23, (.rl, .memCopy (s.idxAddr .iy d) .l)⟩,
   ⟨.rl__iyd__a d, [0xFD#8, 0xCB#8, d, 0x17#8], 23, (.rl, .memCopy (s.idxAddr .iy d) .a)⟩,
   ⟨.rr__iyd__b d, [0xFD#8, 0xCB#8, d, 0x18#8], 23, (.rr, .memCopy (s.idxAddr .iy d) .b)⟩,
   ⟨.rr__iyd__c d, [0xFD#8, 0xCB#8, d, 0x19#8], 23, (.rr, .memCopy (s.idxAddr .iy d) .c)⟩,
   ⟨.rr__iyd__d d, [0xFD#8, 0xCB#8, d, 0x1A#8], 23, (.rr, .memCopy (s.idxAddr .iy d) .d)⟩]

/-- Part of `rotates`. -/
noncomputable def rotates4 (s : State) (d : Byte) : List (Row (RotOp × Place)) :=
  [⟨.rr__iyd__e d, [0xFD#8, 0xCB#8, d, 0x1B#8], 23, (.rr, .memCopy (s.idxAddr .iy d) .e)⟩,
   ⟨.rr__iyd__h d, [0xFD#8, 0xCB#8, d, 0x1C#8], 23, (.rr, .memCopy (s.idxAddr .iy d) .h)⟩,
   ⟨.rr__iyd__l d, [0xFD#8, 0xCB#8, d, 0x1D#8], 23, (.rr, .memCopy (s.idxAddr .iy d) .l)⟩,
   ⟨.rr__iyd__a d, [0xFD#8, 0xCB#8, d, 0x1F#8], 23, (.rr, .memCopy (s.idxAddr .iy d) .a)⟩,
   ⟨.sla__iyd__b d, [0xFD#8, 0xCB#8, d, 0x20#8], 23, (.sla, .memCopy (s.idxAddr .iy d) .b)⟩,
   ⟨.sla__iyd__c d, [0xFD#8, 0xCB#8, d, 0x21#8], 23, (.sla, .memCopy (s.idxAddr .iy d) .c)⟩,
   ⟨.sla__iyd__d d, [0xFD#8, 0xCB#8, d, 0x22#8], 23, (.sla, .memCopy (s.idxAddr .iy d) .d)⟩,
   ⟨.sla__iyd__e d, [0xFD#8, 0xCB#8, d, 0x23#8], 23, (.sla, .memCopy (s.idxAddr .iy d) .e)⟩,
   ⟨.sla__iyd__h d, [0xFD#8, 0xCB#8, d, 0x24#8], 23, (.sla, .memCopy (s.idxAddr .iy d) .h)⟩,
   ⟨.sla__iyd__l d, [0xFD#8, 0xCB#8, d, 0x25#8], 23, (.sla, .memCopy (s.idxAddr .iy d) .l)⟩,
   ⟨.sla__iyd__a d, [0xFD#8, 0xCB#8, d, 0x27#8], 23, (.sla, .memCopy (s.idxAddr .iy d) .a)⟩,
   ⟨.sra__iyd__b d, [0xFD#8, 0xCB#8, d, 0x28#8], 23, (.sra, .memCopy (s.idxAddr .iy d) .b)⟩,
   ⟨.sra__iyd__c d, [0xFD#8, 0xCB#8, d, 0x29#8], 23, (.sra, .memCopy (s.idxAddr .iy d) .c)⟩,
   ⟨.sra__iyd__d d, [0xFD#8, 0xCB#8, d, 0x2A#8], 23, (.sra, .memCopy (s.idxAddr .iy d) .d)⟩,
   ⟨.sra__iyd__e d, [0xFD#8, 0xCB#8, d, 0x2B#8], 23, (.sra, .memCopy (s.idxAddr .iy d) .e)⟩,
   ⟨.sra__iyd__h d, [0xFD#8, 0xCB#8, d, 0x2C#8], 23, (.sra, .memCopy (s.idxAddr .iy d) .h)⟩,
   ⟨.sra__iyd__l d, [0xFD#8, 0xCB#8, d, 0x2D#8], 23, (.sra, .memCopy (s.idxAddr .iy d) .l)⟩,
   ⟨.sra__iyd__a d, [0xFD#8, 0xCB#8, d, 0x2F#8], 23, (.sra, .memCopy (s.idxAddr .iy d) .a)⟩,
   ⟨.sll__iyd__b d, [0xFD#8, 0xCB#8, d, 0x30#8], 23, (.sll, .memCopy (s.idxAddr .iy d) .b)⟩,
   ⟨.sll__iyd__c d, [0xFD#8, 0xCB#8, d, 0x31#8], 23, (.sll, .memCopy (s.idxAddr .iy d) .c)⟩,
   ⟨.sll__iyd__d d, [0xFD#8, 0xCB#8, d, 0x32#8], 23, (.sll, .memCopy (s.idxAddr .iy d) .d)⟩,
   ⟨.sll__iyd__e d, [0xFD#8, 0xCB#8, d, 0x33#8], 23, (.sll, .memCopy (s.idxAddr .iy d) .e)⟩,
   ⟨.sll__iyd__h d, [0xFD#8, 0xCB#8, d, 0x34#8], 23, (.sll, .memCopy (s.idxAddr .iy d) .h)⟩,
   ⟨.sll__iyd__l d, [0xFD#8, 0xCB#8, d, 0x35#8], 23, (.sll, .memCopy (s.idxAddr .iy d) .l)⟩,
   ⟨.sll__iyd__a d, [0xFD#8, 0xCB#8, d, 0x37#8], 23, (.sll, .memCopy (s.idxAddr .iy d) .a)⟩,
   ⟨.srl__iyd__b d, [0xFD#8, 0xCB#8, d, 0x38#8], 23, (.srl, .memCopy (s.idxAddr .iy d) .b)⟩,
   ⟨.srl__iyd__c d, [0xFD#8, 0xCB#8, d, 0x39#8], 23, (.srl, .memCopy (s.idxAddr .iy d) .c)⟩,
   ⟨.srl__iyd__d d, [0xFD#8, 0xCB#8, d, 0x3A#8], 23, (.srl, .memCopy (s.idxAddr .iy d) .d)⟩,
   ⟨.srl__iyd__e d, [0xFD#8, 0xCB#8, d, 0x3B#8], 23, (.srl, .memCopy (s.idxAddr .iy d) .e)⟩,
   ⟨.srl__iyd__h d, [0xFD#8, 0xCB#8, d, 0x3C#8], 23, (.srl, .memCopy (s.idxAddr .iy d) .h)⟩,
   ⟨.srl__iyd__l d, [0xFD#8, 0xCB#8, d, 0x3D#8], 23, (.srl, .memCopy (s.idxAddr .iy d) .l)⟩,
   ⟨.srl__iyd__a d, [0xFD#8, 0xCB#8, d, 0x3F#8], 23, (.srl, .memCopy (s.idxAddr .iy d) .a)⟩]

/-- Rotates and shifts: operation and operand (R755 to R763). -/
noncomputable def rotates (s : State) (d : Byte) : List (Row (RotOp × Place)) :=
  rotates0 ++ rotates1 s d ++ rotates2 s d ++ rotates3 s d ++ rotates4 s d

/-- Part of `bitTests`. -/
noncomputable def bitTests0 (s : State) : List (Row (Nat × Byte × Byte × List PortCall)) :=
  [⟨.bit_0_b, [0xCB#8, 0x40#8], 8, (0, s.getR8 .b, s.getR8 .b, [])⟩,
   ⟨.bit_0_c, [0xCB#8, 0x41#8], 8, (0, s.getR8 .c, s.getR8 .c, [])⟩,
   ⟨.bit_0_d, [0xCB#8, 0x42#8], 8, (0, s.getR8 .d, s.getR8 .d, [])⟩,
   ⟨.bit_0_e, [0xCB#8, 0x43#8], 8, (0, s.getR8 .e, s.getR8 .e, [])⟩,
   ⟨.bit_0_h, [0xCB#8, 0x44#8], 8, (0, s.getR8 .h, s.getR8 .h, [])⟩,
   ⟨.bit_0_l, [0xCB#8, 0x45#8], 8, (0, s.getR8 .l, s.getR8 .l, [])⟩,
   ⟨.bit_0_a, [0xCB#8, 0x47#8], 8, (0, s.getR8 .a, s.getR8 .a, [])⟩,
   ⟨.bit_1_b, [0xCB#8, 0x48#8], 8, (1, s.getR8 .b, s.getR8 .b, [])⟩,
   ⟨.bit_1_c, [0xCB#8, 0x49#8], 8, (1, s.getR8 .c, s.getR8 .c, [])⟩,
   ⟨.bit_1_d, [0xCB#8, 0x4A#8], 8, (1, s.getR8 .d, s.getR8 .d, [])⟩,
   ⟨.bit_1_e, [0xCB#8, 0x4B#8], 8, (1, s.getR8 .e, s.getR8 .e, [])⟩,
   ⟨.bit_1_h, [0xCB#8, 0x4C#8], 8, (1, s.getR8 .h, s.getR8 .h, [])⟩,
   ⟨.bit_1_l, [0xCB#8, 0x4D#8], 8, (1, s.getR8 .l, s.getR8 .l, [])⟩,
   ⟨.bit_1_a, [0xCB#8, 0x4F#8], 8, (1, s.getR8 .a, s.getR8 .a, [])⟩,
   ⟨.bit_2_b, [0xCB#8, 0x50#8], 8, (2, s.getR8 .b, s.getR8 .b, [])⟩,
   ⟨.bit_2_c, [0xCB#8, 0x51#8], 8, (2, s.getR8 .c, s.getR8 .c, [])⟩,
   ⟨.bit_2_d, [0xCB#8, 0x52#8], 8, (2, s.getR8 .d, s.getR8 .d, [])⟩,
   ⟨.bit_2_e, [0xCB#8, 0x53#8], 8, (2, s.getR8 .e, s.getR8 .e, [])⟩,
   ⟨.bit_2_h, [0xCB#8, 0x54#8], 8, (2, s.getR8 .h, s.getR8 .h, [])⟩,
   ⟨.bit_2_l, [0xCB#8, 0x55#8], 8, (2, s.getR8 .l, s.getR8 .l, [])⟩,
   ⟨.bit_2_a, [0xCB#8, 0x57#8], 8, (2, s.getR8 .a, s.getR8 .a, [])⟩,
   ⟨.bit_3_b, [0xCB#8, 0x58#8], 8, (3, s.getR8 .b, s.getR8 .b, [])⟩,
   ⟨.bit_3_c, [0xCB#8, 0x59#8], 8, (3, s.getR8 .c, s.getR8 .c, [])⟩,
   ⟨.bit_3_d, [0xCB#8, 0x5A#8], 8, (3, s.getR8 .d, s.getR8 .d, [])⟩,
   ⟨.bit_3_e, [0xCB#8, 0x5B#8], 8, (3, s.getR8 .e, s.getR8 .e, [])⟩,
   ⟨.bit_3_h, [0xCB#8, 0x5C#8], 8, (3, s.getR8 .h, s.getR8 .h, [])⟩,
   ⟨.bit_3_l, [0xCB#8, 0x5D#8], 8, (3, s.getR8 .l, s.getR8 .l, [])⟩,
   ⟨.bit_3_a, [0xCB#8, 0x5F#8], 8, (3, s.getR8 .a, s.getR8 .a, [])⟩,
   ⟨.bit_4_b, [0xCB#8, 0x60#8], 8, (4, s.getR8 .b, s.getR8 .b, [])⟩,
   ⟨.bit_4_c, [0xCB#8, 0x61#8], 8, (4, s.getR8 .c, s.getR8 .c, [])⟩,
   ⟨.bit_4_d, [0xCB#8, 0x62#8], 8, (4, s.getR8 .d, s.getR8 .d, [])⟩,
   ⟨.bit_4_e, [0xCB#8, 0x63#8], 8, (4, s.getR8 .e, s.getR8 .e, [])⟩,
   ⟨.bit_4_h, [0xCB#8, 0x64#8], 8, (4, s.getR8 .h, s.getR8 .h, [])⟩,
   ⟨.bit_4_l, [0xCB#8, 0x65#8], 8, (4, s.getR8 .l, s.getR8 .l, [])⟩,
   ⟨.bit_4_a, [0xCB#8, 0x67#8], 8, (4, s.getR8 .a, s.getR8 .a, [])⟩,
   ⟨.bit_5_b, [0xCB#8, 0x68#8], 8, (5, s.getR8 .b, s.getR8 .b, [])⟩,
   ⟨.bit_5_c, [0xCB#8, 0x69#8], 8, (5, s.getR8 .c, s.getR8 .c, [])⟩,
   ⟨.bit_5_d, [0xCB#8, 0x6A#8], 8, (5, s.getR8 .d, s.getR8 .d, [])⟩,
   ⟨.bit_5_e, [0xCB#8, 0x6B#8], 8, (5, s.getR8 .e, s.getR8 .e, [])⟩,
   ⟨.bit_5_h, [0xCB#8, 0x6C#8], 8, (5, s.getR8 .h, s.getR8 .h, [])⟩]

/-- Part of `bitTests`. -/
noncomputable def bitTests1 (s : State) (z : BitVec 3) (d : Byte) : List (Row (Nat × Byte × Byte × List PortCall)) :=
  [⟨.bit_5_l, [0xCB#8, 0x6D#8], 8, (5, s.getR8 .l, s.getR8 .l, [])⟩,
   ⟨.bit_5_a, [0xCB#8, 0x6F#8], 8, (5, s.getR8 .a, s.getR8 .a, [])⟩,
   ⟨.bit_6_b, [0xCB#8, 0x70#8], 8, (6, s.getR8 .b, s.getR8 .b, [])⟩,
   ⟨.bit_6_c, [0xCB#8, 0x71#8], 8, (6, s.getR8 .c, s.getR8 .c, [])⟩,
   ⟨.bit_6_d, [0xCB#8, 0x72#8], 8, (6, s.getR8 .d, s.getR8 .d, [])⟩,
   ⟨.bit_6_e, [0xCB#8, 0x73#8], 8, (6, s.getR8 .e, s.getR8 .e, [])⟩,
   ⟨.bit_6_h, [0xCB#8, 0x74#8], 8, (6, s.getR8 .h, s.getR8 .h, [])⟩,
   ⟨.bit_6_l, [0xCB#8, 0x75#8], 8, (6, s.getR8 .l, s.getR8 .l, [])⟩,
   ⟨.bit_6_a, [0xCB#8, 0x77#8], 8, (6, s.getR8 .a, s.getR8 .a, [])⟩,
   ⟨.bit_7_b, [0xCB#8, 0x78#8], 8, (7, s.getR8 .b, s.getR8 .b, [])⟩,
   ⟨.bit_7_c, [0xCB#8, 0x79#8], 8, (7, s.getR8 .c, s.getR8 .c, [])⟩,
   ⟨.bit_7_d, [0xCB#8, 0x7A#8], 8, (7, s.getR8 .d, s.getR8 .d, [])⟩,
   ⟨.bit_7_e, [0xCB#8, 0x7B#8], 8, (7, s.getR8 .e, s.getR8 .e, [])⟩,
   ⟨.bit_7_h, [0xCB#8, 0x7C#8], 8, (7, s.getR8 .h, s.getR8 .h, [])⟩,
   ⟨.bit_7_l, [0xCB#8, 0x7D#8], 8, (7, s.getR8 .l, s.getR8 .l, [])⟩,
   ⟨.bit_7_a, [0xCB#8, 0x7F#8], 8, (7, s.getR8 .a, s.getR8 .a, [])⟩,
   ⟨.bit_0__hl, [0xCB#8, 0x46#8], 12, (0, s.peek s.hl, Config.draw (s.draws + 1), [.memRead s.hl (s.peek s.hl)])⟩,
   ⟨.bit_1__hl, [0xCB#8, 0x4E#8], 12, (1, s.peek s.hl, Config.draw (s.draws + 1), [.memRead s.hl (s.peek s.hl)])⟩,
   ⟨.bit_2__hl, [0xCB#8, 0x56#8], 12, (2, s.peek s.hl, Config.draw (s.draws + 1), [.memRead s.hl (s.peek s.hl)])⟩,
   ⟨.bit_3__hl, [0xCB#8, 0x5E#8], 12, (3, s.peek s.hl, Config.draw (s.draws + 1), [.memRead s.hl (s.peek s.hl)])⟩,
   ⟨.bit_4__hl, [0xCB#8, 0x66#8], 12, (4, s.peek s.hl, Config.draw (s.draws + 1), [.memRead s.hl (s.peek s.hl)])⟩,
   ⟨.bit_5__hl, [0xCB#8, 0x6E#8], 12, (5, s.peek s.hl, Config.draw (s.draws + 1), [.memRead s.hl (s.peek s.hl)])⟩,
   ⟨.bit_6__hl, [0xCB#8, 0x76#8], 12, (6, s.peek s.hl, Config.draw (s.draws + 1), [.memRead s.hl (s.peek s.hl)])⟩,
   ⟨.bit_7__hl, [0xCB#8, 0x7E#8], 12, (7, s.peek s.hl, Config.draw (s.draws + 1), [.memRead s.hl (s.peek s.hl)])⟩,
   ⟨.bit_0__ixd z d, [0xDD#8, 0xCB#8, d, bitCode 0x40#8 z], 20, (0, s.peek (s.idxAddr .ix d), hi (s.idxAddr .ix d), [.memRead (s.idxAddr .ix d) (s.peek (s.idxAddr .ix d))])⟩,
   ⟨.bit_1__ixd z d, [0xDD#8, 0xCB#8, d, bitCode 0x48#8 z], 20, (1, s.peek (s.idxAddr .ix d), hi (s.idxAddr .ix d), [.memRead (s.idxAddr .ix d) (s.peek (s.idxAddr .ix d))])⟩,
   ⟨.bit_2__ixd z d, [0xDD#8, 0xCB#8, d, bitCode 0x50#8 z], 20, (2, s.peek (s.idxAddr .ix d), hi (s.idxAddr .ix d), [.memRead (s.idxAddr .ix d) (s.peek (s.idxAddr .ix d))])⟩,
   ⟨.bit_3__ixd z d, [0xDD#8, 0xCB#8, d, bitCode 0x58#8 z], 20, (3, s.peek (s.idxAddr .ix d), hi (s.idxAddr .ix d), [.memRead (s.idxAddr .ix d) (s.peek (s.idxAddr .ix d))])⟩,
   ⟨.bit_4__ixd z d, [0xDD#8, 0xCB#8, d, bitCode 0x60#8 z], 20, (4, s.peek (s.idxAddr .ix d), hi (s.idxAddr .ix d), [.memRead (s.idxAddr .ix d) (s.peek (s.idxAddr .ix d))])⟩,
   ⟨.bit_5__ixd z d, [0xDD#8, 0xCB#8, d, bitCode 0x68#8 z], 20, (5, s.peek (s.idxAddr .ix d), hi (s.idxAddr .ix d), [.memRead (s.idxAddr .ix d) (s.peek (s.idxAddr .ix d))])⟩,
   ⟨.bit_6__ixd z d, [0xDD#8, 0xCB#8, d, bitCode 0x70#8 z], 20, (6, s.peek (s.idxAddr .ix d), hi (s.idxAddr .ix d), [.memRead (s.idxAddr .ix d) (s.peek (s.idxAddr .ix d))])⟩,
   ⟨.bit_7__ixd z d, [0xDD#8, 0xCB#8, d, bitCode 0x78#8 z], 20, (7, s.peek (s.idxAddr .ix d), hi (s.idxAddr .ix d), [.memRead (s.idxAddr .ix d) (s.peek (s.idxAddr .ix d))])⟩,
   ⟨.bit_0__iyd z d, [0xFD#8, 0xCB#8, d, bitCode 0x40#8 z], 20, (0, s.peek (s.idxAddr .iy d), hi (s.idxAddr .iy d), [.memRead (s.idxAddr .iy d) (s.peek (s.idxAddr .iy d))])⟩,
   ⟨.bit_1__iyd z d, [0xFD#8, 0xCB#8, d, bitCode 0x48#8 z], 20, (1, s.peek (s.idxAddr .iy d), hi (s.idxAddr .iy d), [.memRead (s.idxAddr .iy d) (s.peek (s.idxAddr .iy d))])⟩,
   ⟨.bit_2__iyd z d, [0xFD#8, 0xCB#8, d, bitCode 0x50#8 z], 20, (2, s.peek (s.idxAddr .iy d), hi (s.idxAddr .iy d), [.memRead (s.idxAddr .iy d) (s.peek (s.idxAddr .iy d))])⟩,
   ⟨.bit_3__iyd z d, [0xFD#8, 0xCB#8, d, bitCode 0x58#8 z], 20, (3, s.peek (s.idxAddr .iy d), hi (s.idxAddr .iy d), [.memRead (s.idxAddr .iy d) (s.peek (s.idxAddr .iy d))])⟩,
   ⟨.bit_4__iyd z d, [0xFD#8, 0xCB#8, d, bitCode 0x60#8 z], 20, (4, s.peek (s.idxAddr .iy d), hi (s.idxAddr .iy d), [.memRead (s.idxAddr .iy d) (s.peek (s.idxAddr .iy d))])⟩,
   ⟨.bit_5__iyd z d, [0xFD#8, 0xCB#8, d, bitCode 0x68#8 z], 20, (5, s.peek (s.idxAddr .iy d), hi (s.idxAddr .iy d), [.memRead (s.idxAddr .iy d) (s.peek (s.idxAddr .iy d))])⟩,
   ⟨.bit_6__iyd z d, [0xFD#8, 0xCB#8, d, bitCode 0x70#8 z], 20, (6, s.peek (s.idxAddr .iy d), hi (s.idxAddr .iy d), [.memRead (s.idxAddr .iy d) (s.peek (s.idxAddr .iy d))])⟩,
   ⟨.bit_7__iyd z d, [0xFD#8, 0xCB#8, d, bitCode 0x78#8 z], 20, (7, s.peek (s.idxAddr .iy d), hi (s.idxAddr .iy d), [.memRead (s.idxAddr .iy d) (s.peek (s.idxAddr .iy d))])⟩]

/-- `BIT`: the bit, the byte under test, the byte that gives X5 and X3, the port calls (R780 to
R782). -/
noncomputable def bitTests (s : State) (z : BitVec 3) (d : Byte) : List (Row (Nat × Byte × Byte × List PortCall)) :=
  bitTests0 s ++ bitTests1 s z d

/-- Part of `bitChanges`. -/
noncomputable def bitChanges0 : List (Row (Bool × Nat × Place)) :=
  [⟨.res_0_b, [0xCB#8, 0x80#8], 8, (false, 0, .reg .b)⟩,
   ⟨.res_0_c, [0xCB#8, 0x81#8], 8, (false, 0, .reg .c)⟩,
   ⟨.res_0_d, [0xCB#8, 0x82#8], 8, (false, 0, .reg .d)⟩,
   ⟨.res_0_e, [0xCB#8, 0x83#8], 8, (false, 0, .reg .e)⟩,
   ⟨.res_0_h, [0xCB#8, 0x84#8], 8, (false, 0, .reg .h)⟩,
   ⟨.res_0_l, [0xCB#8, 0x85#8], 8, (false, 0, .reg .l)⟩,
   ⟨.res_0_a, [0xCB#8, 0x87#8], 8, (false, 0, .reg .a)⟩,
   ⟨.res_1_b, [0xCB#8, 0x88#8], 8, (false, 1, .reg .b)⟩,
   ⟨.res_1_c, [0xCB#8, 0x89#8], 8, (false, 1, .reg .c)⟩,
   ⟨.res_1_d, [0xCB#8, 0x8A#8], 8, (false, 1, .reg .d)⟩,
   ⟨.res_1_e, [0xCB#8, 0x8B#8], 8, (false, 1, .reg .e)⟩,
   ⟨.res_1_h, [0xCB#8, 0x8C#8], 8, (false, 1, .reg .h)⟩,
   ⟨.res_1_l, [0xCB#8, 0x8D#8], 8, (false, 1, .reg .l)⟩,
   ⟨.res_1_a, [0xCB#8, 0x8F#8], 8, (false, 1, .reg .a)⟩,
   ⟨.res_2_b, [0xCB#8, 0x90#8], 8, (false, 2, .reg .b)⟩,
   ⟨.res_2_c, [0xCB#8, 0x91#8], 8, (false, 2, .reg .c)⟩,
   ⟨.res_2_d, [0xCB#8, 0x92#8], 8, (false, 2, .reg .d)⟩,
   ⟨.res_2_e, [0xCB#8, 0x93#8], 8, (false, 2, .reg .e)⟩,
   ⟨.res_2_h, [0xCB#8, 0x94#8], 8, (false, 2, .reg .h)⟩,
   ⟨.res_2_l, [0xCB#8, 0x95#8], 8, (false, 2, .reg .l)⟩,
   ⟨.res_2_a, [0xCB#8, 0x97#8], 8, (false, 2, .reg .a)⟩,
   ⟨.res_3_b, [0xCB#8, 0x98#8], 8, (false, 3, .reg .b)⟩,
   ⟨.res_3_c, [0xCB#8, 0x99#8], 8, (false, 3, .reg .c)⟩,
   ⟨.res_3_d, [0xCB#8, 0x9A#8], 8, (false, 3, .reg .d)⟩,
   ⟨.res_3_e, [0xCB#8, 0x9B#8], 8, (false, 3, .reg .e)⟩,
   ⟨.res_3_h, [0xCB#8, 0x9C#8], 8, (false, 3, .reg .h)⟩,
   ⟨.res_3_l, [0xCB#8, 0x9D#8], 8, (false, 3, .reg .l)⟩,
   ⟨.res_3_a, [0xCB#8, 0x9F#8], 8, (false, 3, .reg .a)⟩,
   ⟨.res_4_b, [0xCB#8, 0xA0#8], 8, (false, 4, .reg .b)⟩,
   ⟨.res_4_c, [0xCB#8, 0xA1#8], 8, (false, 4, .reg .c)⟩,
   ⟨.res_4_d, [0xCB#8, 0xA2#8], 8, (false, 4, .reg .d)⟩,
   ⟨.res_4_e, [0xCB#8, 0xA3#8], 8, (false, 4, .reg .e)⟩,
   ⟨.res_4_h, [0xCB#8, 0xA4#8], 8, (false, 4, .reg .h)⟩,
   ⟨.res_4_l, [0xCB#8, 0xA5#8], 8, (false, 4, .reg .l)⟩,
   ⟨.res_4_a, [0xCB#8, 0xA7#8], 8, (false, 4, .reg .a)⟩,
   ⟨.res_5_b, [0xCB#8, 0xA8#8], 8, (false, 5, .reg .b)⟩,
   ⟨.res_5_c, [0xCB#8, 0xA9#8], 8, (false, 5, .reg .c)⟩,
   ⟨.res_5_d, [0xCB#8, 0xAA#8], 8, (false, 5, .reg .d)⟩,
   ⟨.res_5_e, [0xCB#8, 0xAB#8], 8, (false, 5, .reg .e)⟩,
   ⟨.res_5_h, [0xCB#8, 0xAC#8], 8, (false, 5, .reg .h)⟩]

/-- Part of `bitChanges`. -/
noncomputable def bitChanges1 (s : State) (d : Byte) : List (Row (Bool × Nat × Place)) :=
  [⟨.res_5_l, [0xCB#8, 0xAD#8], 8, (false, 5, .reg .l)⟩,
   ⟨.res_5_a, [0xCB#8, 0xAF#8], 8, (false, 5, .reg .a)⟩,
   ⟨.res_6_b, [0xCB#8, 0xB0#8], 8, (false, 6, .reg .b)⟩,
   ⟨.res_6_c, [0xCB#8, 0xB1#8], 8, (false, 6, .reg .c)⟩,
   ⟨.res_6_d, [0xCB#8, 0xB2#8], 8, (false, 6, .reg .d)⟩,
   ⟨.res_6_e, [0xCB#8, 0xB3#8], 8, (false, 6, .reg .e)⟩,
   ⟨.res_6_h, [0xCB#8, 0xB4#8], 8, (false, 6, .reg .h)⟩,
   ⟨.res_6_l, [0xCB#8, 0xB5#8], 8, (false, 6, .reg .l)⟩,
   ⟨.res_6_a, [0xCB#8, 0xB7#8], 8, (false, 6, .reg .a)⟩,
   ⟨.res_7_b, [0xCB#8, 0xB8#8], 8, (false, 7, .reg .b)⟩,
   ⟨.res_7_c, [0xCB#8, 0xB9#8], 8, (false, 7, .reg .c)⟩,
   ⟨.res_7_d, [0xCB#8, 0xBA#8], 8, (false, 7, .reg .d)⟩,
   ⟨.res_7_e, [0xCB#8, 0xBB#8], 8, (false, 7, .reg .e)⟩,
   ⟨.res_7_h, [0xCB#8, 0xBC#8], 8, (false, 7, .reg .h)⟩,
   ⟨.res_7_l, [0xCB#8, 0xBD#8], 8, (false, 7, .reg .l)⟩,
   ⟨.res_7_a, [0xCB#8, 0xBF#8], 8, (false, 7, .reg .a)⟩,
   ⟨.res_0__hl, [0xCB#8, 0x86#8], 15, (false, 0, .mem s.hl)⟩,
   ⟨.res_1__hl, [0xCB#8, 0x8E#8], 15, (false, 1, .mem s.hl)⟩,
   ⟨.res_2__hl, [0xCB#8, 0x96#8], 15, (false, 2, .mem s.hl)⟩,
   ⟨.res_3__hl, [0xCB#8, 0x9E#8], 15, (false, 3, .mem s.hl)⟩,
   ⟨.res_4__hl, [0xCB#8, 0xA6#8], 15, (false, 4, .mem s.hl)⟩,
   ⟨.res_5__hl, [0xCB#8, 0xAE#8], 15, (false, 5, .mem s.hl)⟩,
   ⟨.res_6__hl, [0xCB#8, 0xB6#8], 15, (false, 6, .mem s.hl)⟩,
   ⟨.res_7__hl, [0xCB#8, 0xBE#8], 15, (false, 7, .mem s.hl)⟩,
   ⟨.res_0__ixd d, [0xDD#8, 0xCB#8, d, 0x86#8], 23, (false, 0, .mem (s.idxAddr .ix d))⟩,
   ⟨.res_1__ixd d, [0xDD#8, 0xCB#8, d, 0x8E#8], 23, (false, 1, .mem (s.idxAddr .ix d))⟩,
   ⟨.res_2__ixd d, [0xDD#8, 0xCB#8, d, 0x96#8], 23, (false, 2, .mem (s.idxAddr .ix d))⟩,
   ⟨.res_3__ixd d, [0xDD#8, 0xCB#8, d, 0x9E#8], 23, (false, 3, .mem (s.idxAddr .ix d))⟩,
   ⟨.res_4__ixd d, [0xDD#8, 0xCB#8, d, 0xA6#8], 23, (false, 4, .mem (s.idxAddr .ix d))⟩,
   ⟨.res_5__ixd d, [0xDD#8, 0xCB#8, d, 0xAE#8], 23, (false, 5, .mem (s.idxAddr .ix d))⟩,
   ⟨.res_6__ixd d, [0xDD#8, 0xCB#8, d, 0xB6#8], 23, (false, 6, .mem (s.idxAddr .ix d))⟩,
   ⟨.res_7__ixd d, [0xDD#8, 0xCB#8, d, 0xBE#8], 23, (false, 7, .mem (s.idxAddr .ix d))⟩,
   ⟨.res_0__iyd d, [0xFD#8, 0xCB#8, d, 0x86#8], 23, (false, 0, .mem (s.idxAddr .iy d))⟩,
   ⟨.res_1__iyd d, [0xFD#8, 0xCB#8, d, 0x8E#8], 23, (false, 1, .mem (s.idxAddr .iy d))⟩,
   ⟨.res_2__iyd d, [0xFD#8, 0xCB#8, d, 0x96#8], 23, (false, 2, .mem (s.idxAddr .iy d))⟩,
   ⟨.res_3__iyd d, [0xFD#8, 0xCB#8, d, 0x9E#8], 23, (false, 3, .mem (s.idxAddr .iy d))⟩,
   ⟨.res_4__iyd d, [0xFD#8, 0xCB#8, d, 0xA6#8], 23, (false, 4, .mem (s.idxAddr .iy d))⟩,
   ⟨.res_5__iyd d, [0xFD#8, 0xCB#8, d, 0xAE#8], 23, (false, 5, .mem (s.idxAddr .iy d))⟩,
   ⟨.res_6__iyd d, [0xFD#8, 0xCB#8, d, 0xB6#8], 23, (false, 6, .mem (s.idxAddr .iy d))⟩,
   ⟨.res_7__iyd d, [0xFD#8, 0xCB#8, d, 0xBE#8], 23, (false, 7, .mem (s.idxAddr .iy d))⟩]

/-- Part of `bitChanges`. -/
noncomputable def bitChanges2 (s : State) (d : Byte) : List (Row (Bool × Nat × Place)) :=
  [⟨.res_0__ixd__b d, [0xDD#8, 0xCB#8, d, 0x80#8], 23, (false, 0, .memCopy (s.idxAddr .ix d) .b)⟩,
   ⟨.res_0__ixd__c d, [0xDD#8, 0xCB#8, d, 0x81#8], 23, (false, 0, .memCopy (s.idxAddr .ix d) .c)⟩,
   ⟨.res_0__ixd__d d, [0xDD#8, 0xCB#8, d, 0x82#8], 23, (false, 0, .memCopy (s.idxAddr .ix d) .d)⟩,
   ⟨.res_0__ixd__e d, [0xDD#8, 0xCB#8, d, 0x83#8], 23, (false, 0, .memCopy (s.idxAddr .ix d) .e)⟩,
   ⟨.res_0__ixd__h d, [0xDD#8, 0xCB#8, d, 0x84#8], 23, (false, 0, .memCopy (s.idxAddr .ix d) .h)⟩,
   ⟨.res_0__ixd__l d, [0xDD#8, 0xCB#8, d, 0x85#8], 23, (false, 0, .memCopy (s.idxAddr .ix d) .l)⟩,
   ⟨.res_0__ixd__a d, [0xDD#8, 0xCB#8, d, 0x87#8], 23, (false, 0, .memCopy (s.idxAddr .ix d) .a)⟩,
   ⟨.res_1__ixd__b d, [0xDD#8, 0xCB#8, d, 0x88#8], 23, (false, 1, .memCopy (s.idxAddr .ix d) .b)⟩,
   ⟨.res_1__ixd__c d, [0xDD#8, 0xCB#8, d, 0x89#8], 23, (false, 1, .memCopy (s.idxAddr .ix d) .c)⟩,
   ⟨.res_1__ixd__d d, [0xDD#8, 0xCB#8, d, 0x8A#8], 23, (false, 1, .memCopy (s.idxAddr .ix d) .d)⟩,
   ⟨.res_1__ixd__e d, [0xDD#8, 0xCB#8, d, 0x8B#8], 23, (false, 1, .memCopy (s.idxAddr .ix d) .e)⟩,
   ⟨.res_1__ixd__h d, [0xDD#8, 0xCB#8, d, 0x8C#8], 23, (false, 1, .memCopy (s.idxAddr .ix d) .h)⟩,
   ⟨.res_1__ixd__l d, [0xDD#8, 0xCB#8, d, 0x8D#8], 23, (false, 1, .memCopy (s.idxAddr .ix d) .l)⟩,
   ⟨.res_1__ixd__a d, [0xDD#8, 0xCB#8, d, 0x8F#8], 23, (false, 1, .memCopy (s.idxAddr .ix d) .a)⟩,
   ⟨.res_2__ixd__b d, [0xDD#8, 0xCB#8, d, 0x90#8], 23, (false, 2, .memCopy (s.idxAddr .ix d) .b)⟩,
   ⟨.res_2__ixd__c d, [0xDD#8, 0xCB#8, d, 0x91#8], 23, (false, 2, .memCopy (s.idxAddr .ix d) .c)⟩,
   ⟨.res_2__ixd__d d, [0xDD#8, 0xCB#8, d, 0x92#8], 23, (false, 2, .memCopy (s.idxAddr .ix d) .d)⟩,
   ⟨.res_2__ixd__e d, [0xDD#8, 0xCB#8, d, 0x93#8], 23, (false, 2, .memCopy (s.idxAddr .ix d) .e)⟩,
   ⟨.res_2__ixd__h d, [0xDD#8, 0xCB#8, d, 0x94#8], 23, (false, 2, .memCopy (s.idxAddr .ix d) .h)⟩,
   ⟨.res_2__ixd__l d, [0xDD#8, 0xCB#8, d, 0x95#8], 23, (false, 2, .memCopy (s.idxAddr .ix d) .l)⟩,
   ⟨.res_2__ixd__a d, [0xDD#8, 0xCB#8, d, 0x97#8], 23, (false, 2, .memCopy (s.idxAddr .ix d) .a)⟩,
   ⟨.res_3__ixd__b d, [0xDD#8, 0xCB#8, d, 0x98#8], 23, (false, 3, .memCopy (s.idxAddr .ix d) .b)⟩,
   ⟨.res_3__ixd__c d, [0xDD#8, 0xCB#8, d, 0x99#8], 23, (false, 3, .memCopy (s.idxAddr .ix d) .c)⟩,
   ⟨.res_3__ixd__d d, [0xDD#8, 0xCB#8, d, 0x9A#8], 23, (false, 3, .memCopy (s.idxAddr .ix d) .d)⟩,
   ⟨.res_3__ixd__e d, [0xDD#8, 0xCB#8, d, 0x9B#8], 23, (false, 3, .memCopy (s.idxAddr .ix d) .e)⟩,
   ⟨.res_3__ixd__h d, [0xDD#8, 0xCB#8, d, 0x9C#8], 23, (false, 3, .memCopy (s.idxAddr .ix d) .h)⟩,
   ⟨.res_3__ixd__l d, [0xDD#8, 0xCB#8, d, 0x9D#8], 23, (false, 3, .memCopy (s.idxAddr .ix d) .l)⟩,
   ⟨.res_3__ixd__a d, [0xDD#8, 0xCB#8, d, 0x9F#8], 23, (false, 3, .memCopy (s.idxAddr .ix d) .a)⟩,
   ⟨.res_4__ixd__b d, [0xDD#8, 0xCB#8, d, 0xA0#8], 23, (false, 4, .memCopy (s.idxAddr .ix d) .b)⟩,
   ⟨.res_4__ixd__c d, [0xDD#8, 0xCB#8, d, 0xA1#8], 23, (false, 4, .memCopy (s.idxAddr .ix d) .c)⟩,
   ⟨.res_4__ixd__d d, [0xDD#8, 0xCB#8, d, 0xA2#8], 23, (false, 4, .memCopy (s.idxAddr .ix d) .d)⟩,
   ⟨.res_4__ixd__e d, [0xDD#8, 0xCB#8, d, 0xA3#8], 23, (false, 4, .memCopy (s.idxAddr .ix d) .e)⟩,
   ⟨.res_4__ixd__h d, [0xDD#8, 0xCB#8, d, 0xA4#8], 23, (false, 4, .memCopy (s.idxAddr .ix d) .h)⟩,
   ⟨.res_4__ixd__l d, [0xDD#8, 0xCB#8, d, 0xA5#8], 23, (false, 4, .memCopy (s.idxAddr .ix d) .l)⟩,
   ⟨.res_4__ixd__a d, [0xDD#8, 0xCB#8, d, 0xA7#8], 23, (false, 4, .memCopy (s.idxAddr .ix d) .a)⟩,
   ⟨.res_5__ixd__b d, [0xDD#8, 0xCB#8, d, 0xA8#8], 23, (false, 5, .memCopy (s.idxAddr .ix d) .b)⟩,
   ⟨.res_5__ixd__c d, [0xDD#8, 0xCB#8, d, 0xA9#8], 23, (false, 5, .memCopy (s.idxAddr .ix d) .c)⟩,
   ⟨.res_5__ixd__d d, [0xDD#8, 0xCB#8, d, 0xAA#8], 23, (false, 5, .memCopy (s.idxAddr .ix d) .d)⟩,
   ⟨.res_5__ixd__e d, [0xDD#8, 0xCB#8, d, 0xAB#8], 23, (false, 5, .memCopy (s.idxAddr .ix d) .e)⟩,
   ⟨.res_5__ixd__h d, [0xDD#8, 0xCB#8, d, 0xAC#8], 23, (false, 5, .memCopy (s.idxAddr .ix d) .h)⟩]

/-- Part of `bitChanges`. -/
noncomputable def bitChanges3 (s : State) (d : Byte) : List (Row (Bool × Nat × Place)) :=
  [⟨.res_5__ixd__l d, [0xDD#8, 0xCB#8, d, 0xAD#8], 23, (false, 5, .memCopy (s.idxAddr .ix d) .l)⟩,
   ⟨.res_5__ixd__a d, [0xDD#8, 0xCB#8, d, 0xAF#8], 23, (false, 5, .memCopy (s.idxAddr .ix d) .a)⟩,
   ⟨.res_6__ixd__b d, [0xDD#8, 0xCB#8, d, 0xB0#8], 23, (false, 6, .memCopy (s.idxAddr .ix d) .b)⟩,
   ⟨.res_6__ixd__c d, [0xDD#8, 0xCB#8, d, 0xB1#8], 23, (false, 6, .memCopy (s.idxAddr .ix d) .c)⟩,
   ⟨.res_6__ixd__d d, [0xDD#8, 0xCB#8, d, 0xB2#8], 23, (false, 6, .memCopy (s.idxAddr .ix d) .d)⟩,
   ⟨.res_6__ixd__e d, [0xDD#8, 0xCB#8, d, 0xB3#8], 23, (false, 6, .memCopy (s.idxAddr .ix d) .e)⟩,
   ⟨.res_6__ixd__h d, [0xDD#8, 0xCB#8, d, 0xB4#8], 23, (false, 6, .memCopy (s.idxAddr .ix d) .h)⟩,
   ⟨.res_6__ixd__l d, [0xDD#8, 0xCB#8, d, 0xB5#8], 23, (false, 6, .memCopy (s.idxAddr .ix d) .l)⟩,
   ⟨.res_6__ixd__a d, [0xDD#8, 0xCB#8, d, 0xB7#8], 23, (false, 6, .memCopy (s.idxAddr .ix d) .a)⟩,
   ⟨.res_7__ixd__b d, [0xDD#8, 0xCB#8, d, 0xB8#8], 23, (false, 7, .memCopy (s.idxAddr .ix d) .b)⟩,
   ⟨.res_7__ixd__c d, [0xDD#8, 0xCB#8, d, 0xB9#8], 23, (false, 7, .memCopy (s.idxAddr .ix d) .c)⟩,
   ⟨.res_7__ixd__d d, [0xDD#8, 0xCB#8, d, 0xBA#8], 23, (false, 7, .memCopy (s.idxAddr .ix d) .d)⟩,
   ⟨.res_7__ixd__e d, [0xDD#8, 0xCB#8, d, 0xBB#8], 23, (false, 7, .memCopy (s.idxAddr .ix d) .e)⟩,
   ⟨.res_7__ixd__h d, [0xDD#8, 0xCB#8, d, 0xBC#8], 23, (false, 7, .memCopy (s.idxAddr .ix d) .h)⟩,
   ⟨.res_7__ixd__l d, [0xDD#8, 0xCB#8, d, 0xBD#8], 23, (false, 7, .memCopy (s.idxAddr .ix d) .l)⟩,
   ⟨.res_7__ixd__a d, [0xDD#8, 0xCB#8, d, 0xBF#8], 23, (false, 7, .memCopy (s.idxAddr .ix d) .a)⟩,
   ⟨.res_0__iyd__b d, [0xFD#8, 0xCB#8, d, 0x80#8], 23, (false, 0, .memCopy (s.idxAddr .iy d) .b)⟩,
   ⟨.res_0__iyd__c d, [0xFD#8, 0xCB#8, d, 0x81#8], 23, (false, 0, .memCopy (s.idxAddr .iy d) .c)⟩,
   ⟨.res_0__iyd__d d, [0xFD#8, 0xCB#8, d, 0x82#8], 23, (false, 0, .memCopy (s.idxAddr .iy d) .d)⟩,
   ⟨.res_0__iyd__e d, [0xFD#8, 0xCB#8, d, 0x83#8], 23, (false, 0, .memCopy (s.idxAddr .iy d) .e)⟩,
   ⟨.res_0__iyd__h d, [0xFD#8, 0xCB#8, d, 0x84#8], 23, (false, 0, .memCopy (s.idxAddr .iy d) .h)⟩,
   ⟨.res_0__iyd__l d, [0xFD#8, 0xCB#8, d, 0x85#8], 23, (false, 0, .memCopy (s.idxAddr .iy d) .l)⟩,
   ⟨.res_0__iyd__a d, [0xFD#8, 0xCB#8, d, 0x87#8], 23, (false, 0, .memCopy (s.idxAddr .iy d) .a)⟩,
   ⟨.res_1__iyd__b d, [0xFD#8, 0xCB#8, d, 0x88#8], 23, (false, 1, .memCopy (s.idxAddr .iy d) .b)⟩,
   ⟨.res_1__iyd__c d, [0xFD#8, 0xCB#8, d, 0x89#8], 23, (false, 1, .memCopy (s.idxAddr .iy d) .c)⟩,
   ⟨.res_1__iyd__d d, [0xFD#8, 0xCB#8, d, 0x8A#8], 23, (false, 1, .memCopy (s.idxAddr .iy d) .d)⟩,
   ⟨.res_1__iyd__e d, [0xFD#8, 0xCB#8, d, 0x8B#8], 23, (false, 1, .memCopy (s.idxAddr .iy d) .e)⟩,
   ⟨.res_1__iyd__h d, [0xFD#8, 0xCB#8, d, 0x8C#8], 23, (false, 1, .memCopy (s.idxAddr .iy d) .h)⟩,
   ⟨.res_1__iyd__l d, [0xFD#8, 0xCB#8, d, 0x8D#8], 23, (false, 1, .memCopy (s.idxAddr .iy d) .l)⟩,
   ⟨.res_1__iyd__a d, [0xFD#8, 0xCB#8, d, 0x8F#8], 23, (false, 1, .memCopy (s.idxAddr .iy d) .a)⟩,
   ⟨.res_2__iyd__b d, [0xFD#8, 0xCB#8, d, 0x90#8], 23, (false, 2, .memCopy (s.idxAddr .iy d) .b)⟩,
   ⟨.res_2__iyd__c d, [0xFD#8, 0xCB#8, d, 0x91#8], 23, (false, 2, .memCopy (s.idxAddr .iy d) .c)⟩,
   ⟨.res_2__iyd__d d, [0xFD#8, 0xCB#8, d, 0x92#8], 23, (false, 2, .memCopy (s.idxAddr .iy d) .d)⟩,
   ⟨.res_2__iyd__e d, [0xFD#8, 0xCB#8, d, 0x93#8], 23, (false, 2, .memCopy (s.idxAddr .iy d) .e)⟩,
   ⟨.res_2__iyd__h d, [0xFD#8, 0xCB#8, d, 0x94#8], 23, (false, 2, .memCopy (s.idxAddr .iy d) .h)⟩,
   ⟨.res_2__iyd__l d, [0xFD#8, 0xCB#8, d, 0x95#8], 23, (false, 2, .memCopy (s.idxAddr .iy d) .l)⟩,
   ⟨.res_2__iyd__a d, [0xFD#8, 0xCB#8, d, 0x97#8], 23, (false, 2, .memCopy (s.idxAddr .iy d) .a)⟩,
   ⟨.res_3__iyd__b d, [0xFD#8, 0xCB#8, d, 0x98#8], 23, (false, 3, .memCopy (s.idxAddr .iy d) .b)⟩,
   ⟨.res_3__iyd__c d, [0xFD#8, 0xCB#8, d, 0x99#8], 23, (false, 3, .memCopy (s.idxAddr .iy d) .c)⟩,
   ⟨.res_3__iyd__d d, [0xFD#8, 0xCB#8, d, 0x9A#8], 23, (false, 3, .memCopy (s.idxAddr .iy d) .d)⟩]

/-- Part of `bitChanges`. -/
noncomputable def bitChanges4 (s : State) (d : Byte) : List (Row (Bool × Nat × Place)) :=
  [⟨.res_3__iyd__e d, [0xFD#8, 0xCB#8, d, 0x9B#8], 23, (false, 3, .memCopy (s.idxAddr .iy d) .e)⟩,
   ⟨.res_3__iyd__h d, [0xFD#8, 0xCB#8, d, 0x9C#8], 23, (false, 3, .memCopy (s.idxAddr .iy d) .h)⟩,
   ⟨.res_3__iyd__l d, [0xFD#8, 0xCB#8, d, 0x9D#8], 23, (false, 3, .memCopy (s.idxAddr .iy d) .l)⟩,
   ⟨.res_3__iyd__a d, [0xFD#8, 0xCB#8, d, 0x9F#8], 23, (false, 3, .memCopy (s.idxAddr .iy d) .a)⟩,
   ⟨.res_4__iyd__b d, [0xFD#8, 0xCB#8, d, 0xA0#8], 23, (false, 4, .memCopy (s.idxAddr .iy d) .b)⟩,
   ⟨.res_4__iyd__c d, [0xFD#8, 0xCB#8, d, 0xA1#8], 23, (false, 4, .memCopy (s.idxAddr .iy d) .c)⟩,
   ⟨.res_4__iyd__d d, [0xFD#8, 0xCB#8, d, 0xA2#8], 23, (false, 4, .memCopy (s.idxAddr .iy d) .d)⟩,
   ⟨.res_4__iyd__e d, [0xFD#8, 0xCB#8, d, 0xA3#8], 23, (false, 4, .memCopy (s.idxAddr .iy d) .e)⟩,
   ⟨.res_4__iyd__h d, [0xFD#8, 0xCB#8, d, 0xA4#8], 23, (false, 4, .memCopy (s.idxAddr .iy d) .h)⟩,
   ⟨.res_4__iyd__l d, [0xFD#8, 0xCB#8, d, 0xA5#8], 23, (false, 4, .memCopy (s.idxAddr .iy d) .l)⟩,
   ⟨.res_4__iyd__a d, [0xFD#8, 0xCB#8, d, 0xA7#8], 23, (false, 4, .memCopy (s.idxAddr .iy d) .a)⟩,
   ⟨.res_5__iyd__b d, [0xFD#8, 0xCB#8, d, 0xA8#8], 23, (false, 5, .memCopy (s.idxAddr .iy d) .b)⟩,
   ⟨.res_5__iyd__c d, [0xFD#8, 0xCB#8, d, 0xA9#8], 23, (false, 5, .memCopy (s.idxAddr .iy d) .c)⟩,
   ⟨.res_5__iyd__d d, [0xFD#8, 0xCB#8, d, 0xAA#8], 23, (false, 5, .memCopy (s.idxAddr .iy d) .d)⟩,
   ⟨.res_5__iyd__e d, [0xFD#8, 0xCB#8, d, 0xAB#8], 23, (false, 5, .memCopy (s.idxAddr .iy d) .e)⟩,
   ⟨.res_5__iyd__h d, [0xFD#8, 0xCB#8, d, 0xAC#8], 23, (false, 5, .memCopy (s.idxAddr .iy d) .h)⟩,
   ⟨.res_5__iyd__l d, [0xFD#8, 0xCB#8, d, 0xAD#8], 23, (false, 5, .memCopy (s.idxAddr .iy d) .l)⟩,
   ⟨.res_5__iyd__a d, [0xFD#8, 0xCB#8, d, 0xAF#8], 23, (false, 5, .memCopy (s.idxAddr .iy d) .a)⟩,
   ⟨.res_6__iyd__b d, [0xFD#8, 0xCB#8, d, 0xB0#8], 23, (false, 6, .memCopy (s.idxAddr .iy d) .b)⟩,
   ⟨.res_6__iyd__c d, [0xFD#8, 0xCB#8, d, 0xB1#8], 23, (false, 6, .memCopy (s.idxAddr .iy d) .c)⟩,
   ⟨.res_6__iyd__d d, [0xFD#8, 0xCB#8, d, 0xB2#8], 23, (false, 6, .memCopy (s.idxAddr .iy d) .d)⟩,
   ⟨.res_6__iyd__e d, [0xFD#8, 0xCB#8, d, 0xB3#8], 23, (false, 6, .memCopy (s.idxAddr .iy d) .e)⟩,
   ⟨.res_6__iyd__h d, [0xFD#8, 0xCB#8, d, 0xB4#8], 23, (false, 6, .memCopy (s.idxAddr .iy d) .h)⟩,
   ⟨.res_6__iyd__l d, [0xFD#8, 0xCB#8, d, 0xB5#8], 23, (false, 6, .memCopy (s.idxAddr .iy d) .l)⟩,
   ⟨.res_6__iyd__a d, [0xFD#8, 0xCB#8, d, 0xB7#8], 23, (false, 6, .memCopy (s.idxAddr .iy d) .a)⟩,
   ⟨.res_7__iyd__b d, [0xFD#8, 0xCB#8, d, 0xB8#8], 23, (false, 7, .memCopy (s.idxAddr .iy d) .b)⟩,
   ⟨.res_7__iyd__c d, [0xFD#8, 0xCB#8, d, 0xB9#8], 23, (false, 7, .memCopy (s.idxAddr .iy d) .c)⟩,
   ⟨.res_7__iyd__d d, [0xFD#8, 0xCB#8, d, 0xBA#8], 23, (false, 7, .memCopy (s.idxAddr .iy d) .d)⟩,
   ⟨.res_7__iyd__e d, [0xFD#8, 0xCB#8, d, 0xBB#8], 23, (false, 7, .memCopy (s.idxAddr .iy d) .e)⟩,
   ⟨.res_7__iyd__h d, [0xFD#8, 0xCB#8, d, 0xBC#8], 23, (false, 7, .memCopy (s.idxAddr .iy d) .h)⟩,
   ⟨.res_7__iyd__l d, [0xFD#8, 0xCB#8, d, 0xBD#8], 23, (false, 7, .memCopy (s.idxAddr .iy d) .l)⟩,
   ⟨.res_7__iyd__a d, [0xFD#8, 0xCB#8, d, 0xBF#8], 23, (false, 7, .memCopy (s.idxAddr .iy d) .a)⟩,
   ⟨.set_0_b, [0xCB#8, 0xC0#8], 8, (true, 0, .reg .b)⟩,
   ⟨.set_0_c, [0xCB#8, 0xC1#8], 8, (true, 0, .reg .c)⟩,
   ⟨.set_0_d, [0xCB#8, 0xC2#8], 8, (true, 0, .reg .d)⟩,
   ⟨.set_0_e, [0xCB#8, 0xC3#8], 8, (true, 0, .reg .e)⟩,
   ⟨.set_0_h, [0xCB#8, 0xC4#8], 8, (true, 0, .reg .h)⟩,
   ⟨.set_0_l, [0xCB#8, 0xC5#8], 8, (true, 0, .reg .l)⟩,
   ⟨.set_0_a, [0xCB#8, 0xC7#8], 8, (true, 0, .reg .a)⟩,
   ⟨.set_1_b, [0xCB#8, 0xC8#8], 8, (true, 1, .reg .b)⟩]

/-- Part of `bitChanges`. -/
noncomputable def bitChanges5 : List (Row (Bool × Nat × Place)) :=
  [⟨.set_1_c, [0xCB#8, 0xC9#8], 8, (true, 1, .reg .c)⟩,
   ⟨.set_1_d, [0xCB#8, 0xCA#8], 8, (true, 1, .reg .d)⟩,
   ⟨.set_1_e, [0xCB#8, 0xCB#8], 8, (true, 1, .reg .e)⟩,
   ⟨.set_1_h, [0xCB#8, 0xCC#8], 8, (true, 1, .reg .h)⟩,
   ⟨.set_1_l, [0xCB#8, 0xCD#8], 8, (true, 1, .reg .l)⟩,
   ⟨.set_1_a, [0xCB#8, 0xCF#8], 8, (true, 1, .reg .a)⟩,
   ⟨.set_2_b, [0xCB#8, 0xD0#8], 8, (true, 2, .reg .b)⟩,
   ⟨.set_2_c, [0xCB#8, 0xD1#8], 8, (true, 2, .reg .c)⟩,
   ⟨.set_2_d, [0xCB#8, 0xD2#8], 8, (true, 2, .reg .d)⟩,
   ⟨.set_2_e, [0xCB#8, 0xD3#8], 8, (true, 2, .reg .e)⟩,
   ⟨.set_2_h, [0xCB#8, 0xD4#8], 8, (true, 2, .reg .h)⟩,
   ⟨.set_2_l, [0xCB#8, 0xD5#8], 8, (true, 2, .reg .l)⟩,
   ⟨.set_2_a, [0xCB#8, 0xD7#8], 8, (true, 2, .reg .a)⟩,
   ⟨.set_3_b, [0xCB#8, 0xD8#8], 8, (true, 3, .reg .b)⟩,
   ⟨.set_3_c, [0xCB#8, 0xD9#8], 8, (true, 3, .reg .c)⟩,
   ⟨.set_3_d, [0xCB#8, 0xDA#8], 8, (true, 3, .reg .d)⟩,
   ⟨.set_3_e, [0xCB#8, 0xDB#8], 8, (true, 3, .reg .e)⟩,
   ⟨.set_3_h, [0xCB#8, 0xDC#8], 8, (true, 3, .reg .h)⟩,
   ⟨.set_3_l, [0xCB#8, 0xDD#8], 8, (true, 3, .reg .l)⟩,
   ⟨.set_3_a, [0xCB#8, 0xDF#8], 8, (true, 3, .reg .a)⟩,
   ⟨.set_4_b, [0xCB#8, 0xE0#8], 8, (true, 4, .reg .b)⟩,
   ⟨.set_4_c, [0xCB#8, 0xE1#8], 8, (true, 4, .reg .c)⟩,
   ⟨.set_4_d, [0xCB#8, 0xE2#8], 8, (true, 4, .reg .d)⟩,
   ⟨.set_4_e, [0xCB#8, 0xE3#8], 8, (true, 4, .reg .e)⟩,
   ⟨.set_4_h, [0xCB#8, 0xE4#8], 8, (true, 4, .reg .h)⟩,
   ⟨.set_4_l, [0xCB#8, 0xE5#8], 8, (true, 4, .reg .l)⟩,
   ⟨.set_4_a, [0xCB#8, 0xE7#8], 8, (true, 4, .reg .a)⟩,
   ⟨.set_5_b, [0xCB#8, 0xE8#8], 8, (true, 5, .reg .b)⟩,
   ⟨.set_5_c, [0xCB#8, 0xE9#8], 8, (true, 5, .reg .c)⟩,
   ⟨.set_5_d, [0xCB#8, 0xEA#8], 8, (true, 5, .reg .d)⟩,
   ⟨.set_5_e, [0xCB#8, 0xEB#8], 8, (true, 5, .reg .e)⟩,
   ⟨.set_5_h, [0xCB#8, 0xEC#8], 8, (true, 5, .reg .h)⟩,
   ⟨.set_5_l, [0xCB#8, 0xED#8], 8, (true, 5, .reg .l)⟩,
   ⟨.set_5_a, [0xCB#8, 0xEF#8], 8, (true, 5, .reg .a)⟩,
   ⟨.set_6_b, [0xCB#8, 0xF0#8], 8, (true, 6, .reg .b)⟩,
   ⟨.set_6_c, [0xCB#8, 0xF1#8], 8, (true, 6, .reg .c)⟩,
   ⟨.set_6_d, [0xCB#8, 0xF2#8], 8, (true, 6, .reg .d)⟩,
   ⟨.set_6_e, [0xCB#8, 0xF3#8], 8, (true, 6, .reg .e)⟩,
   ⟨.set_6_h, [0xCB#8, 0xF4#8], 8, (true, 6, .reg .h)⟩,
   ⟨.set_6_l, [0xCB#8, 0xF5#8], 8, (true, 6, .reg .l)⟩]

/-- Part of `bitChanges`. -/
noncomputable def bitChanges6 (s : State) (d : Byte) : List (Row (Bool × Nat × Place)) :=
  [⟨.set_6_a, [0xCB#8, 0xF7#8], 8, (true, 6, .reg .a)⟩,
   ⟨.set_7_b, [0xCB#8, 0xF8#8], 8, (true, 7, .reg .b)⟩,
   ⟨.set_7_c, [0xCB#8, 0xF9#8], 8, (true, 7, .reg .c)⟩,
   ⟨.set_7_d, [0xCB#8, 0xFA#8], 8, (true, 7, .reg .d)⟩,
   ⟨.set_7_e, [0xCB#8, 0xFB#8], 8, (true, 7, .reg .e)⟩,
   ⟨.set_7_h, [0xCB#8, 0xFC#8], 8, (true, 7, .reg .h)⟩,
   ⟨.set_7_l, [0xCB#8, 0xFD#8], 8, (true, 7, .reg .l)⟩,
   ⟨.set_7_a, [0xCB#8, 0xFF#8], 8, (true, 7, .reg .a)⟩,
   ⟨.set_0__hl, [0xCB#8, 0xC6#8], 15, (true, 0, .mem s.hl)⟩,
   ⟨.set_1__hl, [0xCB#8, 0xCE#8], 15, (true, 1, .mem s.hl)⟩,
   ⟨.set_2__hl, [0xCB#8, 0xD6#8], 15, (true, 2, .mem s.hl)⟩,
   ⟨.set_3__hl, [0xCB#8, 0xDE#8], 15, (true, 3, .mem s.hl)⟩,
   ⟨.set_4__hl, [0xCB#8, 0xE6#8], 15, (true, 4, .mem s.hl)⟩,
   ⟨.set_5__hl, [0xCB#8, 0xEE#8], 15, (true, 5, .mem s.hl)⟩,
   ⟨.set_6__hl, [0xCB#8, 0xF6#8], 15, (true, 6, .mem s.hl)⟩,
   ⟨.set_7__hl, [0xCB#8, 0xFE#8], 15, (true, 7, .mem s.hl)⟩,
   ⟨.set_0__ixd d, [0xDD#8, 0xCB#8, d, 0xC6#8], 23, (true, 0, .mem (s.idxAddr .ix d))⟩,
   ⟨.set_1__ixd d, [0xDD#8, 0xCB#8, d, 0xCE#8], 23, (true, 1, .mem (s.idxAddr .ix d))⟩,
   ⟨.set_2__ixd d, [0xDD#8, 0xCB#8, d, 0xD6#8], 23, (true, 2, .mem (s.idxAddr .ix d))⟩,
   ⟨.set_3__ixd d, [0xDD#8, 0xCB#8, d, 0xDE#8], 23, (true, 3, .mem (s.idxAddr .ix d))⟩,
   ⟨.set_4__ixd d, [0xDD#8, 0xCB#8, d, 0xE6#8], 23, (true, 4, .mem (s.idxAddr .ix d))⟩,
   ⟨.set_5__ixd d, [0xDD#8, 0xCB#8, d, 0xEE#8], 23, (true, 5, .mem (s.idxAddr .ix d))⟩,
   ⟨.set_6__ixd d, [0xDD#8, 0xCB#8, d, 0xF6#8], 23, (true, 6, .mem (s.idxAddr .ix d))⟩,
   ⟨.set_7__ixd d, [0xDD#8, 0xCB#8, d, 0xFE#8], 23, (true, 7, .mem (s.idxAddr .ix d))⟩,
   ⟨.set_0__iyd d, [0xFD#8, 0xCB#8, d, 0xC6#8], 23, (true, 0, .mem (s.idxAddr .iy d))⟩,
   ⟨.set_1__iyd d, [0xFD#8, 0xCB#8, d, 0xCE#8], 23, (true, 1, .mem (s.idxAddr .iy d))⟩,
   ⟨.set_2__iyd d, [0xFD#8, 0xCB#8, d, 0xD6#8], 23, (true, 2, .mem (s.idxAddr .iy d))⟩,
   ⟨.set_3__iyd d, [0xFD#8, 0xCB#8, d, 0xDE#8], 23, (true, 3, .mem (s.idxAddr .iy d))⟩,
   ⟨.set_4__iyd d, [0xFD#8, 0xCB#8, d, 0xE6#8], 23, (true, 4, .mem (s.idxAddr .iy d))⟩,
   ⟨.set_5__iyd d, [0xFD#8, 0xCB#8, d, 0xEE#8], 23, (true, 5, .mem (s.idxAddr .iy d))⟩,
   ⟨.set_6__iyd d, [0xFD#8, 0xCB#8, d, 0xF6#8], 23, (true, 6, .mem (s.idxAddr .iy d))⟩,
   ⟨.set_7__iyd d, [0xFD#8, 0xCB#8, d, 0xFE#8], 23, (true, 7, .mem (s.idxAddr .iy d))⟩,
   ⟨.set_0__ixd__b d, [0xDD#8, 0xCB#8, d, 0xC0#8], 23, (true, 0, .memCopy (s.idxAddr .ix d) .b)⟩,
   ⟨.set_0__ixd__c d, [0xDD#8, 0xCB#8, d, 0xC1#8], 23, (true, 0, .memCopy (s.idxAddr .ix d) .c)⟩,
   ⟨.set_0__ixd__d d, [0xDD#8, 0xCB#8, d, 0xC2#8], 23, (true, 0, .memCopy (s.idxAddr .ix d) .d)⟩,
   ⟨.set_0__ixd__e d, [0xDD#8, 0xCB#8, d, 0xC3#8], 23, (true, 0, .memCopy (s.idxAddr .ix d) .e)⟩,
   ⟨.set_0__ixd__h d, [0xDD#8, 0xCB#8, d, 0xC4#8], 23, (true, 0, .memCopy (s.idxAddr .ix d) .h)⟩,
   ⟨.set_0__ixd__l d, [0xDD#8, 0xCB#8, d, 0xC5#8], 23, (true, 0, .memCopy (s.idxAddr .ix d) .l)⟩,
   ⟨.set_0__ixd__a d, [0xDD#8, 0xCB#8, d, 0xC7#8], 23, (true, 0, .memCopy (s.idxAddr .ix d) .a)⟩,
   ⟨.set_1__ixd__b d, [0xDD#8, 0xCB#8, d, 0xC8#8], 23, (true, 1, .memCopy (s.idxAddr .ix d) .b)⟩]

/-- Part of `bitChanges`. -/
noncomputable def bitChanges7 (s : State) (d : Byte) : List (Row (Bool × Nat × Place)) :=
  [⟨.set_1__ixd__c d, [0xDD#8, 0xCB#8, d, 0xC9#8], 23, (true, 1, .memCopy (s.idxAddr .ix d) .c)⟩,
   ⟨.set_1__ixd__d d, [0xDD#8, 0xCB#8, d, 0xCA#8], 23, (true, 1, .memCopy (s.idxAddr .ix d) .d)⟩,
   ⟨.set_1__ixd__e d, [0xDD#8, 0xCB#8, d, 0xCB#8], 23, (true, 1, .memCopy (s.idxAddr .ix d) .e)⟩,
   ⟨.set_1__ixd__h d, [0xDD#8, 0xCB#8, d, 0xCC#8], 23, (true, 1, .memCopy (s.idxAddr .ix d) .h)⟩,
   ⟨.set_1__ixd__l d, [0xDD#8, 0xCB#8, d, 0xCD#8], 23, (true, 1, .memCopy (s.idxAddr .ix d) .l)⟩,
   ⟨.set_1__ixd__a d, [0xDD#8, 0xCB#8, d, 0xCF#8], 23, (true, 1, .memCopy (s.idxAddr .ix d) .a)⟩,
   ⟨.set_2__ixd__b d, [0xDD#8, 0xCB#8, d, 0xD0#8], 23, (true, 2, .memCopy (s.idxAddr .ix d) .b)⟩,
   ⟨.set_2__ixd__c d, [0xDD#8, 0xCB#8, d, 0xD1#8], 23, (true, 2, .memCopy (s.idxAddr .ix d) .c)⟩,
   ⟨.set_2__ixd__d d, [0xDD#8, 0xCB#8, d, 0xD2#8], 23, (true, 2, .memCopy (s.idxAddr .ix d) .d)⟩,
   ⟨.set_2__ixd__e d, [0xDD#8, 0xCB#8, d, 0xD3#8], 23, (true, 2, .memCopy (s.idxAddr .ix d) .e)⟩,
   ⟨.set_2__ixd__h d, [0xDD#8, 0xCB#8, d, 0xD4#8], 23, (true, 2, .memCopy (s.idxAddr .ix d) .h)⟩,
   ⟨.set_2__ixd__l d, [0xDD#8, 0xCB#8, d, 0xD5#8], 23, (true, 2, .memCopy (s.idxAddr .ix d) .l)⟩,
   ⟨.set_2__ixd__a d, [0xDD#8, 0xCB#8, d, 0xD7#8], 23, (true, 2, .memCopy (s.idxAddr .ix d) .a)⟩,
   ⟨.set_3__ixd__b d, [0xDD#8, 0xCB#8, d, 0xD8#8], 23, (true, 3, .memCopy (s.idxAddr .ix d) .b)⟩,
   ⟨.set_3__ixd__c d, [0xDD#8, 0xCB#8, d, 0xD9#8], 23, (true, 3, .memCopy (s.idxAddr .ix d) .c)⟩,
   ⟨.set_3__ixd__d d, [0xDD#8, 0xCB#8, d, 0xDA#8], 23, (true, 3, .memCopy (s.idxAddr .ix d) .d)⟩,
   ⟨.set_3__ixd__e d, [0xDD#8, 0xCB#8, d, 0xDB#8], 23, (true, 3, .memCopy (s.idxAddr .ix d) .e)⟩,
   ⟨.set_3__ixd__h d, [0xDD#8, 0xCB#8, d, 0xDC#8], 23, (true, 3, .memCopy (s.idxAddr .ix d) .h)⟩,
   ⟨.set_3__ixd__l d, [0xDD#8, 0xCB#8, d, 0xDD#8], 23, (true, 3, .memCopy (s.idxAddr .ix d) .l)⟩,
   ⟨.set_3__ixd__a d, [0xDD#8, 0xCB#8, d, 0xDF#8], 23, (true, 3, .memCopy (s.idxAddr .ix d) .a)⟩,
   ⟨.set_4__ixd__b d, [0xDD#8, 0xCB#8, d, 0xE0#8], 23, (true, 4, .memCopy (s.idxAddr .ix d) .b)⟩,
   ⟨.set_4__ixd__c d, [0xDD#8, 0xCB#8, d, 0xE1#8], 23, (true, 4, .memCopy (s.idxAddr .ix d) .c)⟩,
   ⟨.set_4__ixd__d d, [0xDD#8, 0xCB#8, d, 0xE2#8], 23, (true, 4, .memCopy (s.idxAddr .ix d) .d)⟩,
   ⟨.set_4__ixd__e d, [0xDD#8, 0xCB#8, d, 0xE3#8], 23, (true, 4, .memCopy (s.idxAddr .ix d) .e)⟩,
   ⟨.set_4__ixd__h d, [0xDD#8, 0xCB#8, d, 0xE4#8], 23, (true, 4, .memCopy (s.idxAddr .ix d) .h)⟩,
   ⟨.set_4__ixd__l d, [0xDD#8, 0xCB#8, d, 0xE5#8], 23, (true, 4, .memCopy (s.idxAddr .ix d) .l)⟩,
   ⟨.set_4__ixd__a d, [0xDD#8, 0xCB#8, d, 0xE7#8], 23, (true, 4, .memCopy (s.idxAddr .ix d) .a)⟩,
   ⟨.set_5__ixd__b d, [0xDD#8, 0xCB#8, d, 0xE8#8], 23, (true, 5, .memCopy (s.idxAddr .ix d) .b)⟩,
   ⟨.set_5__ixd__c d, [0xDD#8, 0xCB#8, d, 0xE9#8], 23, (true, 5, .memCopy (s.idxAddr .ix d) .c)⟩,
   ⟨.set_5__ixd__d d, [0xDD#8, 0xCB#8, d, 0xEA#8], 23, (true, 5, .memCopy (s.idxAddr .ix d) .d)⟩,
   ⟨.set_5__ixd__e d, [0xDD#8, 0xCB#8, d, 0xEB#8], 23, (true, 5, .memCopy (s.idxAddr .ix d) .e)⟩,
   ⟨.set_5__ixd__h d, [0xDD#8, 0xCB#8, d, 0xEC#8], 23, (true, 5, .memCopy (s.idxAddr .ix d) .h)⟩,
   ⟨.set_5__ixd__l d, [0xDD#8, 0xCB#8, d, 0xED#8], 23, (true, 5, .memCopy (s.idxAddr .ix d) .l)⟩,
   ⟨.set_5__ixd__a d, [0xDD#8, 0xCB#8, d, 0xEF#8], 23, (true, 5, .memCopy (s.idxAddr .ix d) .a)⟩,
   ⟨.set_6__ixd__b d, [0xDD#8, 0xCB#8, d, 0xF0#8], 23, (true, 6, .memCopy (s.idxAddr .ix d) .b)⟩,
   ⟨.set_6__ixd__c d, [0xDD#8, 0xCB#8, d, 0xF1#8], 23, (true, 6, .memCopy (s.idxAddr .ix d) .c)⟩,
   ⟨.set_6__ixd__d d, [0xDD#8, 0xCB#8, d, 0xF2#8], 23, (true, 6, .memCopy (s.idxAddr .ix d) .d)⟩,
   ⟨.set_6__ixd__e d, [0xDD#8, 0xCB#8, d, 0xF3#8], 23, (true, 6, .memCopy (s.idxAddr .ix d) .e)⟩,
   ⟨.set_6__ixd__h d, [0xDD#8, 0xCB#8, d, 0xF4#8], 23, (true, 6, .memCopy (s.idxAddr .ix d) .h)⟩,
   ⟨.set_6__ixd__l d, [0xDD#8, 0xCB#8, d, 0xF5#8], 23, (true, 6, .memCopy (s.idxAddr .ix d) .l)⟩]

/-- Part of `bitChanges`. -/
noncomputable def bitChanges8 (s : State) (d : Byte) : List (Row (Bool × Nat × Place)) :=
  [⟨.set_6__ixd__a d, [0xDD#8, 0xCB#8, d, 0xF7#8], 23, (true, 6, .memCopy (s.idxAddr .ix d) .a)⟩,
   ⟨.set_7__ixd__b d, [0xDD#8, 0xCB#8, d, 0xF8#8], 23, (true, 7, .memCopy (s.idxAddr .ix d) .b)⟩,
   ⟨.set_7__ixd__c d, [0xDD#8, 0xCB#8, d, 0xF9#8], 23, (true, 7, .memCopy (s.idxAddr .ix d) .c)⟩,
   ⟨.set_7__ixd__d d, [0xDD#8, 0xCB#8, d, 0xFA#8], 23, (true, 7, .memCopy (s.idxAddr .ix d) .d)⟩,
   ⟨.set_7__ixd__e d, [0xDD#8, 0xCB#8, d, 0xFB#8], 23, (true, 7, .memCopy (s.idxAddr .ix d) .e)⟩,
   ⟨.set_7__ixd__h d, [0xDD#8, 0xCB#8, d, 0xFC#8], 23, (true, 7, .memCopy (s.idxAddr .ix d) .h)⟩,
   ⟨.set_7__ixd__l d, [0xDD#8, 0xCB#8, d, 0xFD#8], 23, (true, 7, .memCopy (s.idxAddr .ix d) .l)⟩,
   ⟨.set_7__ixd__a d, [0xDD#8, 0xCB#8, d, 0xFF#8], 23, (true, 7, .memCopy (s.idxAddr .ix d) .a)⟩,
   ⟨.set_0__iyd__b d, [0xFD#8, 0xCB#8, d, 0xC0#8], 23, (true, 0, .memCopy (s.idxAddr .iy d) .b)⟩,
   ⟨.set_0__iyd__c d, [0xFD#8, 0xCB#8, d, 0xC1#8], 23, (true, 0, .memCopy (s.idxAddr .iy d) .c)⟩,
   ⟨.set_0__iyd__d d, [0xFD#8, 0xCB#8, d, 0xC2#8], 23, (true, 0, .memCopy (s.idxAddr .iy d) .d)⟩,
   ⟨.set_0__iyd__e d, [0xFD#8, 0xCB#8, d, 0xC3#8], 23, (true, 0, .memCopy (s.idxAddr .iy d) .e)⟩,
   ⟨.set_0__iyd__h d, [0xFD#8, 0xCB#8, d, 0xC4#8], 23, (true, 0, .memCopy (s.idxAddr .iy d) .h)⟩,
   ⟨.set_0__iyd__l d, [0xFD#8, 0xCB#8, d, 0xC5#8], 23, (true, 0, .memCopy (s.idxAddr .iy d) .l)⟩,
   ⟨.set_0__iyd__a d, [0xFD#8, 0xCB#8, d, 0xC7#8], 23, (true, 0, .memCopy (s.idxAddr .iy d) .a)⟩,
   ⟨.set_1__iyd__b d, [0xFD#8, 0xCB#8, d, 0xC8#8], 23, (true, 1, .memCopy (s.idxAddr .iy d) .b)⟩,
   ⟨.set_1__iyd__c d, [0xFD#8, 0xCB#8, d, 0xC9#8], 23, (true, 1, .memCopy (s.idxAddr .iy d) .c)⟩,
   ⟨.set_1__iyd__d d, [0xFD#8, 0xCB#8, d, 0xCA#8], 23, (true, 1, .memCopy (s.idxAddr .iy d) .d)⟩,
   ⟨.set_1__iyd__e d, [0xFD#8, 0xCB#8, d, 0xCB#8], 23, (true, 1, .memCopy (s.idxAddr .iy d) .e)⟩,
   ⟨.set_1__iyd__h d, [0xFD#8, 0xCB#8, d, 0xCC#8], 23, (true, 1, .memCopy (s.idxAddr .iy d) .h)⟩,
   ⟨.set_1__iyd__l d, [0xFD#8, 0xCB#8, d, 0xCD#8], 23, (true, 1, .memCopy (s.idxAddr .iy d) .l)⟩,
   ⟨.set_1__iyd__a d, [0xFD#8, 0xCB#8, d, 0xCF#8], 23, (true, 1, .memCopy (s.idxAddr .iy d) .a)⟩,
   ⟨.set_2__iyd__b d, [0xFD#8, 0xCB#8, d, 0xD0#8], 23, (true, 2, .memCopy (s.idxAddr .iy d) .b)⟩,
   ⟨.set_2__iyd__c d, [0xFD#8, 0xCB#8, d, 0xD1#8], 23, (true, 2, .memCopy (s.idxAddr .iy d) .c)⟩,
   ⟨.set_2__iyd__d d, [0xFD#8, 0xCB#8, d, 0xD2#8], 23, (true, 2, .memCopy (s.idxAddr .iy d) .d)⟩,
   ⟨.set_2__iyd__e d, [0xFD#8, 0xCB#8, d, 0xD3#8], 23, (true, 2, .memCopy (s.idxAddr .iy d) .e)⟩,
   ⟨.set_2__iyd__h d, [0xFD#8, 0xCB#8, d, 0xD4#8], 23, (true, 2, .memCopy (s.idxAddr .iy d) .h)⟩,
   ⟨.set_2__iyd__l d, [0xFD#8, 0xCB#8, d, 0xD5#8], 23, (true, 2, .memCopy (s.idxAddr .iy d) .l)⟩,
   ⟨.set_2__iyd__a d, [0xFD#8, 0xCB#8, d, 0xD7#8], 23, (true, 2, .memCopy (s.idxAddr .iy d) .a)⟩,
   ⟨.set_3__iyd__b d, [0xFD#8, 0xCB#8, d, 0xD8#8], 23, (true, 3, .memCopy (s.idxAddr .iy d) .b)⟩,
   ⟨.set_3__iyd__c d, [0xFD#8, 0xCB#8, d, 0xD9#8], 23, (true, 3, .memCopy (s.idxAddr .iy d) .c)⟩,
   ⟨.set_3__iyd__d d, [0xFD#8, 0xCB#8, d, 0xDA#8], 23, (true, 3, .memCopy (s.idxAddr .iy d) .d)⟩,
   ⟨.set_3__iyd__e d, [0xFD#8, 0xCB#8, d, 0xDB#8], 23, (true, 3, .memCopy (s.idxAddr .iy d) .e)⟩,
   ⟨.set_3__iyd__h d, [0xFD#8, 0xCB#8, d, 0xDC#8], 23, (true, 3, .memCopy (s.idxAddr .iy d) .h)⟩,
   ⟨.set_3__iyd__l d, [0xFD#8, 0xCB#8, d, 0xDD#8], 23, (true, 3, .memCopy (s.idxAddr .iy d) .l)⟩,
   ⟨.set_3__iyd__a d, [0xFD#8, 0xCB#8, d, 0xDF#8], 23, (true, 3, .memCopy (s.idxAddr .iy d) .a)⟩,
   ⟨.set_4__iyd__b d, [0xFD#8, 0xCB#8, d, 0xE0#8], 23, (true, 4, .memCopy (s.idxAddr .iy d) .b)⟩,
   ⟨.set_4__iyd__c d, [0xFD#8, 0xCB#8, d, 0xE1#8], 23, (true, 4, .memCopy (s.idxAddr .iy d) .c)⟩,
   ⟨.set_4__iyd__d d, [0xFD#8, 0xCB#8, d, 0xE2#8], 23, (true, 4, .memCopy (s.idxAddr .iy d) .d)⟩,
   ⟨.set_4__iyd__e d, [0xFD#8, 0xCB#8, d, 0xE3#8], 23, (true, 4, .memCopy (s.idxAddr .iy d) .e)⟩]

/-- Part of `bitChanges`. -/
noncomputable def bitChanges9 (s : State) (d : Byte) : List (Row (Bool × Nat × Place)) :=
  [⟨.set_4__iyd__h d, [0xFD#8, 0xCB#8, d, 0xE4#8], 23, (true, 4, .memCopy (s.idxAddr .iy d) .h)⟩,
   ⟨.set_4__iyd__l d, [0xFD#8, 0xCB#8, d, 0xE5#8], 23, (true, 4, .memCopy (s.idxAddr .iy d) .l)⟩,
   ⟨.set_4__iyd__a d, [0xFD#8, 0xCB#8, d, 0xE7#8], 23, (true, 4, .memCopy (s.idxAddr .iy d) .a)⟩,
   ⟨.set_5__iyd__b d, [0xFD#8, 0xCB#8, d, 0xE8#8], 23, (true, 5, .memCopy (s.idxAddr .iy d) .b)⟩,
   ⟨.set_5__iyd__c d, [0xFD#8, 0xCB#8, d, 0xE9#8], 23, (true, 5, .memCopy (s.idxAddr .iy d) .c)⟩,
   ⟨.set_5__iyd__d d, [0xFD#8, 0xCB#8, d, 0xEA#8], 23, (true, 5, .memCopy (s.idxAddr .iy d) .d)⟩,
   ⟨.set_5__iyd__e d, [0xFD#8, 0xCB#8, d, 0xEB#8], 23, (true, 5, .memCopy (s.idxAddr .iy d) .e)⟩,
   ⟨.set_5__iyd__h d, [0xFD#8, 0xCB#8, d, 0xEC#8], 23, (true, 5, .memCopy (s.idxAddr .iy d) .h)⟩,
   ⟨.set_5__iyd__l d, [0xFD#8, 0xCB#8, d, 0xED#8], 23, (true, 5, .memCopy (s.idxAddr .iy d) .l)⟩,
   ⟨.set_5__iyd__a d, [0xFD#8, 0xCB#8, d, 0xEF#8], 23, (true, 5, .memCopy (s.idxAddr .iy d) .a)⟩,
   ⟨.set_6__iyd__b d, [0xFD#8, 0xCB#8, d, 0xF0#8], 23, (true, 6, .memCopy (s.idxAddr .iy d) .b)⟩,
   ⟨.set_6__iyd__c d, [0xFD#8, 0xCB#8, d, 0xF1#8], 23, (true, 6, .memCopy (s.idxAddr .iy d) .c)⟩,
   ⟨.set_6__iyd__d d, [0xFD#8, 0xCB#8, d, 0xF2#8], 23, (true, 6, .memCopy (s.idxAddr .iy d) .d)⟩,
   ⟨.set_6__iyd__e d, [0xFD#8, 0xCB#8, d, 0xF3#8], 23, (true, 6, .memCopy (s.idxAddr .iy d) .e)⟩,
   ⟨.set_6__iyd__h d, [0xFD#8, 0xCB#8, d, 0xF4#8], 23, (true, 6, .memCopy (s.idxAddr .iy d) .h)⟩,
   ⟨.set_6__iyd__l d, [0xFD#8, 0xCB#8, d, 0xF5#8], 23, (true, 6, .memCopy (s.idxAddr .iy d) .l)⟩,
   ⟨.set_6__iyd__a d, [0xFD#8, 0xCB#8, d, 0xF7#8], 23, (true, 6, .memCopy (s.idxAddr .iy d) .a)⟩,
   ⟨.set_7__iyd__b d, [0xFD#8, 0xCB#8, d, 0xF8#8], 23, (true, 7, .memCopy (s.idxAddr .iy d) .b)⟩,
   ⟨.set_7__iyd__c d, [0xFD#8, 0xCB#8, d, 0xF9#8], 23, (true, 7, .memCopy (s.idxAddr .iy d) .c)⟩,
   ⟨.set_7__iyd__d d, [0xFD#8, 0xCB#8, d, 0xFA#8], 23, (true, 7, .memCopy (s.idxAddr .iy d) .d)⟩,
   ⟨.set_7__iyd__e d, [0xFD#8, 0xCB#8, d, 0xFB#8], 23, (true, 7, .memCopy (s.idxAddr .iy d) .e)⟩,
   ⟨.set_7__iyd__h d, [0xFD#8, 0xCB#8, d, 0xFC#8], 23, (true, 7, .memCopy (s.idxAddr .iy d) .h)⟩,
   ⟨.set_7__iyd__l d, [0xFD#8, 0xCB#8, d, 0xFD#8], 23, (true, 7, .memCopy (s.idxAddr .iy d) .l)⟩,
   ⟨.set_7__iyd__a d, [0xFD#8, 0xCB#8, d, 0xFF#8], 23, (true, 7, .memCopy (s.idxAddr .iy d) .a)⟩]

/-- `RES` and `SET`: whether it sets, the bit, and the operand (R783, R784). -/
noncomputable def bitChanges (s : State) (d : Byte) : List (Row (Bool × Nat × Place)) :=
  bitChanges0 ++ bitChanges1 s d ++ bitChanges2 s d ++ bitChanges3 s d ++ bitChanges4 s d ++ bitChanges5 ++ bitChanges6 s d ++ bitChanges7 s d ++ bitChanges8 s d ++ bitChanges9 s d

/-- Part of `ignored`. -/
noncomputable def ignored0 (n : Byte) (nn : Word) : List (IndexByte → Instr) :=
  [.nop, (.ld_bc_nn · nn), .ld__bc__a, .inc_bc, .inc_b, .dec_b, (.ld_b_n · n), .rlca, .ex_af_af,
   .ld_a__bc, .dec_bc, .inc_c, .dec_c, (.ld_c_n · n), .rrca, (.djnz_e · n), (.ld_de_nn · nn),
   .ld__de__a, .inc_de, .inc_d, .dec_d, (.ld_d_n · n), .rla, (.jr_e · n), .ld_a__de, .dec_de,
   .inc_e, .dec_e, (.ld_e_n · n), .rra, (.jr_nz_e · n), .daa, (.jr_z_e · n), .cpl, (.jr_nc_e · n),
   (.ld_sp_nn · nn), (.ld__nn__a · nn), .inc_sp, .scf, (.jr_c_e · n)]

/-- Part of `ignored`. -/
noncomputable def ignored1 (n : Byte) (nn : Word) : List (IndexByte → Instr) :=
  [(.ld_a__nn · nn), .dec_sp, .inc_a, .dec_a, (.ld_a_n · n), .ccf, .ld_b_b, .ld_b_c, .ld_b_d,
   .ld_b_e, .ld_b_a, .ld_c_b, .ld_c_c, .ld_c_d, .ld_c_e, .ld_c_a, .ld_d_b, .ld_d_c, .ld_d_d,
   .ld_d_e, .ld_d_a, .ld_e_b, .ld_e_c, .ld_e_d, .ld_e_e, .ld_e_a, .halt, .ld_a_b, .ld_a_c, .ld_a_d,
   .ld_a_e, .ld_a_a, .add_a_b, .add_a_c, .add_a_d, .add_a_e, .add_a_a, .adc_a_b, .adc_a_c, .adc_a_d]

/-- Part of `ignored`. -/
noncomputable def ignored2 (n : Byte) (nn : Word) : List (IndexByte → Instr) :=
  [.adc_a_e, .adc_a_a, .sub_b, .sub_c, .sub_d, .sub_e, .sub_a, .sbc_a_b, .sbc_a_c, .sbc_a_d,
   .sbc_a_e, .sbc_a_a, .and_b, .and_c, .and_d, .and_e, .and_a, .xor_b, .xor_c, .xor_d, .xor_e,
   .xor_a, .or_b, .or_c, .or_d, .or_e, .or_a, .cp_b, .cp_c, .cp_d, .cp_e, .cp_a, .ret_nz, .pop_bc,
   (.jp_nz_nn · nn), (.jp_nn · nn), (.call_nz_nn · nn), .push_bc, (.add_a_n · n), .rst_00h]

/-- Part of `ignored`. -/
noncomputable def ignored3 (n : Byte) (nn : Word) : List (IndexByte → Instr) :=
  [.ret_z, .ret, (.jp_z_nn · nn), (.call_z_nn · nn), (.call_nn · nn), (.adc_a_n · n), .rst_08h,
   .ret_nc, .pop_de, (.jp_nc_nn · nn), (.out__n__a · n), (.call_nc_nn · nn), .push_de,
   (.sub_n · n), .rst_10h, .ret_c, .exx, (.jp_c_nn · nn), (.in_a__n · n), (.call_c_nn · nn),
   (.sbc_a_n · n), .rst_18h, .ret_po, (.jp_po_nn · nn), (.call_po_nn · nn), (.and_n · n), .rst_20h,
   .ret_pe, (.jp_pe_nn · nn), .ex_de_hl, (.call_pe_nn · nn), (.xor_n · n), .rst_28h, .ret_p,
   .pop_af, (.jp_p_nn · nn), .di, (.call_p_nn · nn), .push_af, (.or_n · n)]

/-- Part of `ignored`. -/
noncomputable def ignored4 (n : Byte) (nn : Word) : List (IndexByte → Instr) :=
  [.rst_30h, .ret_m, (.jp_m_nn · nn), .ei, (.call_m_nn · nn), (.cp_n · n), .rst_38h]

/-- The instructions that ignore an index byte, as functions of it (R222). -/
noncomputable def ignored (n : Byte) (nn : Word) : List (IndexByte → Instr) :=
  ignored0 n nn ++ ignored1 n nn ++ ignored2 n nn ++ ignored3 n nn ++ ignored4 n nn

end Sys2Proof.Claims

open Sys2Proof.Claims

/-! ## Encoding and decoding -/

/-- Decoding the bytes of any well-formed instruction gives that instruction back, with every
operand, and nothing is left over (R200 to R206). -/
def Obligations.DecodeOfEncode : Prop :=
  ∀ i : Instr, i.wellFormed = true → decode (encode i) = .ok (i, [])

/-- Any four bytes begin with a well-formed instruction of one to four bytes, and encoding it gives
those bytes back: no two instructions share bytes and no bit of an encoding is ignored (R203, R260).
-/
def Obligations.EncodeOfDecode : Prop :=
  ∀ b0 b1 b2 b3 : Byte,
    (decode4 b0 b1 b2 b3).2.wellFormed = true
      ∧ 1 ≤ (decode4 b0 b1 b2 b3).1 ∧ (decode4 b0 b1 b2 b3).1 ≤ 4
      ∧ encode (decode4 b0 b1 b2 b3).2 = [b0, b1, b2, b3].take (decode4 b0 b1 b2 b3).1

/-- Words of the spec's examples, one or more of every family, decode to the instructions they stand
for. -/
def Obligations.SampleWordsDecode : Prop :=
  decode [0xC3#8, 0x00#8, 0x80#8] = .ok (.jp_nn .none 0x8000#16, [])
    ∧ decode [0x20#8, 0x05#8] = .ok (.jr_nz_e .none 0x05#8, [])
    ∧ decode [0xDD#8, 0x46#8, 0xFF#8] = .ok (.ld_b__ixd 0xFF#8, [])
    ∧ decode [0xDD#8, 0x36#8, 0x10#8, 0x55#8] = .ok (.ld__ixd__n 0x10#8 0x55#8, [])
    ∧ decode [0xED#8, 0x7B#8, 0x00#8, 0x90#8] = .ok (.ld_sp__nn 0x9000#16, [])
    ∧ decode [0xED#8, 0xB8#8] = .ok (.lddr, [])
    ∧ decode [0xDB#8, 0x01#8] = .ok (.in_a__n .none 0x01#8, [])
    ∧ decode [0xED#8, 0x76#8] = .ok (.im_1 0x76#8, [])
    ∧ decode [0xFE#8, 0x28#8] = .ok (.cp_n .none 0x28#8, [])
    ∧ decode [0xDD#8, 0x39#8] = .ok (.add_ix_sp, [])
    ∧ decode [0xFD#8, 0xCB#8, 0xFF#8, 0xF8#8] = .ok (.set_7__iyd__b 0xFF#8, [])
    ∧ decode [0xDD#8, 0xCB#8, 0x10#8, 0x5E#8] = .ok (.bit_3__ixd 6#3 0x10#8, [])

/-! ## The step -/

/-- A step runs the decoded instruction: when no interrupt is accepted and CORE is not halted, the
bytes at PC, each as the fetch that comes to it reads it, decode to an instruction, and the step is
`exec` of it in the state after its bytes are fetched, with `prefix` 0x00 at the end. A port that
fails in the fetch ends the run. -/
def Obligations.StepRunsDecodedInstruction : Prop :=
  ∀ (s : State) (i : Instr) (rest : List Byte), runsInstruction s →
    decode [s.byteAfter 0, s.byteAfter 1, s.byteAfter 2, s.byteAfter 3] = .ok (i, rest) →
    step s =
      (let t := (atFetch s).fetchInstr (s.peek s.pc) (4 - rest.length)
       if t.portFailed then .fault (.portFailure t.failure)
       else match exec i t with
         | .next u => .next (u.setPfx .none)
         | .fault r => .fault r
         | .refused r => .refused r)

/-- Fetching an instruction of `len` bytes: PC moves past it, R counts once, or twice after a
leading byte CB, DD, ED or FD, `prefix` is the index byte it begins with, each byte is read once and
in order, the latch holds the last of them, and nothing else changes (R18, R67, R78, R203, R231). -/
def Obligations.FetchingTheInstruction : Prop :=
  ∀ (s : State) (b0 : Byte) (len : Nat), 1 ≤ len → len ≤ 4 → (leads b0 = true → 2 ≤ len) →
    let t := s.fetchInstr b0 len
    t.pc = s.pc + BitVec.ofNat 16 len
      ∧ t.r = counts s.r (if leads b0 then 2 else 1)
      ∧ t.pfx = (if b0 = 0xDD#8 then .dd else if b0 = 0xFD#8 then .fd else .none)
      ∧ t.calls = ((List.range len).map fun k =>
          PortCall.memRead (s.pc + BitVec.ofNat 16 k) (s.byteAfter k)).reverse ++ s.calls
      ∧ t.bus = s.byteAfter (len - 1)
      ∧ t.sideEffects = s.sideEffects.drop len
      ∧ t.cycles = s.cycles
      ∧ Frame s t [.pc, .r, .pfx, .bus] [] []

/-- The step over decoded instructions is the dispatch loop of R231, which fetches one byte at a
time and reads the fields of each opcode: for every state, every opcode and every chain of index
bytes. -/
def Obligations.StepIsDispatchLoop : Prop :=
  ∀ s : State, runsInstruction s → step s = executeInstruction (atFetch s)

/-- A halted step makes no fetch, counts R once, takes 4 cycles and changes nothing else but
EI-pending and the outputs of the last step (R230, R602). -/
def Obligations.HaltedStep : Prop :=
  ∀ s : State, s.nmiPending = false → s.acceptsInt = false → s.halted = true →
    ∃ t, step s = .next t ∧ t.r = counts s.r 1 ∧ t.cycles = 4#32 ∧ t.calls = []
      ∧ t.eiPending = false ∧ Frame s.beginStep t [.r, .eiPending] [] []

/-- NMI acceptance (R809). -/
def Obligations.NonMaskableAcceptance : Prop :=
  ∀ s : State, s.nmiPending = true → s.failAfter = none →
    ∃ t, step s = .next t ∧ t.nmiPending = false
      ∧ Accepted s t 0x0066#16 11 (lo s.pc) [] [.nmiPending]

/-- INT acceptance in mode 0: an RST byte goes to its address, and every other byte is refused
(R811, R812). -/
def Obligations.AcceptanceInMode0 : Prop :=
  ∀ s : State, takesInt s → s.im = .im0 → s.failAfter = none →
    if s.intData &&& 0xC7#8 = 0xC7#8 then
      ∃ t, step s = .next t ∧ t.iff2 = false
        ∧ Accepted s t ((s.intData &&& 0x38#8).setWidth 16) 13 (lo s.pc) [] [.iff2]
    else step s = .refused .im0Unsupported

/-- INT acceptance in mode 1 (R811, R813). -/
def Obligations.AcceptanceInMode1 : Prop :=
  ∀ s : State, takesInt s → s.im = .im1 → s.failAfter = none →
    ∃ t, step s = .next t ∧ t.iff2 = false
      ∧ Accepted s t 0x0038#16 13 (lo s.pc) [] [.iff2]

/-- INT acceptance in mode 2: the vector address is I and the device's byte, and the entry is the
word there after the push (R811, R814). -/
def Obligations.AcceptanceInMode2 : Prop :=
  ∀ s : State, takesInt s → s.im = .im2 → s.failAfter = none →
    ∃ t, step s = .next t ∧ t.iff2 = false
      ∧ (let v : Word := s.i ++ s.intData
         let u := s.push s.pc
         Accepted s t (wordAt u v) 19 ((u.noteRead v).peek (v + 1#16)) (wordReads u v) [.iff2])

/-- After EI, one more instruction executes before a maskable interrupt can be accepted: the step
that runs EI sets both flip-flops, and the next step does not accept, whatever the request (R604,
R856). -/
def Obligations.EnableTakesEffectOneStepLater : Prop :=
  ∀ s : State, runsInstruction s → s.failAfter = none → s.peek s.pc = 0xFB#8 →
    ∃ t, step s = .next t ∧ t.iff1 = true ∧ t.iff2 = true ∧ t.eiPending = true
      ∧ t.pc = s.pc + 1#16
      ∧ ∀ (line : Bool) (data : Byte),
          ({ t with intLine := line, intData := data } : State).acceptsInt = false
          ∧ step { t with intLine := line, intData := data }
            = executeInstruction (atFetch { t with intLine := line, intData := data })

/-- With an index byte at every fetch the step never completes: it ends in the fault that stands for
the hang. The fault and its bound are the model's (log entry 10) for the spec's "endless chain"
(R238). -/
def Obligations.EndlessIndexChainHangs : Prop :=
  ∀ s : State, runsInstruction s → s.failAfter = none →
    (∀ n, s.byteAfter n = 0xDD#8 ∨ s.byteAfter n = 0xFD#8) → step s = .fault .endlessIndexChain

/-- A failing port ends the run, with the state just before the failing call (R801): a step whose
first fetch fails stops in the state before it; no step that completes has made more port calls than
succeed; the state a failed step stops in has made exactly the calls that succeed; and PUSH whose
second write fails stops with the high byte written and SP already two lower. `failAfter` is the
model's way to let a port fail (log entry 9). -/
def Obligations.PortFailureEndsTheRun : Prop :=
  (∀ s : State, runsInstruction s → s.failAfter = some 0 →
      step s = failsIn ((atFetch s).setPfx .none))
    ∧ (∀ (s t : State) (k : Nat), s.failAfter = some k → step s = .next t → t.calls.length ≤ k)
    ∧ (∀ (s : State) (c : Snapshot), step s = .fault (.portFailure c) →
        s.failAfter = some c.calls.length)
    ∧ ∀ (s : State) (p : IndexByte), s.failAfter = some (s.calls.length + 1) → ∀ row ∈ pushes p,
        let v := s.getR16 row.data
        exec row.instr s
          = failsIn (((s.setSp (s.sp - 1#16)).write (s.sp - 1#16) (hi v)).setSp (s.sp - 2#16))

/-- No step stops but for a failing port, an endless chain that begins with an index byte, and a
mode-0 acceptance of a byte that is no RST: CORE has no trap of its own (R238, R800, R801, R812).
The three names are the model's (log entries 9, 10 and 11). -/
def Obligations.NothingElseStopsAStep : Prop :=
  ∀ s : State,
    (∀ f, step s = .fault f →
      ((∃ c, f = .portFailure c) ∧ s.failAfter ≠ none)
        ∨ (f = .endlessIndexChain ∧ runsInstruction s
            ∧ (s.peek s.pc = 0xDD#8 ∨ s.peek s.pc = 0xFD#8)))
    ∧ ∀ r, step s = .refused r →
        r = .im0Unsupported ∧ takesInt s ∧ s.im = .im0 ∧ s.intData &&& 0xC7#8 ≠ 0xC7#8

/-- Every step keeps the invariant: canonical memory, `prefix` 0x00, EI-pending only while both
flip-flops are set, and no failing port call on record (R76, R78, R801). -/
def Obligations.StepKeepsInvariant : Prop :=
  ∀ s t : State, s.Inv → step s = .next t → t.Inv

/-- The invariant holds after reset. -/
def Obligations.ResetHasInvariant : Prop := State.reset.Inv

/-- The elements the spec gives a reset value for hold it in the reset state (R88). -/
def Obligations.ResetValues : Prop :=
  State.reset.pc = 0x0000#16 ∧ State.reset.i = 0x00#8 ∧ State.reset.r = 0x00#8
    ∧ State.reset.iff1 = false ∧ State.reset.iff2 = false ∧ State.reset.im = .im0
    ∧ State.reset.halted = false ∧ State.reset.eiPending = false ∧ State.reset.pfx = .none
    ∧ State.reset.nmiPending = false

/-- The reset event: the listed values, a draw for every other element of the register file, and
memory and devices unchanged; no port call (R850). -/
def Obligations.ResetEvent : Prop :=
  ∀ (s : State) (d : ResetDraws), ∃ t, s.hostMove (.reset d) = .next t
    ∧ t.pc = 0x0000#16 ∧ t.i = 0x00#8 ∧ t.r = 0x00#8 ∧ t.iff1 = false ∧ t.iff2 = false
    ∧ t.im = .im0 ∧ t.halted = false ∧ t.eiPending = false ∧ t.pfx = .none
    ∧ t.nmiPending = false
    ∧ t.main = d.main ∧ t.alt = d.alt ∧ t.ix = d.ix ∧ t.iy = d.iy ∧ t.sp = d.sp ∧ t.bus = d.bus
    ∧ t.mem = s.mem ∧ t.inputs = s.inputs ∧ t.outputs = s.outputs
    ∧ t.sideEffects = s.sideEffects ∧ t.calls = s.calls

/-- The width of what the accessor names, in bits. -/
def Sys2Proof.Claims.widthOf : AccName → Nat
  | .r8 _ | .f | .shadow8 _ | .i | .r => 8
  | .r16 _ | .shadow16 _ | .pc => 16
  | .iff1 | .iff2 | .halted => 1
  | .im => 2

/-- A set through the accessor masks to width, and a get reads it back; a set of IM outside 0, 1, 2
is refused (R84, R86). -/
def Obligations.AccessorSetThenGet : Prop :=
  ∀ (s : State) (n : AccName) (v : Nat),
    if n = .im ∧ 2 < v then s.hostMove (.set n v) = .refused .imOutOfRange
    else ∃ t, s.hostMove (.set n v) = .next t ∧ t.accessorGet n = v % 2 ^ widthOf n

/-- Memory: an address the platform declares plain RAM reads as the byte last written there, by CORE
or by the host; any other address, and RAM never written, reads as a draw, a fresh one at each read,
whatever was written; a write is passed on, and leaves every other address alone, but for its side
effects (R165, R170). The form of the address map is the model's (log entries 2 and 3). -/
def Obligations.ReadAfterWrite : Prop :=
  ∀ (s : State) (a b : Word) (v : Byte),
    (s.keeps a → (s.write a v).peek a = v)
      ∧ (b ≠ a → s.undisturbed b → (s.write a v).byteAt b = s.byteAt b)
      ∧ (s.write a v).calls = .memWrite a v :: s.calls
      ∧ (∃ t, s.hostMove (.changeMemory a v) = .next t
          ∧ (s.params.isRam a = true → t.peek a = v) ∧ (b ≠ a → t.peek b = s.peek b))
      ∧ (∀ w, s.byteAt a = some w → s.peek a = w)
      ∧ (s.params.isRam a = false ∨ s.mem.read a.toNat = none → s.peek a = Config.memPort s.draws a)
      ∧ (s.params.isRam a = false →
          (s.write a v).peek a = Config.memPort (s.draws + 1) a
            ∧ (s.noteRead a).peek a = Config.memPort (s.draws + 1) a)
      ∧ (s.mem.wf = true → (s.write a v).mem.wf = true)

/-- A port call's side effects: whatever the call, its collaborator changes as the side effects
scheduled for it say, the next call has the next ones, and every element of CORE but the latch stays
(R162, R826). Later reads see it: the last byte a side effect gives an address of plain RAM is what
a read returns, the last answer it gives a port is what an input returns, in the same step too, as
for the second byte of LD HL,(nn). The schedule is the model's form (log entry 21). -/
def Obligations.PortCallSideEffects : Prop :=
  ∀ (s : State) (es : List SideEffect) (rest : List (List SideEffect)), s.sideEffects = es :: rest →
    (∀ c : PortCall, let t := s.called c
      t.sideEffects = rest ∧ (∀ e, e ≠ .bus → t.look e = s.look e) ∧ t.bus = portByte c
        ∧ t.calls = c :: s.calls
        ∧ (∀ pre a v, es = pre ++ [.memory a v] → s.params.isRam a = true → t.peek a = v)
        ∧ (∀ pre p v, es = pre ++ [.port p v] → t.portValue p = v))
    ∧ (∀ a v p, s.noteRead a = s.called (.memRead a (s.peek a))
        ∧ s.write a v = s.called (.memWrite a v)
        ∧ s.noteIn p = s.called (.portIn p (s.portValue p))
        ∧ s.portOut p v = s.called (.portOut p v))
    ∧ ∀ (nn : Word) (pre : List SideEffect) (v : Byte), s.failAfter = none →
        es = pre ++ [.memory (nn + 1#16) v] → s.params.isRam (nn + 1#16) = true →
        ∃ t, exec (.ld_hl__nn nn) s = .next t ∧ t.main.h = v ∧ t.main.l = s.peek nn

/-- Which instructions write control state: halted, I, R, IM, the flip-flops, EI-pending and the
shadow set each have their own writers, and no instruction writes the pending NMI (R66, R67, R70,
R72, R74, R76, R803). -/
def Obligations.ControlStateWriters : Prop :=
  ∀ (i : Instr) (s t : State), i ∉ dispatchRows → exec i s = .next t →
    t.nmiPending = s.nmiPending ∧ t.pfx = s.pfx
      ∧ (t.halted = s.halted ∨ ∃ p, i = .halt p)
      ∧ (t.i = s.i ∨ i = .ld_i_a)
      ∧ (t.r = s.r ∨ i = .ld_r_a)
      ∧ (t.im = s.im ∨ ∃ op, i = .im_0 op ∨ i = .im_1 op ∨ i = .im_2 op)
      ∧ (t.eiPending = s.eiPending ∨ ∃ p, i = .ei p)
      ∧ (t.iff1 = s.iff1 ∨ (∃ p, i = .di p ∨ i = .ei p) ∨ i = .reti ∨ ∃ op, i = .retn op)
      ∧ (t.iff2 = s.iff2 ∨ ∃ p, i = .di p ∨ i = .ei p)
      ∧ (t.alt = s.alt ∨ ∃ p, i = .ex_af_af p ∨ i = .exx p)

/-- Every instruction executes: none traps, and while no port fails each completes (R260, R800). -/
def Obligations.EveryInstructionCompletes : Prop :=
  ∀ (i : Instr) (s : State), i ∉ dispatchRows → s.failAfter = none →
    ∃ t, exec i s = .next t ∧ t.params = s.params ∧ t.failAfter = none

/-- An ignored index byte: the instruction is one byte longer and takes 4 cycles more, and does the
same (R222). The record of a failing port call is right, as in every step (R801). -/
def Obligations.IgnoredIndexByte : Prop :=
  ∀ (s : State) (n : Byte) (nn : Word), s.Recorded → ∀ f ∈ ignored n nn,
    (encode (f .dd) = 0xDD#8 :: encode (f .none) ∧ exec (f .dd) s = fourLater (exec (f .none) s))
      ∧ (encode (f .fd) = 0xFD#8 :: encode (f .none)
          ∧ exec (f .fd) s = fourLater (exec (f .none) s))

/-- The rows that go on with the dispatch: after CB, ED, DD CB and FD CB the next bytes are fetched
and the entry of that table runs; after DD and FD the entry of the index table runs, unless the next
byte leads on; an index byte that another or ED follows adds 4 cycles and has no other effect (R232
to R236). -/
def Obligations.DispatchRows : Prop :=
  ∀ s : State, s.failAfter = none →
    let b0 := s.byteAfter 0
    let b1 := s.byteAfter 1
    let b2 := s.byteAfter 2
    let cb := entryWith cbTable b0 b1 b2
    let ed := entryWith edTable b0 b1 b2
    let dd := entryWith ddTable b0 b1 b2
    let fd := entryWith fdTable b0 b1 b2
    let after (i j : Instr) (s' : State) : Prop :=
      ∃ u, exec j s' = .next u ∧ exec i s = .next (u.setPfx .none)
    after .prefix_cb cb.2 (State.fetchBytes (cb.1 - 2) s.fetchOpcode)
      ∧ after .prefix_ed ed.2 (State.fetchBytes (ed.1 - 2) (s.setPfx .none).fetchOpcode)
      ∧ (∀ x, after (.prefix_ed__index_prefix_dropped x) ed.2
          (State.fetchBytes (ed.1 - 2) ((s.tick 4).setPfx .none).fetchOpcode))
      ∧ after .prefix_ddcb (entryWith ddcbTable b1 b0 0#8).2
          (s.setPfx .dd).fetchByte.fetchByte
      ∧ after .prefix_fdcb (entryWith fdcbTable b1 b0 0#8).2
          (s.setPfx .fd).fetchByte.fetchByte
      ∧ (leads b0 = false →
          after .prefix_dd dd.2 (State.fetchBytes (dd.1 - 2) (s.setPfx .dd).fetchOpcode)
          ∧ after .prefix_fd fd.2 (State.fetchBytes (fd.1 - 2) (s.setPfx .fd).fetchOpcode)
          ∧ (∀ x, after (.prefix_dd__supersedes x) dd.2
              (State.fetchBytes (dd.1 - 2) ((s.tick 4).setPfx .dd).fetchOpcode))
          ∧ ∀ x, after (.prefix_fd__supersedes x) fd.2
              (State.fetchBytes (fd.1 - 2) ((s.tick 4).setPfx .fd).fetchOpcode))

/-! ## Control flow (41_control_flow.md) -/

/-- JP, JR and their conditional forms, and JP (HLX): PC goes to the target when the condition
holds, and stays past the instruction when it does not; F and all else is unchanged. -/
def Obligations.Jumps : Prop :=
  ∀ (s : State) (p : IndexByte) (e : Byte) (nn : Word), ∀ row ∈ jumps s p e nn, Runs row s fun t =>
    if taken row.data.1 s.main.f then t.pc = row.data.2.1 ∧ Did s t row.cyc [] [.pc] [] []
    else t.pc = s.pc ∧ Did s t row.data.2.2 [] [] [] []

/-- DJNZ: B counts down first, and the branch is taken while B is not 0. -/
def Obligations.DecrementAndJump : Prop :=
  ∀ (s : State) (p : IndexByte) (e : Byte),
    Runs ⟨.djnz_e p e, p.bytes ++ [0x10#8, e], 13 + extra p, ()⟩ s fun t =>
      t.main.b = s.main.b - 1#8
        ∧ if s.main.b = 1#8 then t.pc = s.pc ∧ Did s t (8 + extra p) [] [.r8 .b] [] []
          else t.pc = s.pc + e.signExtend 16 ∧ Did s t (13 + extra p) [] [.r8 .b, .pc] [] []

/-- CALL, CALL cc and RST: when taken, PC is pushed, high byte first, and goes to the target; when
not, nothing is stored and SP stays. -/
def Obligations.Calls : Prop :=
  ∀ (s : State) (p : IndexByte) (nn : Word), s.failAfter = none →
    ∀ row ∈ calls p nn, Runs row s fun t =>
      if taken row.data.1 s.main.f then
        t.pc = row.data.2.1 ∧ t.sp = s.sp - 2#16
          ∧ (s.keeps (s.sp - 1#16) → t.peek (s.sp - 1#16) = hi s.pc)
          ∧ (s.keeps (s.sp - 2#16) → t.peek (s.sp - 2#16) = lo s.pc)
          ∧ Did s t row.cyc
              [.memWrite (s.sp - 2#16) (lo s.pc), .memWrite (s.sp - 1#16) (hi s.pc)]
              [.sp, .pc] [s.sp - 1#16, s.sp - 2#16] []
      else t.pc = s.pc ∧ Did s t row.data.2.2 [] [] [] []

/-- RET and RET cc: when taken, PC is popped, low byte first; when not, nothing is read. -/
def Obligations.Returns : Prop :=
  ∀ (s : State) (p : IndexByte), s.failAfter = none → ∀ row ∈ returns p, Runs row s fun t =>
    if taken row.data.1 s.main.f then
      t.pc = wordAt s s.sp ∧ t.sp = s.sp + 2#16
        ∧ Did s t row.cyc
            (wordReads s s.sp)
            [.sp, .pc] [] []
    else t.pc = s.pc ∧ Did s t row.data.2 [] [] [] []

/-- RETI and RETN, in every encoding: PC is popped and IFF1 takes IFF2. -/
def Obligations.ReturnsFromInterrupt : Prop :=
  ∀ (s : State) (op : Byte), s.failAfter = none →
    ∀ row ∈ ([⟨.reti, [0xED#8, 0x4D#8], 14, ()⟩, ⟨.retn op, [0xED#8, op], 14, ()⟩] :
        List (Row Unit)),
      Runs row s fun t =>
        t.pc = wordAt s s.sp ∧ t.sp = s.sp + 2#16 ∧ t.iff1 = s.iff2
          ∧ Did s t row.cyc
              (wordReads s s.sp)
              [.sp, .pc, .iff1] [] []

/-! ## 8-bit loads (42_load_8bit.md) -/

/-- Register to register, the index halves included. -/
def Obligations.RegisterLoads : Prop :=
  ∀ (s : State) (p : IndexByte), ∀ row ∈ registerLoads p, Runs row s fun t =>
    t.getR8 row.data.1 = s.getR8 row.data.2 ∧ Did s t row.cyc [] [.r8 row.data.1] [] []

/-- An immediate byte to a register or an index half. -/
def Obligations.ImmediateLoads : Prop :=
  ∀ (s : State) (p : IndexByte) (n : Byte), ∀ row ∈ immediateLoads p n, Runs row s fun t =>
    t.getR8 row.data = n ∧ Did s t row.cyc [] [.r8 row.data] [] []

/-- A byte of memory to a register: one read. -/
def Obligations.ByteLoads : Prop :=
  ∀ (s : State) (p : IndexByte) (d : Byte) (nn : Word), s.failAfter = none →
    ∀ row ∈ byteLoads s p d nn, Runs row s fun t =>
      t.getR8 row.data.1 = s.peek row.data.2
        ∧ Did s t row.cyc [.memRead row.data.2 (s.peek row.data.2)] [.r8 row.data.1] [] []

/-- A register or an immediate byte to memory: one write, and every other byte stays. -/
def Obligations.ByteStores : Prop :=
  ∀ (s : State) (p : IndexByte) (d n : Byte) (nn : Word), s.failAfter = none →
    ∀ row ∈ byteStores s p d n nn, Runs row s fun t =>
      (s.keeps row.data.1 → t.peek row.data.1 = row.data.2)
        ∧ Did s t row.cyc [.memWrite row.data.1 row.data.2] [] [row.data.1] []

/-- LD A,I and LD A,R: P/V reports IFF2, C stays. LD I,A and LD R,A: all eight bits. -/
def Obligations.SpecialRegisterLoads : Prop :=
  ∀ s : State,
    (∀ row ∈ ([⟨.ld_a_i, [0xED#8, 0x57#8], 9, s.i⟩, ⟨.ld_a_r, [0xED#8, 0x5F#8], 9, s.r⟩] :
        List (Row Byte)), Runs row s fun t =>
      let v := row.data
      t.main.a = v
        ∧ t.main.f = flags (v.getLsbD 7) (v == 0#8) (v.getLsbD 5) false (v.getLsbD 3) s.iff2 false
            (s.main.f.getLsbD 0)
        ∧ Did s t row.cyc [] [.r8 .a, .f] [] [])
    ∧ Runs ⟨.ld_i_a, [0xED#8, 0x47#8], 9, ()⟩ s (fun t =>
        t.i = s.main.a ∧ Did s t 9 [] [.i] [] [])
    ∧ Runs ⟨.ld_r_a, [0xED#8, 0x4F#8], 9, ()⟩ s fun t =>
        t.r = s.main.a ∧ Did s t 9 [] [.r] [] []

/-! ## 16-bit loads, stack and exchanges (43_load_16bit_exchange.md) -/

/-- An immediate word to a pair, and HLX to SP. -/
def Obligations.PairLoads : Prop :=
  ∀ (s : State) (p : IndexByte) (nn : Word), ∀ row ∈ pairLoads s p nn, Runs row s fun t =>
    t.getR16 row.data.1 = row.data.2 ∧ Did s t row.cyc [] (halves row.data.1) [] []

/-- A word of memory to a pair: two reads, low byte first, the second address wrapping. -/
def Obligations.WordLoads : Prop :=
  ∀ (s : State) (nn : Word), s.failAfter = none → ∀ row ∈ wordLoads nn, Runs row s fun t =>
    t.getR16 row.data = wordAt s nn
      ∧ Did s t row.cyc (wordReads s nn) (halves row.data) [] []

/-- A pair to memory: two writes, low byte first, the second address wrapping. -/
def Obligations.WordStores : Prop :=
  ∀ (s : State) (nn : Word), s.failAfter = none →
    ∀ row ∈ wordStores nn, Runs row s fun t =>
      (s.keeps nn → t.peek nn = lo (s.getR16 row.data))
        ∧ (s.keeps (nn + 1#16) → t.peek (nn + 1#16) = hi (s.getR16 row.data))
        ∧ Did s t row.cyc
            [.memWrite (nn + 1#16) (hi (s.getR16 row.data)),
             .memWrite nn (lo (s.getR16 row.data))] [] [nn, nn + 1#16] []

/-- PUSH: high byte at SP - 1, low byte at SP - 2, in that order. -/
def Obligations.Pushes : Prop :=
  ∀ (s : State) (p : IndexByte), s.failAfter = none →
    ∀ row ∈ pushes p, Runs row s fun t =>
      let v := s.getR16 row.data
      t.sp = s.sp - 2#16
        ∧ (s.keeps (s.sp - 1#16) → t.peek (s.sp - 1#16) = hi v)
        ∧ (s.keeps (s.sp - 2#16) → t.peek (s.sp - 2#16) = lo v)
        ∧ Did s t row.cyc [.memWrite (s.sp - 2#16) (lo v), .memWrite (s.sp - 1#16) (hi v)]
            [.sp] [s.sp - 1#16, s.sp - 2#16] []

/-- POP: low byte first; POP AF writes all of F. -/
def Obligations.Pops : Prop :=
  ∀ (s : State) (p : IndexByte), s.failAfter = none → ∀ row ∈ pops p, Runs row s fun t =>
    t.getR16 row.data = wordAt s s.sp ∧ t.sp = s.sp + 2#16
      ∧ Did s t row.cyc
          (wordReads s s.sp)
          (.sp :: halves row.data) [] []

/-- EX DE,HL, EX AF,AF' and EXX swap whole registers and touch nothing else. -/
def Obligations.RegisterExchanges : Prop :=
  ∀ (s : State) (p : IndexByte),
    Runs ⟨.ex_de_hl p, p.bytes ++ [0xEB#8], 4 + extra p, ()⟩ s (fun t =>
      t.getR16 .de = s.getR16 .hl ∧ t.getR16 .hl = s.getR16 .de
        ∧ Did s t (4 + extra p) [] [.r8 .d, .r8 .e, .r8 .h, .r8 .l] [] [])
    ∧ Runs ⟨.ex_af_af p, p.bytes ++ [0x08#8], 4 + extra p, ()⟩ s (fun t =>
        t.getR16 .af = s.getShadow16 .af ∧ t.getShadow16 .af = s.getR16 .af
          ∧ Did s t (4 + extra p) [] [.r8 .a, .f, .shadow .a, .shadow .f] [] [])
    ∧ Runs ⟨.exx p, p.bytes ++ [0xD9#8], 4 + extra p, ()⟩ s fun t =>
        t.getR16 .bc = s.getShadow16 .bc ∧ t.getShadow16 .bc = s.getR16 .bc
          ∧ t.getR16 .de = s.getShadow16 .de ∧ t.getShadow16 .de = s.getR16 .de
          ∧ t.getR16 .hl = s.getShadow16 .hl ∧ t.getShadow16 .hl = s.getR16 .hl
          ∧ Did s t (4 + extra p) []
              [.r8 .b, .r8 .c, .r8 .d, .r8 .e, .r8 .h, .r8 .l, .shadow .b, .shadow .c, .shadow .d,
               .shadow .e, .shadow .h, .shadow .l] [] []

/-- EX (SP),HLX: two reads and two writes in the spec's order; SP stays. -/
def Obligations.StackExchanges : Prop :=
  ∀ s : State, s.failAfter = none → ∀ row ∈ stackExchanges, Runs row s fun t =>
    let v := s.getR16 row.data
    t.getR16 row.data = wordAt s s.sp
      ∧ (s.keeps s.sp → t.peek s.sp = lo v)
      ∧ (s.keeps (s.sp + 1#16) → t.peek (s.sp + 1#16) = hi v)
      ∧ Did s t row.cyc
          ([.memWrite s.sp (lo v), .memWrite (s.sp + 1#16) (hi v)] ++ wordReads s s.sp)
          (halves row.data) [s.sp, s.sp + 1#16] []

/-! ## Block transfer and search (44_block_transfer_search.md) -/

/-- LDI, LDD, LDIR and LDDR: one byte moved, both pointers moved, BC counted down, the transfer
flags; a repeating form goes back by 2 while BC is not 0. -/
def Obligations.BlockTransfers : Prop :=
  ∀ s : State, s.failAfter = none → ∀ row ∈ blockTransfers, Runs row s fun t =>
    let val := s.peek (s.getR16 .hl)
    let bc := s.getR16 .bc - 1#16
    let k := s.main.a + val
    let again := row.data.2 && bc != 0#16
    (s.keeps (s.getR16 .de) → t.peek (s.getR16 .de) = val)
      ∧ t.getR16 .hl = moved row.data.1 (s.getR16 .hl)
      ∧ t.getR16 .de = moved row.data.1 (s.getR16 .de)
      ∧ t.getR16 .bc = bc
      ∧ t.main.f = flags (s.main.f.getLsbD 7) (s.main.f.getLsbD 6) (k.getLsbD 1) false (k.getLsbD 3)
          (bc != 0#16) false (s.main.f.getLsbD 0)
      ∧ t.pc = (if again then s.pc - 2#16 else s.pc)
      ∧ Did s t (if again then 21 else 16)
          [.memWrite (s.getR16 .de) val, .memRead (s.getR16 .hl) val]
          [.r8 .b, .r8 .c, .r8 .d, .r8 .e, .r8 .h, .r8 .l, .f, .pc] [s.getR16 .de] []

/-- CPI, CPD, CPIR and CPDR: A is compared and kept, HL moved, BC counted down, the search flags; a
repeating form goes back by 2 while BC is not 0 and the byte is not A. -/
def Obligations.BlockSearches : Prop :=
  ∀ s : State, s.failAfter = none → ∀ row ∈ blockSearches, Runs row s fun t =>
    let val := s.peek (s.getR16 .hl)
    let bc := s.getR16 .bc - 1#16
    let res := s.main.a - val
    let h := decide (s.main.a.toNat % 16 < val.toNat % 16)
    let k := res - (BitVec.ofBool h).setWidth 8
    let again := row.data.2 && bc != 0#16 && res != 0#8
    t.getR16 .hl = moved row.data.1 (s.getR16 .hl)
      ∧ t.getR16 .bc = bc
      ∧ t.main.f = flags (res.getLsbD 7) (res == 0#8) (k.getLsbD 1) h (k.getLsbD 3) (bc != 0#16) true
          (s.main.f.getLsbD 0)
      ∧ t.pc = (if again then s.pc - 2#16 else s.pc)
      ∧ Did s t (if again then 21 else 16) [.memRead (s.getR16 .hl) val]
          [.r8 .b, .r8 .c, .r8 .h, .r8 .l, .f, .pc] [] []

/-! ## Input and output (45_io.md) -/

/-- IN A,(n) keeps F; IN r,(C) and IN F,(C) set it from the byte. What the device answers is the
state's answer for that port, or a free value. -/
def Obligations.Inputs : Prop :=
  ∀ s : State, s.failAfter = none →
    (∀ (p : IndexByte) (n : Byte),
      Runs ⟨.in_a__n p n, p.bytes ++ [0xDB#8, n], 11 + extra p, ()⟩ s fun t =>
        t.main.a = s.portValue n
          ∧ Did s t (11 + extra p) [.portIn n (s.portValue n)] [.r8 .a] [] [])
    ∧ ∀ row ∈ registerInputs, Runs row s fun t =>
        let val := s.portValue s.main.c
        (∀ r, row.data = some r → t.getR8 r = val)
          ∧ t.main.f = flags (val.getLsbD 7) (val == 0#8) (val.getLsbD 5) false (val.getLsbD 3)
              (even val) false (s.main.f.getLsbD 0)
          ∧ Did s t row.cyc [.portIn s.main.c val]
              (match row.data with
                | some r => [.r8 r, .f]
                | none => [.f]) [] []

/-- OUT (n),A, OUT (C),r and OUT (C),0: one byte to one port, and nothing else. -/
def Obligations.Outputs : Prop :=
  ∀ (s : State) (p : IndexByte) (n : Byte), s.failAfter = none →
    ∀ row ∈ outputs s p n, Runs row s fun t =>
      Did s t row.cyc [.portOut row.data.1 row.data.2] [] [] [row.data]

/-- The block I/O instructions: one byte, B counted down, HL moved, the block I/O flags; a repeating
form goes back by 2 while B is not 0. For output, L is taken after the move of HL. -/
def Obligations.BlockInputsAndOutputs : Prop :=
  ∀ s : State, s.failAfter = none →
    let b := s.main.b - 1#8
    let blockFlags (val : Byte) (k : Nat) : Byte :=
      flags (b.getLsbD 7) (b == 0#8) (b.getLsbD 5) (decide (255 < k)) (b.getLsbD 3)
        (even (BitVec.ofNat 8 (k % 8) ^^^ b)) (val.getLsbD 7) (decide (255 < k))
    (∀ row ∈ blockInputs, Runs row s fun t =>
      let val := s.portValue s.main.c
      let again := row.data.2 && b != 0#8
      (s.keeps (s.getR16 .hl) → t.peek (s.getR16 .hl) = val)
        ∧ t.getR16 .hl = moved row.data.1 (s.getR16 .hl) ∧ t.main.b = b
        ∧ t.main.f = blockFlags val
            (val.toNat + (if row.data.1 then s.main.c + 1#8 else s.main.c - 1#8).toNat)
        ∧ t.pc = (if again then s.pc - 2#16 else s.pc)
        ∧ Did s t (if again then 21 else 16)
            [.memWrite (s.getR16 .hl) val, .portIn s.main.c val]
            [.r8 .b, .r8 .h, .r8 .l, .f, .pc] [s.getR16 .hl] [])
    ∧ ∀ row ∈ blockOutputs, Runs row s fun t =>
        let val := s.peek (s.getR16 .hl)
        let again := row.data.2 && b != 0#8
        t.getR16 .hl = moved row.data.1 (s.getR16 .hl) ∧ t.main.b = b
          ∧ t.main.f = blockFlags val (val.toNat + (lo (moved row.data.1 (s.getR16 .hl))).toNat)
          ∧ t.pc = (if again then s.pc - 2#16 else s.pc)
          ∧ Did s t (if again then 21 else 16)
              [.portOut s.main.c val, .memRead (s.getR16 .hl) val]
              [.r8 .b, .r8 .h, .r8 .l, .f, .pc] [] [(s.main.c, val)]

/-! ## CPU control (46_cpu_control.md) -/

/-- NOP and the ED no-operations (R601, R608), HALT (R602, whose mechanics are the spec's decision
D11), DI (R603), EI (R604) and IM 0, 1, 2 (R605 to R607) in every encoding. The halted steps after
HALT are in `HaltedStep`, the step after EI in `EnableTakesEffectOneStepLater`. -/
def Obligations.CpuControl : Prop :=
  ∀ (s : State) (p : IndexByte) (op : Byte),
    Runs ⟨.nop p, p.bytes ++ [0x00#8], 4 + extra p, ()⟩ s (fun t => Did s t (4 + extra p) [] [] [] [])
    ∧ Runs ⟨.nop__ed op, [0xED#8, op], 8, ()⟩ s (fun t => Did s t 8 [] [] [] [])
    ∧ Runs ⟨.halt p, p.bytes ++ [0x76#8], 4 + extra p, ()⟩ s (fun t =>
        t.halted = true ∧ Did s t (4 + extra p) [] [.halted] [] [])
    ∧ Runs ⟨.di p, p.bytes ++ [0xF3#8], 4 + extra p, ()⟩ s (fun t =>
        t.iff1 = false ∧ t.iff2 = false ∧ Did s t (4 + extra p) [] [.iff1, .iff2] [] [])
    ∧ Runs ⟨.ei p, p.bytes ++ [0xFB#8], 4 + extra p, ()⟩ s (fun t =>
        t.iff1 = true ∧ t.iff2 = true ∧ t.eiPending = true
          ∧ Did s t (4 + extra p) [] [.iff1, .iff2, .eiPending] [] [])
    ∧ ∀ row ∈ ([⟨.im_0 op, [0xED#8, op], 8, .im0⟩, ⟨.im_1 op, [0xED#8, op], 8, .im1⟩,
          ⟨.im_2 op, [0xED#8, op], 8, .im2⟩] : List (Row IntMode)),
        Runs row s fun t => t.im = row.data ∧ Did s t 8 [] [.im] [] []

/-! ## 8-bit arithmetic and logic (47_alu_8bit.md) -/

/-- ADD, ADC, SUB, SBC, AND, XOR, OR and CP in every operand form: A and every bit of F. -/
def Obligations.AccumulatorOperations : Prop :=
  ∀ (s : State) (p : IndexByte) (d n : Byte), s.failAfter = none →
    ∀ row ∈ accumulators s p d n, Runs row s fun t =>
      t.main.a = (accumulator row.data.1 s.main.a row.data.2.1 s.main.f).1
        ∧ t.main.f = (accumulator row.data.1 s.main.a row.data.2.1 s.main.f).2
        ∧ Did s t row.cyc row.data.2.2
            (if row.data.1 = .cp then [.f] else [.r8 .a, .f]) [] []

/-- INC and DEC of registers, index halves and bytes of memory: the result and every bit of F; C
stays. -/
def Obligations.ByteIncrementsAndDecrements : Prop :=
  ∀ (s : State) (p : IndexByte) (d : Byte), s.failAfter = none →
    ∀ row ∈ byteCounts s p d, Runs row s fun t =>
      let place := row.data.2
      let r := counted row.data.1 (place.value s) s.main.f
      place.has s t r.1 ∧ t.main.f = r.2
        ∧ Did s t row.cyc (place.made s r.1) (.f :: place.written) place.stored []

/-- DAA, CPL, NEG in every encoding, CCF and SCF: A and every bit of F. -/
def Obligations.AccumulatorAdjustments : Prop :=
  ∀ (s : State) (p : IndexByte) (op : Byte),
    let a := s.main.a
    let f := s.main.f
    let xy := match s.params.scfCcfXY with
      | .aOrF => a ||| f
      | .other => Config.scfCcfXY a f
    Runs ⟨.daa p, p.bytes ++ [0x27#8], 4 + extra p, ()⟩ s (fun t =>
      let six := f.getLsbD 4 || decide (9 < a.toNat % 16)
      let sixty := f.getLsbD 0 || decide (0x99 < a.toNat)
      let diff := BitVec.ofNat 8 ((if six then 6 else 0) + (if sixty then 0x60 else 0))
      let r := if f.getLsbD 1 then a - diff else a + diff
      let h := if f.getLsbD 1 then f.getLsbD 4 && decide (a.toNat % 16 < 6)
        else decide (9 < a.toNat % 16)
      t.main.a = r
        ∧ t.main.f = flags (r.getLsbD 7) (r == 0#8) (r.getLsbD 5) h (r.getLsbD 3) (even r)
            (f.getLsbD 1) sixty
        ∧ Did s t (4 + extra p) [] [.r8 .a, .f] [] [])
    ∧ Runs ⟨.cpl p, p.bytes ++ [0x2F#8], 4 + extra p, ()⟩ s (fun t =>
        t.main.a = ~~~a
          ∧ t.main.f = flags (f.getLsbD 7) (f.getLsbD 6) (!a.getLsbD 5) true (!a.getLsbD 3)
              (f.getLsbD 2) true (f.getLsbD 0)
          ∧ Did s t (4 + extra p) [] [.r8 .a, .f] [] [])
    ∧ Runs ⟨.neg op, [0xED#8, op], 8, ()⟩ s (fun t =>
        t.main.a = (difference8 0#8 a 0).1 ∧ t.main.f = (difference8 0#8 a 0).2
          ∧ Did s t 8 [] [.r8 .a, .f] [] [])
    ∧ Runs ⟨.ccf p, p.bytes ++ [0x3F#8], 4 + extra p, ()⟩ s (fun t =>
        t.main.f = flags (f.getLsbD 7) (f.getLsbD 6) (xy.getLsbD 5) (f.getLsbD 0) (xy.getLsbD 3)
            (f.getLsbD 2) false (!f.getLsbD 0)
          ∧ Did s t (4 + extra p) [] [.f] [] [])
    ∧ Runs ⟨.scf p, p.bytes ++ [0x37#8], 4 + extra p, ()⟩ s fun t =>
        t.main.f = flags (f.getLsbD 7) (f.getLsbD 6) (xy.getLsbD 5) false (xy.getLsbD 3)
            (f.getLsbD 2) false true
          ∧ Did s t (4 + extra p) [] [.f] [] []

/-! ## 16-bit arithmetic (48_alu_16bit.md) -/

/-- ADD HL,rp and ADD XR,rp: S, Z and P/V stay; H is the carry out of bit 11 and C out of bit 15. -/
def Obligations.PairAdditions : Prop :=
  ∀ s : State, ∀ row ∈ pairSums, Runs row s fun t =>
    let a := s.getR16 row.data.1
    let b := s.getR16 row.data.2
    let r := a + b
    t.getR16 row.data.1 = r
      ∧ t.main.f = flags (s.main.f.getLsbD 7) (s.main.f.getLsbD 6) (r.getLsbD 13)
          (decide (4095 < a.toNat % 4096 + b.toNat % 4096)) (r.getLsbD 11) (s.main.f.getLsbD 2)
          false (decide (65535 < a.toNat + b.toNat))
      ∧ Did s t row.cyc [] (.f :: halves row.data.1) [] []

/-- ADC HL,rp and SBC HL,rp: every bit of F from the 16-bit result. -/
def Obligations.PairAdditionsWithCarry : Prop :=
  ∀ s : State, ∀ row ∈ carrySums, Runs row s fun t =>
    let a := s.getR16 .hl
    let b := s.getR16 row.data.2
    let c := carryIn s.main.f
    let r := if row.data.1 then a - b - BitVec.ofNat 16 c else a + b + BitVec.ofNat 16 c
    t.getR16 .hl = r
      ∧ t.main.f = (if row.data.1 then
          flags (r.getLsbD 15) (r == 0#16) (r.getLsbD 13)
            (decide (a.toNat % 4096 < b.toNat % 4096 + c)) (r.getLsbD 11)
            (noWord (a.toInt - b.toInt - c)) true (decide (a.toNat < b.toNat + c))
        else
          flags (r.getLsbD 15) (r == 0#16) (r.getLsbD 13)
            (decide (4095 < a.toNat % 4096 + b.toNat % 4096 + c)) (r.getLsbD 11)
            (noWord (a.toInt + b.toInt + c)) false (decide (65535 < a.toNat + b.toNat + c)))
      ∧ Did s t row.cyc [] [.r8 .h, .r8 .l, .f] [] []

/-- INC and DEC of a pair: no flag. -/
def Obligations.PairIncrementsAndDecrements : Prop :=
  ∀ (s : State) (p : IndexByte), ∀ row ∈ pairCounts p, Runs row s fun t =>
    t.getR16 row.data.2 = moved row.data.1 (s.getR16 row.data.2)
      ∧ Did s t row.cyc [] (halves row.data.2) [] []

/-! ## Rotates, shifts and bits (49_rotate_shift_bit.md) -/

/-- RLCA, RRCA, RLA and RRA: S, Z and P/V stay. -/
def Obligations.AccumulatorRotates : Prop :=
  ∀ (s : State) (p : IndexByte), ∀ row ∈ accumulatorRotates p, Runs row s fun t =>
    let r := rotated row.data s.main.a (s.main.f.getLsbD 0)
    t.main.a = r.1
      ∧ t.main.f = flags (s.main.f.getLsbD 7) (s.main.f.getLsbD 6) (r.1.getLsbD 5) false
          (r.1.getLsbD 3) (s.main.f.getLsbD 2) false r.2
      ∧ Did s t row.cyc [] [.r8 .a, .f] [] []

/-- The eight rotates and shifts in every operand form, the register copies included. -/
def Obligations.RotatesAndShifts : Prop :=
  ∀ (s : State) (d : Byte), s.failAfter = none →
    ∀ row ∈ rotates s d, Runs row s fun t =>
      let place := row.data.2
      let r := rotated row.data.1 (place.value s) (s.main.f.getLsbD 0)
      place.has s t r.1
        ∧ t.main.f = flags (r.1.getLsbD 7) (r.1 == 0#8) (r.1.getLsbD 5) false (r.1.getLsbD 3)
            (even r.1) false r.2
        ∧ Did s t row.cyc (place.made s r.1) (.f :: place.written) place.stored []

/-- RLD and RRD: a digit of A and the two digits of the byte at HL move round; the high digit of A
and C stay. -/
def Obligations.DigitRotates : Prop :=
  ∀ s : State, s.failAfter = none →
    ∀ row ∈ ([⟨.rld, [0xED#8, 0x6F#8], 18, true⟩, ⟨.rrd, [0xED#8, 0x67#8], 18, false⟩] :
        List (Row Bool)), Runs row s fun t =>
      let hl := s.getR16 .hl
      let m := s.peek hl
      let digit (v : Byte) (k : Nat) : BitVec 4 := v.extractLsb' (4 * k) 4
      let m' : Byte := if row.data then digit m 0 ++ digit s.main.a 0
        else digit s.main.a 0 ++ digit m 1
      let a' : Byte := digit s.main.a 1 ++ (if row.data then digit m 1 else digit m 0)
      (s.keeps hl → t.peek hl = m') ∧ t.main.a = a'
        ∧ t.main.f = flags (a'.getLsbD 7) (a' == 0#8) (a'.getLsbD 5) false (a'.getLsbD 3) (even a')
            false (s.main.f.getLsbD 0)
        ∧ Did s t row.cyc [.memWrite hl m', .memRead hl m] [.r8 .a, .f] [hl] []

/-- BIT in every form: Z and P/V are the complement of the bit, S is it for bit 7; X5 and X3 come
from the register, from the high byte of the indexed address, or, for BIT b,(HL), from a free value
(the spec's draw; log entry 5). -/
def Obligations.BitTests : Prop :=
  ∀ (s : State) (z : BitVec 3) (d : Byte), s.failAfter = none →
    ∀ row ∈ bitTests s z d, Runs row s fun t =>
      let bit := row.data.2.1.getLsbD row.data.1
      let x := row.data.2.2.1
      t.main.f = flags (decide (row.data.1 = 7) && bit) (!bit) (x.getLsbD 5) true (x.getLsbD 3) (!bit)
          false (s.main.f.getLsbD 0)
        ∧ Did s t row.cyc row.data.2.2.2 [.f] [] []

/-- RES and SET in every operand form, the register copies included: one bit, and no flag. A memory
form writes back even when the bit was right already. -/
def Obligations.BitResetsAndSets : Prop :=
  ∀ (s : State) (d : Byte), s.failAfter = none →
    ∀ row ∈ bitChanges s d, Runs row s fun t =>
      let place := row.data.2.2
      let r := withBit row.data.1 row.data.2.1 (place.value s)
      place.has s t r ∧ Did s t row.cyc (place.made s r) place.written place.stored []
end

