-- ==== Sys2Proof/Laws/Memory.lean ====
section
/-! SUPPORT. The laws of memory: a read after a write (R165), the canonical form kept by every
operation, and what side effects leave alone (R826). -/

namespace Sys2Proof.Machine

/-- A read after a write: the value written there, the old value everywhere else (R165). -/
theorem Memory.read_write (m : Memory) (a b : Nat) (v : Byte) :
    Memory.read (Memory.write m a v) b = if b = a then some v else Memory.read m b := by
  induction m with
  | nil => by_cases h : b = a <;> simp [Memory.write, Memory.read, h]
  | cons c m ih =>
    obtain ⟨k, w⟩ := c
    rw [Memory.write]
    split_ifs with h1 h2 <;> simp only [Memory.read, ih] <;> split_ifs <;> first | rfl | omega

theorem Memory.wf_cons {b : Nat} {w : Byte} {m : Memory} :
    Memory.wf ((b, w) :: m) = true ↔
      b < 0x10000 ∧ m.all (fun c => decide (b < c.1)) = true ∧ Memory.wf m = true := by
  simp only [Memory.wf, Bool.and_eq_true, decide_eq_true_eq, and_assoc]

theorem Memory.all_write {P : Host.Cell → Bool} {a : Nat} {v : Byte} {m : Memory}
    (hm : m.all P = true) (ha : P (a, v) = true) : (Memory.write m a v).all P = true := by
  induction m with
  | nil => simp [Memory.write, ha]
  | cons c m ih =>
    obtain ⟨k, w⟩ := c
    have hm' := hm
    rw [List.all_cons, Bool.and_eq_true] at hm'
    rw [Memory.write]
    split_ifs
    · rw [List.all_cons, ha, hm]; rfl
    · rw [List.all_cons, ha, hm'.2]; rfl
    · rw [List.all_cons, hm'.1, ih hm'.2]; rfl

/-- A write below 0x10000 keeps the canonical form. -/
theorem Memory.wf_write {m : Memory} (h : m.wf = true) {a : Nat} (ha : a < 0x10000) (v : Byte) :
    (Memory.write m a v).wf = true := by
  induction m with
  | nil => exact Memory.wf_cons.mpr ⟨ha, rfl, rfl⟩
  | cons c m ih =>
    obtain ⟨k, w⟩ := c
    obtain ⟨hk, hall, hm⟩ := Memory.wf_cons.mp h
    rw [Memory.write]
    split_ifs with h1 h2
    · refine Memory.wf_cons.mpr ⟨ha, ?_, h⟩
      simp only [List.all_cons, Bool.and_eq_true, decide_eq_true_eq, List.all_eq_true] at hall ⊢
      exact ⟨h1, fun c hc => lt_trans h1 (hall c hc)⟩
    · subst h2; exact Memory.wf_cons.mpr ⟨ha, hall, hm⟩
    · refine Memory.wf_cons.mpr ⟨hk, Memory.all_write hall ?_, ih hm⟩
      simp only [decide_eq_true_eq]; omega

/-- Side effects keep the canonical form. -/
theorem Memory.wf_after {m : Memory} (h : m.wf = true) (es : List SideEffect) :
    (m.after es).wf = true := by
  induction es generalizing m with
  | nil => exact h
  | cons e es ih =>
    cases e with
    | memory a v => exact ih (Memory.wf_write h a.isLt v)
    | port p v => exact ih h

/-- A port call keeps the canonical form. -/
theorem Memory.wf_stored {m : Memory} (h : m.wf = true) (c : PortCall) : (m.stored c).wf = true := by
  cases c with
  | memWrite a v => exact Memory.wf_write h a.isLt v
  | _ => exact h

/-- Side effects that do not name an address leave it alone. -/
theorem Memory.read_after {es : List SideEffect} {a : Word} (h : ∀ v, .memory a v ∉ es) (m : Memory) :
    (m.after es).read a.toNat = m.read a.toNat := by
  induction es generalizing m with
  | nil => rfl
  | cons e es ih =>
    have h' : ∀ v, .memory a v ∉ es := fun v hv => h v (List.mem_cons_of_mem _ hv)
    cases e with
    | memory b v =>
      have hb : a.toNat ≠ b.toNat := fun hn =>
        h v (BitVec.eq_of_toNat_eq hn ▸ List.mem_cons_self)
      exact (ih h' _).trans ((Memory.read_write ..).trans (if_neg hb))
    | port p v => exact ih h' m

/-- Side effects that do not name a port leave its answer alone. -/
theorem lookup_answersAfter {es : List SideEffect} {p : Byte} (h : ∀ v, .port p v ∉ es)
    (l : List (Byte × Byte)) : (answersAfter l es).lookup p = l.lookup p := by
  induction es generalizing l with
  | nil => rfl
  | cons e es ih =>
    have h' : ∀ v, .port p v ∉ es := fun v hv => h v (List.mem_cons_of_mem _ hv)
    cases e with
    | memory b v => exact ih h' l
    | port q v =>
      have hq : (p == q) = false := by
        rw [beq_eq_false_iff_ne]
        rintro rfl
        exact h v List.mem_cons_self
      exact (ih h' _).trans (by rw [List.lookup_cons, hq])

/-- Memory after reset is canonical. -/
theorem State.reset_mem_wf : State.reset.mem.wf = true := rfl

end Sys2Proof.Machine
end

