-- ==== Sys2Proof/Laws/State.lean ====
section
/-! SUPPORT. One lemma for each field under each update of the state, so that no later proof unfolds
a record update. -/

namespace Sys2Proof.Machine

variable (s : State)

/-! ### Memory and ports as they are read -/

/-- What a read returns depends on memory, the address map and the counter of free values. -/
theorem State.peek_congr {s t : State} (h : t.mem = s.mem) (hp : t.params = s.params)
    (hd : t.draws = s.draws) (a : Word) : t.peek a = s.peek a := by
  unfold State.peek State.byteAt; rw [h, hp, hd]

/-- What plain RAM holds depends on memory and the address map. -/
theorem State.byteAt_congr {s t : State} (h : t.mem = s.mem) (hp : t.params = s.params) (a : Word) :
    t.byteAt a = s.byteAt a := by
  unfold State.byteAt; rw [h, hp]

/-- What a port answers depends on the answers listed and the counter of free values. -/
theorem State.portValue_congr {s t : State} (h : t.inputs = s.inputs) (hd : t.draws = s.draws)
    (p : Byte) : t.portValue p = s.portValue p := by
  unfold State.portValue; rw [h, hd]

/-! ### setR8 -/

@[simp] theorem State.setR8_alt (r8 : R8) (v : Byte) :
    (s.setR8 r8 v).alt = s.alt := by cases r8 <;> rfl
@[simp] theorem State.setR8_sp (r8 : R8) (v : Byte) :
    (s.setR8 r8 v).sp = s.sp := by cases r8 <;> rfl
@[simp] theorem State.setR8_pc (r8 : R8) (v : Byte) :
    (s.setR8 r8 v).pc = s.pc := by cases r8 <;> rfl
@[simp] theorem State.setR8_i (r8 : R8) (v : Byte) : (s.setR8 r8 v).i = s.i := by cases r8 <;> rfl
@[simp] theorem State.setR8_r (r8 : R8) (v : Byte) : (s.setR8 r8 v).r = s.r := by cases r8 <;> rfl
@[simp] theorem State.setR8_iff1 (r8 : R8) (v : Byte) :
    (s.setR8 r8 v).iff1 = s.iff1 := by cases r8 <;> rfl
@[simp] theorem State.setR8_iff2 (r8 : R8) (v : Byte) :
    (s.setR8 r8 v).iff2 = s.iff2 := by cases r8 <;> rfl
@[simp] theorem State.setR8_im (r8 : R8) (v : Byte) :
    (s.setR8 r8 v).im = s.im := by cases r8 <;> rfl
@[simp] theorem State.setR8_halted (r8 : R8) (v : Byte) :
    (s.setR8 r8 v).halted = s.halted := by cases r8 <;> rfl
@[simp] theorem State.setR8_eiPending (r8 : R8) (v : Byte) :
    (s.setR8 r8 v).eiPending = s.eiPending := by cases r8 <;> rfl
@[simp] theorem State.setR8_pfx (r8 : R8) (v : Byte) :
    (s.setR8 r8 v).pfx = s.pfx := by cases r8 <;> rfl
@[simp] theorem State.setR8_bus (r8 : R8) (v : Byte) :
    (s.setR8 r8 v).bus = s.bus := by cases r8 <;> rfl
@[simp] theorem State.setR8_nmiPending (r8 : R8) (v : Byte) :
    (s.setR8 r8 v).nmiPending = s.nmiPending := by cases r8 <;> rfl
@[simp] theorem State.setR8_mem (r8 : R8) (v : Byte) :
    (s.setR8 r8 v).mem = s.mem := by cases r8 <;> rfl
@[simp] theorem State.setR8_inputs (r8 : R8) (v : Byte) :
    (s.setR8 r8 v).inputs = s.inputs := by cases r8 <;> rfl
@[simp] theorem State.setR8_outputs (r8 : R8) (v : Byte) :
    (s.setR8 r8 v).outputs = s.outputs := by cases r8 <;> rfl
@[simp] theorem State.setR8_sideEffects (r8 : R8) (v : Byte) :
    (s.setR8 r8 v).sideEffects = s.sideEffects := by cases r8 <;> rfl
@[simp] theorem State.setR8_intLine (r8 : R8) (v : Byte) :
    (s.setR8 r8 v).intLine = s.intLine := by cases r8 <;> rfl
@[simp] theorem State.setR8_intData (r8 : R8) (v : Byte) :
    (s.setR8 r8 v).intData = s.intData := by cases r8 <;> rfl
@[simp] theorem State.setR8_failAfter (r8 : R8) (v : Byte) :
    (s.setR8 r8 v).failAfter = s.failAfter := by cases r8 <;> rfl
@[simp] theorem State.setR8_params (r8 : R8) (v : Byte) :
    (s.setR8 r8 v).params = s.params := by cases r8 <;> rfl
@[simp] theorem State.setR8_cycles (r8 : R8) (v : Byte) :
    (s.setR8 r8 v).cycles = s.cycles := by cases r8 <;> rfl
@[simp] theorem State.setR8_calls (r8 : R8) (v : Byte) :
    (s.setR8 r8 v).calls = s.calls := by cases r8 <;> rfl
@[simp] theorem State.setR8_draws (r8 : R8) (v : Byte) :
    (s.setR8 r8 v).draws = s.draws := by cases r8 <;> rfl
@[simp] theorem State.setR8_atFailure (r8 : R8) (v : Byte) :
    (s.setR8 r8 v).atFailure = s.atFailure := by cases r8 <;> rfl
@[simp] theorem State.setR8_peek (r8 : R8) (v : Byte) (x : Word) :
    (s.setR8 r8 v).peek x = s.peek x := State.peek_congr (State.setR8_mem ..) (State.setR8_params ..) (State.setR8_draws ..) _
@[simp] theorem State.setR8_portValue (r8 : R8) (v : Byte) (x : Byte) :
    (s.setR8 r8 v).portValue x = s.portValue x := State.portValue_congr (State.setR8_inputs ..) (State.setR8_draws ..) _

/-! ### setF -/

@[simp] theorem State.setF_alt (v : Byte) : (s.setF v).alt = s.alt := rfl
@[simp] theorem State.setF_ix (v : Byte) : (s.setF v).ix = s.ix := rfl
@[simp] theorem State.setF_iy (v : Byte) : (s.setF v).iy = s.iy := rfl
@[simp] theorem State.setF_sp (v : Byte) : (s.setF v).sp = s.sp := rfl
@[simp] theorem State.setF_pc (v : Byte) : (s.setF v).pc = s.pc := rfl
@[simp] theorem State.setF_i (v : Byte) : (s.setF v).i = s.i := rfl
@[simp] theorem State.setF_r (v : Byte) : (s.setF v).r = s.r := rfl
@[simp] theorem State.setF_iff1 (v : Byte) : (s.setF v).iff1 = s.iff1 := rfl
@[simp] theorem State.setF_iff2 (v : Byte) : (s.setF v).iff2 = s.iff2 := rfl
@[simp] theorem State.setF_im (v : Byte) : (s.setF v).im = s.im := rfl
@[simp] theorem State.setF_halted (v : Byte) : (s.setF v).halted = s.halted := rfl
@[simp] theorem State.setF_eiPending (v : Byte) : (s.setF v).eiPending = s.eiPending := rfl
@[simp] theorem State.setF_pfx (v : Byte) : (s.setF v).pfx = s.pfx := rfl
@[simp] theorem State.setF_bus (v : Byte) : (s.setF v).bus = s.bus := rfl
@[simp] theorem State.setF_nmiPending (v : Byte) : (s.setF v).nmiPending = s.nmiPending := rfl
@[simp] theorem State.setF_mem (v : Byte) : (s.setF v).mem = s.mem := rfl
@[simp] theorem State.setF_inputs (v : Byte) : (s.setF v).inputs = s.inputs := rfl
@[simp] theorem State.setF_outputs (v : Byte) : (s.setF v).outputs = s.outputs := rfl
@[simp] theorem State.setF_sideEffects (v : Byte) : (s.setF v).sideEffects = s.sideEffects := rfl
@[simp] theorem State.setF_intLine (v : Byte) : (s.setF v).intLine = s.intLine := rfl
@[simp] theorem State.setF_intData (v : Byte) : (s.setF v).intData = s.intData := rfl
@[simp] theorem State.setF_failAfter (v : Byte) : (s.setF v).failAfter = s.failAfter := rfl
@[simp] theorem State.setF_params (v : Byte) : (s.setF v).params = s.params := rfl
@[simp] theorem State.setF_cycles (v : Byte) : (s.setF v).cycles = s.cycles := rfl
@[simp] theorem State.setF_calls (v : Byte) : (s.setF v).calls = s.calls := rfl
@[simp] theorem State.setF_draws (v : Byte) : (s.setF v).draws = s.draws := rfl
@[simp] theorem State.setF_atFailure (v : Byte) : (s.setF v).atFailure = s.atFailure := rfl
@[simp] theorem State.setF_peek (v : Byte) (x : Word) : (s.setF v).peek x = s.peek x := rfl
@[simp] theorem State.setF_portValue (v : Byte) (x : Byte) :
    (s.setF v).portValue x = s.portValue x := rfl
@[simp] theorem State.setF_main (v : Byte) : (s.setF v).main = { s.main with f := v } := rfl

/-! ### setR16 -/

@[simp] theorem State.setR16_alt (r16 : R16) (v : Word) :
    (s.setR16 r16 v).alt = s.alt := by cases r16 <;> rfl
@[simp] theorem State.setR16_pc (r16 : R16) (v : Word) :
    (s.setR16 r16 v).pc = s.pc := by cases r16 <;> rfl
@[simp] theorem State.setR16_i (r16 : R16) (v : Word) :
    (s.setR16 r16 v).i = s.i := by cases r16 <;> rfl
@[simp] theorem State.setR16_r (r16 : R16) (v : Word) :
    (s.setR16 r16 v).r = s.r := by cases r16 <;> rfl
@[simp] theorem State.setR16_iff1 (r16 : R16) (v : Word) :
    (s.setR16 r16 v).iff1 = s.iff1 := by cases r16 <;> rfl
@[simp] theorem State.setR16_iff2 (r16 : R16) (v : Word) :
    (s.setR16 r16 v).iff2 = s.iff2 := by cases r16 <;> rfl
@[simp] theorem State.setR16_im (r16 : R16) (v : Word) :
    (s.setR16 r16 v).im = s.im := by cases r16 <;> rfl
@[simp] theorem State.setR16_halted (r16 : R16) (v : Word) :
    (s.setR16 r16 v).halted = s.halted := by cases r16 <;> rfl
@[simp] theorem State.setR16_eiPending (r16 : R16) (v : Word) :
    (s.setR16 r16 v).eiPending = s.eiPending := by cases r16 <;> rfl
@[simp] theorem State.setR16_pfx (r16 : R16) (v : Word) :
    (s.setR16 r16 v).pfx = s.pfx := by cases r16 <;> rfl
@[simp] theorem State.setR16_bus (r16 : R16) (v : Word) :
    (s.setR16 r16 v).bus = s.bus := by cases r16 <;> rfl
@[simp] theorem State.setR16_nmiPending (r16 : R16) (v : Word) :
    (s.setR16 r16 v).nmiPending = s.nmiPending := by cases r16 <;> rfl
@[simp] theorem State.setR16_mem (r16 : R16) (v : Word) :
    (s.setR16 r16 v).mem = s.mem := by cases r16 <;> rfl
@[simp] theorem State.setR16_inputs (r16 : R16) (v : Word) :
    (s.setR16 r16 v).inputs = s.inputs := by cases r16 <;> rfl
@[simp] theorem State.setR16_outputs (r16 : R16) (v : Word) :
    (s.setR16 r16 v).outputs = s.outputs := by cases r16 <;> rfl
@[simp] theorem State.setR16_sideEffects (r16 : R16) (v : Word) :
    (s.setR16 r16 v).sideEffects = s.sideEffects := by cases r16 <;> rfl
@[simp] theorem State.setR16_intLine (r16 : R16) (v : Word) :
    (s.setR16 r16 v).intLine = s.intLine := by cases r16 <;> rfl
@[simp] theorem State.setR16_intData (r16 : R16) (v : Word) :
    (s.setR16 r16 v).intData = s.intData := by cases r16 <;> rfl
@[simp] theorem State.setR16_failAfter (r16 : R16) (v : Word) :
    (s.setR16 r16 v).failAfter = s.failAfter := by cases r16 <;> rfl
@[simp] theorem State.setR16_params (r16 : R16) (v : Word) :
    (s.setR16 r16 v).params = s.params := by cases r16 <;> rfl
@[simp] theorem State.setR16_cycles (r16 : R16) (v : Word) :
    (s.setR16 r16 v).cycles = s.cycles := by cases r16 <;> rfl
@[simp] theorem State.setR16_calls (r16 : R16) (v : Word) :
    (s.setR16 r16 v).calls = s.calls := by cases r16 <;> rfl
@[simp] theorem State.setR16_draws (r16 : R16) (v : Word) :
    (s.setR16 r16 v).draws = s.draws := by cases r16 <;> rfl
@[simp] theorem State.setR16_atFailure (r16 : R16) (v : Word) :
    (s.setR16 r16 v).atFailure = s.atFailure := by cases r16 <;> rfl
@[simp] theorem State.setR16_peek (r16 : R16) (v : Word) (x : Word) :
    (s.setR16 r16 v).peek x = s.peek x := State.peek_congr (State.setR16_mem ..) (State.setR16_params ..) (State.setR16_draws ..) _
@[simp] theorem State.setR16_portValue (r16 : R16) (v : Word) (x : Byte) :
    (s.setR16 r16 v).portValue x = s.portValue x := State.portValue_congr (State.setR16_inputs ..) (State.setR16_draws ..) _

/-! ### setPc -/

@[simp] theorem State.setPc_main (v : Word) : (s.setPc v).main = s.main := rfl
@[simp] theorem State.setPc_alt (v : Word) : (s.setPc v).alt = s.alt := rfl
@[simp] theorem State.setPc_ix (v : Word) : (s.setPc v).ix = s.ix := rfl
@[simp] theorem State.setPc_iy (v : Word) : (s.setPc v).iy = s.iy := rfl
@[simp] theorem State.setPc_sp (v : Word) : (s.setPc v).sp = s.sp := rfl
@[simp] theorem State.setPc_i (v : Word) : (s.setPc v).i = s.i := rfl
@[simp] theorem State.setPc_r (v : Word) : (s.setPc v).r = s.r := rfl
@[simp] theorem State.setPc_iff1 (v : Word) : (s.setPc v).iff1 = s.iff1 := rfl
@[simp] theorem State.setPc_iff2 (v : Word) : (s.setPc v).iff2 = s.iff2 := rfl
@[simp] theorem State.setPc_im (v : Word) : (s.setPc v).im = s.im := rfl
@[simp] theorem State.setPc_halted (v : Word) : (s.setPc v).halted = s.halted := rfl
@[simp] theorem State.setPc_eiPending (v : Word) : (s.setPc v).eiPending = s.eiPending := rfl
@[simp] theorem State.setPc_pfx (v : Word) : (s.setPc v).pfx = s.pfx := rfl
@[simp] theorem State.setPc_bus (v : Word) : (s.setPc v).bus = s.bus := rfl
@[simp] theorem State.setPc_nmiPending (v : Word) : (s.setPc v).nmiPending = s.nmiPending := rfl
@[simp] theorem State.setPc_mem (v : Word) : (s.setPc v).mem = s.mem := rfl
@[simp] theorem State.setPc_inputs (v : Word) : (s.setPc v).inputs = s.inputs := rfl
@[simp] theorem State.setPc_outputs (v : Word) : (s.setPc v).outputs = s.outputs := rfl
@[simp] theorem State.setPc_sideEffects (v : Word) : (s.setPc v).sideEffects = s.sideEffects := rfl
@[simp] theorem State.setPc_intLine (v : Word) : (s.setPc v).intLine = s.intLine := rfl
@[simp] theorem State.setPc_intData (v : Word) : (s.setPc v).intData = s.intData := rfl
@[simp] theorem State.setPc_failAfter (v : Word) : (s.setPc v).failAfter = s.failAfter := rfl
@[simp] theorem State.setPc_params (v : Word) : (s.setPc v).params = s.params := rfl
@[simp] theorem State.setPc_cycles (v : Word) : (s.setPc v).cycles = s.cycles := rfl
@[simp] theorem State.setPc_calls (v : Word) : (s.setPc v).calls = s.calls := rfl
@[simp] theorem State.setPc_draws (v : Word) : (s.setPc v).draws = s.draws := rfl
@[simp] theorem State.setPc_atFailure (v : Word) : (s.setPc v).atFailure = s.atFailure := rfl
@[simp] theorem State.setPc_peek (v : Word) (x : Word) : (s.setPc v).peek x = s.peek x := rfl
@[simp] theorem State.setPc_portValue (v : Word) (x : Byte) :
    (s.setPc v).portValue x = s.portValue x := rfl
@[simp] theorem State.setPc_pc (v : Word) : (s.setPc v).pc = v := rfl

/-! ### tick -/

@[simp] theorem State.tick_main (n : Nat) : (s.tick n).main = s.main := rfl
@[simp] theorem State.tick_alt (n : Nat) : (s.tick n).alt = s.alt := rfl
@[simp] theorem State.tick_ix (n : Nat) : (s.tick n).ix = s.ix := rfl
@[simp] theorem State.tick_iy (n : Nat) : (s.tick n).iy = s.iy := rfl
@[simp] theorem State.tick_sp (n : Nat) : (s.tick n).sp = s.sp := rfl
@[simp] theorem State.tick_pc (n : Nat) : (s.tick n).pc = s.pc := rfl
@[simp] theorem State.tick_i (n : Nat) : (s.tick n).i = s.i := rfl
@[simp] theorem State.tick_r (n : Nat) : (s.tick n).r = s.r := rfl
@[simp] theorem State.tick_iff1 (n : Nat) : (s.tick n).iff1 = s.iff1 := rfl
@[simp] theorem State.tick_iff2 (n : Nat) : (s.tick n).iff2 = s.iff2 := rfl
@[simp] theorem State.tick_im (n : Nat) : (s.tick n).im = s.im := rfl
@[simp] theorem State.tick_halted (n : Nat) : (s.tick n).halted = s.halted := rfl
@[simp] theorem State.tick_eiPending (n : Nat) : (s.tick n).eiPending = s.eiPending := rfl
@[simp] theorem State.tick_pfx (n : Nat) : (s.tick n).pfx = s.pfx := rfl
@[simp] theorem State.tick_bus (n : Nat) : (s.tick n).bus = s.bus := rfl
@[simp] theorem State.tick_nmiPending (n : Nat) : (s.tick n).nmiPending = s.nmiPending := rfl
@[simp] theorem State.tick_mem (n : Nat) : (s.tick n).mem = s.mem := rfl
@[simp] theorem State.tick_inputs (n : Nat) : (s.tick n).inputs = s.inputs := rfl
@[simp] theorem State.tick_outputs (n : Nat) : (s.tick n).outputs = s.outputs := rfl
@[simp] theorem State.tick_sideEffects (n : Nat) : (s.tick n).sideEffects = s.sideEffects := rfl
@[simp] theorem State.tick_intLine (n : Nat) : (s.tick n).intLine = s.intLine := rfl
@[simp] theorem State.tick_intData (n : Nat) : (s.tick n).intData = s.intData := rfl
@[simp] theorem State.tick_failAfter (n : Nat) : (s.tick n).failAfter = s.failAfter := rfl
@[simp] theorem State.tick_params (n : Nat) : (s.tick n).params = s.params := rfl
@[simp] theorem State.tick_calls (n : Nat) : (s.tick n).calls = s.calls := rfl
@[simp] theorem State.tick_draws (n : Nat) : (s.tick n).draws = s.draws := rfl
@[simp] theorem State.tick_atFailure (n : Nat) : (s.tick n).atFailure = s.atFailure := rfl
@[simp] theorem State.tick_peek (n : Nat) (x : Word) : (s.tick n).peek x = s.peek x := rfl
@[simp] theorem State.tick_portValue (n : Nat) (x : Byte) :
    (s.tick n).portValue x = s.portValue x := rfl
@[simp] theorem State.tick_cycles (n : Nat) :
    (s.tick n).cycles = s.cycles + BitVec.ofNat 32 n := rfl

/-! ### incR -/

@[simp] theorem State.incR_main : (s.incR).main = s.main := rfl
@[simp] theorem State.incR_alt : (s.incR).alt = s.alt := rfl
@[simp] theorem State.incR_ix : (s.incR).ix = s.ix := rfl
@[simp] theorem State.incR_iy : (s.incR).iy = s.iy := rfl
@[simp] theorem State.incR_sp : (s.incR).sp = s.sp := rfl
@[simp] theorem State.incR_pc : (s.incR).pc = s.pc := rfl
@[simp] theorem State.incR_i : (s.incR).i = s.i := rfl
@[simp] theorem State.incR_iff1 : (s.incR).iff1 = s.iff1 := rfl
@[simp] theorem State.incR_iff2 : (s.incR).iff2 = s.iff2 := rfl
@[simp] theorem State.incR_im : (s.incR).im = s.im := rfl
@[simp] theorem State.incR_halted : (s.incR).halted = s.halted := rfl
@[simp] theorem State.incR_eiPending : (s.incR).eiPending = s.eiPending := rfl
@[simp] theorem State.incR_pfx : (s.incR).pfx = s.pfx := rfl
@[simp] theorem State.incR_bus : (s.incR).bus = s.bus := rfl
@[simp] theorem State.incR_nmiPending : (s.incR).nmiPending = s.nmiPending := rfl
@[simp] theorem State.incR_mem : (s.incR).mem = s.mem := rfl
@[simp] theorem State.incR_inputs : (s.incR).inputs = s.inputs := rfl
@[simp] theorem State.incR_outputs : (s.incR).outputs = s.outputs := rfl
@[simp] theorem State.incR_sideEffects : (s.incR).sideEffects = s.sideEffects := rfl
@[simp] theorem State.incR_intLine : (s.incR).intLine = s.intLine := rfl
@[simp] theorem State.incR_intData : (s.incR).intData = s.intData := rfl
@[simp] theorem State.incR_failAfter : (s.incR).failAfter = s.failAfter := rfl
@[simp] theorem State.incR_params : (s.incR).params = s.params := rfl
@[simp] theorem State.incR_cycles : (s.incR).cycles = s.cycles := rfl
@[simp] theorem State.incR_calls : (s.incR).calls = s.calls := rfl
@[simp] theorem State.incR_draws : (s.incR).draws = s.draws := rfl
@[simp] theorem State.incR_atFailure : (s.incR).atFailure = s.atFailure := rfl
@[simp] theorem State.incR_peek (x : Word) : (s.incR).peek x = s.peek x := rfl
@[simp] theorem State.incR_portValue (x : Byte) : (s.incR).portValue x = s.portValue x := rfl
@[simp] theorem State.incR_r : (s.incR).r = refresh s.r := rfl

/-! ### drawn -/

@[simp] theorem State.drawn_main : (s.drawn).main = s.main := rfl
@[simp] theorem State.drawn_alt : (s.drawn).alt = s.alt := rfl
@[simp] theorem State.drawn_ix : (s.drawn).ix = s.ix := rfl
@[simp] theorem State.drawn_iy : (s.drawn).iy = s.iy := rfl
@[simp] theorem State.drawn_sp : (s.drawn).sp = s.sp := rfl
@[simp] theorem State.drawn_pc : (s.drawn).pc = s.pc := rfl
@[simp] theorem State.drawn_i : (s.drawn).i = s.i := rfl
@[simp] theorem State.drawn_r : (s.drawn).r = s.r := rfl
@[simp] theorem State.drawn_iff1 : (s.drawn).iff1 = s.iff1 := rfl
@[simp] theorem State.drawn_iff2 : (s.drawn).iff2 = s.iff2 := rfl
@[simp] theorem State.drawn_im : (s.drawn).im = s.im := rfl
@[simp] theorem State.drawn_halted : (s.drawn).halted = s.halted := rfl
@[simp] theorem State.drawn_eiPending : (s.drawn).eiPending = s.eiPending := rfl
@[simp] theorem State.drawn_pfx : (s.drawn).pfx = s.pfx := rfl
@[simp] theorem State.drawn_bus : (s.drawn).bus = s.bus := rfl
@[simp] theorem State.drawn_nmiPending : (s.drawn).nmiPending = s.nmiPending := rfl
@[simp] theorem State.drawn_mem : (s.drawn).mem = s.mem := rfl
@[simp] theorem State.drawn_inputs : (s.drawn).inputs = s.inputs := rfl
@[simp] theorem State.drawn_outputs : (s.drawn).outputs = s.outputs := rfl
@[simp] theorem State.drawn_sideEffects : (s.drawn).sideEffects = s.sideEffects := rfl
@[simp] theorem State.drawn_intLine : (s.drawn).intLine = s.intLine := rfl
@[simp] theorem State.drawn_intData : (s.drawn).intData = s.intData := rfl
@[simp] theorem State.drawn_failAfter : (s.drawn).failAfter = s.failAfter := rfl
@[simp] theorem State.drawn_params : (s.drawn).params = s.params := rfl
@[simp] theorem State.drawn_cycles : (s.drawn).cycles = s.cycles := rfl
@[simp] theorem State.drawn_calls : (s.drawn).calls = s.calls := rfl
@[simp] theorem State.drawn_atFailure : (s.drawn).atFailure = s.atFailure := rfl
@[simp] theorem State.drawn_draws : (s.drawn).draws = s.draws + 1 := rfl

/-! ### setPfx -/

@[simp] theorem State.setPfx_main (x : IndexByte) : (s.setPfx x).main = s.main := rfl
@[simp] theorem State.setPfx_alt (x : IndexByte) : (s.setPfx x).alt = s.alt := rfl
@[simp] theorem State.setPfx_ix (x : IndexByte) : (s.setPfx x).ix = s.ix := rfl
@[simp] theorem State.setPfx_iy (x : IndexByte) : (s.setPfx x).iy = s.iy := rfl
@[simp] theorem State.setPfx_sp (x : IndexByte) : (s.setPfx x).sp = s.sp := rfl
@[simp] theorem State.setPfx_pc (x : IndexByte) : (s.setPfx x).pc = s.pc := rfl
@[simp] theorem State.setPfx_i (x : IndexByte) : (s.setPfx x).i = s.i := rfl
@[simp] theorem State.setPfx_r (x : IndexByte) : (s.setPfx x).r = s.r := rfl
@[simp] theorem State.setPfx_iff1 (x : IndexByte) : (s.setPfx x).iff1 = s.iff1 := rfl
@[simp] theorem State.setPfx_iff2 (x : IndexByte) : (s.setPfx x).iff2 = s.iff2 := rfl
@[simp] theorem State.setPfx_im (x : IndexByte) : (s.setPfx x).im = s.im := rfl
@[simp] theorem State.setPfx_halted (x : IndexByte) : (s.setPfx x).halted = s.halted := rfl
@[simp] theorem State.setPfx_eiPending (x : IndexByte) : (s.setPfx x).eiPending = s.eiPending := rfl
@[simp] theorem State.setPfx_bus (x : IndexByte) : (s.setPfx x).bus = s.bus := rfl
@[simp] theorem State.setPfx_nmiPending (x : IndexByte) :
    (s.setPfx x).nmiPending = s.nmiPending := rfl
@[simp] theorem State.setPfx_mem (x : IndexByte) : (s.setPfx x).mem = s.mem := rfl
@[simp] theorem State.setPfx_inputs (x : IndexByte) : (s.setPfx x).inputs = s.inputs := rfl
@[simp] theorem State.setPfx_outputs (x : IndexByte) : (s.setPfx x).outputs = s.outputs := rfl
@[simp] theorem State.setPfx_sideEffects (x : IndexByte) :
    (s.setPfx x).sideEffects = s.sideEffects := rfl
@[simp] theorem State.setPfx_intLine (x : IndexByte) : (s.setPfx x).intLine = s.intLine := rfl
@[simp] theorem State.setPfx_intData (x : IndexByte) : (s.setPfx x).intData = s.intData := rfl
@[simp] theorem State.setPfx_failAfter (x : IndexByte) : (s.setPfx x).failAfter = s.failAfter := rfl
@[simp] theorem State.setPfx_params (x : IndexByte) : (s.setPfx x).params = s.params := rfl
@[simp] theorem State.setPfx_cycles (x : IndexByte) : (s.setPfx x).cycles = s.cycles := rfl
@[simp] theorem State.setPfx_calls (x : IndexByte) : (s.setPfx x).calls = s.calls := rfl
@[simp] theorem State.setPfx_draws (x : IndexByte) : (s.setPfx x).draws = s.draws := rfl
@[simp] theorem State.setPfx_atFailure (x : IndexByte) : (s.setPfx x).atFailure = s.atFailure := rfl
@[simp] theorem State.setPfx_peek (x : IndexByte) (a : Word) : (s.setPfx x).peek a = s.peek a := rfl
@[simp] theorem State.setPfx_portValue (x : IndexByte) (p : Byte) :
    (s.setPfx x).portValue p = s.portValue p := rfl
@[simp] theorem State.setPfx_pfx (x : IndexByte) : (s.setPfx x).pfx = x := rfl

/-! ### setSp -/

@[simp] theorem State.setSp_main (v : Word) : (s.setSp v).main = s.main := rfl
@[simp] theorem State.setSp_alt (v : Word) : (s.setSp v).alt = s.alt := rfl
@[simp] theorem State.setSp_ix (v : Word) : (s.setSp v).ix = s.ix := rfl
@[simp] theorem State.setSp_iy (v : Word) : (s.setSp v).iy = s.iy := rfl
@[simp] theorem State.setSp_pc (v : Word) : (s.setSp v).pc = s.pc := rfl
@[simp] theorem State.setSp_i (v : Word) : (s.setSp v).i = s.i := rfl
@[simp] theorem State.setSp_r (v : Word) : (s.setSp v).r = s.r := rfl
@[simp] theorem State.setSp_iff1 (v : Word) : (s.setSp v).iff1 = s.iff1 := rfl
@[simp] theorem State.setSp_iff2 (v : Word) : (s.setSp v).iff2 = s.iff2 := rfl
@[simp] theorem State.setSp_im (v : Word) : (s.setSp v).im = s.im := rfl
@[simp] theorem State.setSp_halted (v : Word) : (s.setSp v).halted = s.halted := rfl
@[simp] theorem State.setSp_eiPending (v : Word) : (s.setSp v).eiPending = s.eiPending := rfl
@[simp] theorem State.setSp_pfx (v : Word) : (s.setSp v).pfx = s.pfx := rfl
@[simp] theorem State.setSp_bus (v : Word) : (s.setSp v).bus = s.bus := rfl
@[simp] theorem State.setSp_nmiPending (v : Word) : (s.setSp v).nmiPending = s.nmiPending := rfl
@[simp] theorem State.setSp_mem (v : Word) : (s.setSp v).mem = s.mem := rfl
@[simp] theorem State.setSp_inputs (v : Word) : (s.setSp v).inputs = s.inputs := rfl
@[simp] theorem State.setSp_outputs (v : Word) : (s.setSp v).outputs = s.outputs := rfl
@[simp] theorem State.setSp_sideEffects (v : Word) : (s.setSp v).sideEffects = s.sideEffects := rfl
@[simp] theorem State.setSp_intLine (v : Word) : (s.setSp v).intLine = s.intLine := rfl
@[simp] theorem State.setSp_intData (v : Word) : (s.setSp v).intData = s.intData := rfl
@[simp] theorem State.setSp_failAfter (v : Word) : (s.setSp v).failAfter = s.failAfter := rfl
@[simp] theorem State.setSp_params (v : Word) : (s.setSp v).params = s.params := rfl
@[simp] theorem State.setSp_cycles (v : Word) : (s.setSp v).cycles = s.cycles := rfl
@[simp] theorem State.setSp_calls (v : Word) : (s.setSp v).calls = s.calls := rfl
@[simp] theorem State.setSp_draws (v : Word) : (s.setSp v).draws = s.draws := rfl
@[simp] theorem State.setSp_atFailure (v : Word) : (s.setSp v).atFailure = s.atFailure := rfl
@[simp] theorem State.setSp_peek (v : Word) (x : Word) : (s.setSp v).peek x = s.peek x := rfl
@[simp] theorem State.setSp_portValue (v : Word) (x : Byte) :
    (s.setSp v).portValue x = s.portValue x := rfl
@[simp] theorem State.setSp_sp (v : Word) : (s.setSp v).sp = v := rfl

/-! ### called -/

@[simp] theorem State.called_main (c : PortCall) : (s.called c).main = s.main := rfl
@[simp] theorem State.called_alt (c : PortCall) : (s.called c).alt = s.alt := rfl
@[simp] theorem State.called_ix (c : PortCall) : (s.called c).ix = s.ix := rfl
@[simp] theorem State.called_iy (c : PortCall) : (s.called c).iy = s.iy := rfl
@[simp] theorem State.called_sp (c : PortCall) : (s.called c).sp = s.sp := rfl
@[simp] theorem State.called_pc (c : PortCall) : (s.called c).pc = s.pc := rfl
@[simp] theorem State.called_i (c : PortCall) : (s.called c).i = s.i := rfl
@[simp] theorem State.called_r (c : PortCall) : (s.called c).r = s.r := rfl
@[simp] theorem State.called_iff1 (c : PortCall) : (s.called c).iff1 = s.iff1 := rfl
@[simp] theorem State.called_iff2 (c : PortCall) : (s.called c).iff2 = s.iff2 := rfl
@[simp] theorem State.called_im (c : PortCall) : (s.called c).im = s.im := rfl
@[simp] theorem State.called_halted (c : PortCall) : (s.called c).halted = s.halted := rfl
@[simp] theorem State.called_eiPending (c : PortCall) : (s.called c).eiPending = s.eiPending := rfl
@[simp] theorem State.called_pfx (c : PortCall) : (s.called c).pfx = s.pfx := rfl
@[simp] theorem State.called_nmiPending (c : PortCall) :
    (s.called c).nmiPending = s.nmiPending := rfl
@[simp] theorem State.called_intLine (c : PortCall) : (s.called c).intLine = s.intLine := rfl
@[simp] theorem State.called_intData (c : PortCall) : (s.called c).intData = s.intData := rfl
@[simp] theorem State.called_failAfter (c : PortCall) : (s.called c).failAfter = s.failAfter := rfl
@[simp] theorem State.called_params (c : PortCall) : (s.called c).params = s.params := rfl
@[simp] theorem State.called_cycles (c : PortCall) : (s.called c).cycles = s.cycles := rfl
@[simp] theorem State.called_bus (c : PortCall) : (s.called c).bus = portByte c := rfl
@[simp] theorem State.called_calls (c : PortCall) : (s.called c).calls = c :: s.calls := rfl
@[simp] theorem State.called_mem (c : PortCall) :
    (s.called c).mem = (s.mem.stored c).after s.effects := rfl
@[simp] theorem State.called_outputs (c : PortCall) :
    (s.called c).outputs = sentBy s.outputs c := rfl
@[simp] theorem State.called_inputs (c : PortCall) :
    (s.called c).inputs = answersAfter s.inputs s.effects := rfl
@[simp] theorem State.called_sideEffects (c : PortCall) :
    (s.called c).sideEffects = s.sideEffects.drop 1 := rfl
@[simp] theorem State.called_draws (c : PortCall) : (s.called c).draws = s.draws + 1 := rfl

/-! ### noteRead -/

@[simp] theorem State.noteRead_main (a : Word) : (s.noteRead a).main = s.main := rfl
@[simp] theorem State.noteRead_alt (a : Word) : (s.noteRead a).alt = s.alt := rfl
@[simp] theorem State.noteRead_ix (a : Word) : (s.noteRead a).ix = s.ix := rfl
@[simp] theorem State.noteRead_iy (a : Word) : (s.noteRead a).iy = s.iy := rfl
@[simp] theorem State.noteRead_sp (a : Word) : (s.noteRead a).sp = s.sp := rfl
@[simp] theorem State.noteRead_pc (a : Word) : (s.noteRead a).pc = s.pc := rfl
@[simp] theorem State.noteRead_i (a : Word) : (s.noteRead a).i = s.i := rfl
@[simp] theorem State.noteRead_r (a : Word) : (s.noteRead a).r = s.r := rfl
@[simp] theorem State.noteRead_iff1 (a : Word) : (s.noteRead a).iff1 = s.iff1 := rfl
@[simp] theorem State.noteRead_iff2 (a : Word) : (s.noteRead a).iff2 = s.iff2 := rfl
@[simp] theorem State.noteRead_im (a : Word) : (s.noteRead a).im = s.im := rfl
@[simp] theorem State.noteRead_halted (a : Word) : (s.noteRead a).halted = s.halted := rfl
@[simp] theorem State.noteRead_eiPending (a : Word) : (s.noteRead a).eiPending = s.eiPending := rfl
@[simp] theorem State.noteRead_pfx (a : Word) : (s.noteRead a).pfx = s.pfx := rfl
@[simp] theorem State.noteRead_nmiPending (a : Word) :
    (s.noteRead a).nmiPending = s.nmiPending := rfl
@[simp] theorem State.noteRead_outputs (a : Word) : (s.noteRead a).outputs = s.outputs := rfl
@[simp] theorem State.noteRead_intLine (a : Word) : (s.noteRead a).intLine = s.intLine := rfl
@[simp] theorem State.noteRead_intData (a : Word) : (s.noteRead a).intData = s.intData := rfl
@[simp] theorem State.noteRead_failAfter (a : Word) : (s.noteRead a).failAfter = s.failAfter := rfl
@[simp] theorem State.noteRead_params (a : Word) : (s.noteRead a).params = s.params := rfl
@[simp] theorem State.noteRead_cycles (a : Word) : (s.noteRead a).cycles = s.cycles := rfl
@[simp] theorem State.noteRead_inputs (a : Word) :
    (s.noteRead a).inputs = answersAfter s.inputs s.effects := rfl
@[simp] theorem State.noteRead_bus (a : Word) : (s.noteRead a).bus = s.peek a := rfl
@[simp] theorem State.noteRead_calls (a : Word) :
    (s.noteRead a).calls = .memRead a (s.peek a) :: s.calls := rfl
@[simp] theorem State.noteRead_mem (a : Word) : (s.noteRead a).mem = s.mem.after s.effects := rfl
@[simp] theorem State.noteRead_draws (a : Word) : (s.noteRead a).draws = s.draws + 1 := rfl
@[simp] theorem State.noteRead_sideEffects (a : Word) :
    (s.noteRead a).sideEffects = s.sideEffects.drop 1 := rfl

/-! ### write -/

@[simp] theorem State.write_main (a : Word) (v : Byte) : (s.write a v).main = s.main := rfl
@[simp] theorem State.write_alt (a : Word) (v : Byte) : (s.write a v).alt = s.alt := rfl
@[simp] theorem State.write_ix (a : Word) (v : Byte) : (s.write a v).ix = s.ix := rfl
@[simp] theorem State.write_iy (a : Word) (v : Byte) : (s.write a v).iy = s.iy := rfl
@[simp] theorem State.write_sp (a : Word) (v : Byte) : (s.write a v).sp = s.sp := rfl
@[simp] theorem State.write_pc (a : Word) (v : Byte) : (s.write a v).pc = s.pc := rfl
@[simp] theorem State.write_i (a : Word) (v : Byte) : (s.write a v).i = s.i := rfl
@[simp] theorem State.write_r (a : Word) (v : Byte) : (s.write a v).r = s.r := rfl
@[simp] theorem State.write_iff1 (a : Word) (v : Byte) : (s.write a v).iff1 = s.iff1 := rfl
@[simp] theorem State.write_iff2 (a : Word) (v : Byte) : (s.write a v).iff2 = s.iff2 := rfl
@[simp] theorem State.write_im (a : Word) (v : Byte) : (s.write a v).im = s.im := rfl
@[simp] theorem State.write_halted (a : Word) (v : Byte) : (s.write a v).halted = s.halted := rfl
@[simp] theorem State.write_eiPending (a : Word) (v : Byte) :
    (s.write a v).eiPending = s.eiPending := rfl
@[simp] theorem State.write_pfx (a : Word) (v : Byte) : (s.write a v).pfx = s.pfx := rfl
@[simp] theorem State.write_nmiPending (a : Word) (v : Byte) :
    (s.write a v).nmiPending = s.nmiPending := rfl
@[simp] theorem State.write_outputs (a : Word) (v : Byte) : (s.write a v).outputs = s.outputs := rfl
@[simp] theorem State.write_intLine (a : Word) (v : Byte) : (s.write a v).intLine = s.intLine := rfl
@[simp] theorem State.write_intData (a : Word) (v : Byte) : (s.write a v).intData = s.intData := rfl
@[simp] theorem State.write_failAfter (a : Word) (v : Byte) :
    (s.write a v).failAfter = s.failAfter := rfl
@[simp] theorem State.write_params (a : Word) (v : Byte) : (s.write a v).params = s.params := rfl
@[simp] theorem State.write_cycles (a : Word) (v : Byte) : (s.write a v).cycles = s.cycles := rfl
@[simp] theorem State.write_draws (a : Word) (v : Byte) : (s.write a v).draws = s.draws + 1 := rfl
@[simp] theorem State.write_inputs (a : Word) (v : Byte) :
    (s.write a v).inputs = answersAfter s.inputs s.effects := rfl
@[simp] theorem State.write_mem (a : Word) (v : Byte) :
    (s.write a v).mem = (s.mem.write a.toNat v).after s.effects := rfl
@[simp] theorem State.write_bus (a : Word) (v : Byte) : (s.write a v).bus = v := rfl
@[simp] theorem State.write_calls (a : Word) (v : Byte) :
    (s.write a v).calls = .memWrite a v :: s.calls := rfl
@[simp] theorem State.write_sideEffects (a : Word) (v : Byte) :
    (s.write a v).sideEffects = s.sideEffects.drop 1 := rfl

/-! ### noteReadWord -/

@[simp] theorem State.noteReadWord_main (a : Word) :
    (s.noteReadWord a).main = s.main := by rw [State.noteReadWord, State.noteRead_main, State.noteRead_main]
@[simp] theorem State.noteReadWord_alt (a : Word) :
    (s.noteReadWord a).alt = s.alt := by rw [State.noteReadWord, State.noteRead_alt, State.noteRead_alt]
@[simp] theorem State.noteReadWord_ix (a : Word) :
    (s.noteReadWord a).ix = s.ix := by rw [State.noteReadWord, State.noteRead_ix, State.noteRead_ix]
@[simp] theorem State.noteReadWord_iy (a : Word) :
    (s.noteReadWord a).iy = s.iy := by rw [State.noteReadWord, State.noteRead_iy, State.noteRead_iy]
@[simp] theorem State.noteReadWord_sp (a : Word) :
    (s.noteReadWord a).sp = s.sp := by rw [State.noteReadWord, State.noteRead_sp, State.noteRead_sp]
@[simp] theorem State.noteReadWord_pc (a : Word) :
    (s.noteReadWord a).pc = s.pc := by rw [State.noteReadWord, State.noteRead_pc, State.noteRead_pc]
@[simp] theorem State.noteReadWord_i (a : Word) :
    (s.noteReadWord a).i = s.i := by rw [State.noteReadWord, State.noteRead_i, State.noteRead_i]
@[simp] theorem State.noteReadWord_r (a : Word) :
    (s.noteReadWord a).r = s.r := by rw [State.noteReadWord, State.noteRead_r, State.noteRead_r]
@[simp] theorem State.noteReadWord_iff1 (a : Word) :
    (s.noteReadWord a).iff1 = s.iff1 := by rw [State.noteReadWord, State.noteRead_iff1, State.noteRead_iff1]
@[simp] theorem State.noteReadWord_iff2 (a : Word) :
    (s.noteReadWord a).iff2 = s.iff2 := by rw [State.noteReadWord, State.noteRead_iff2, State.noteRead_iff2]
@[simp] theorem State.noteReadWord_im (a : Word) :
    (s.noteReadWord a).im = s.im := by rw [State.noteReadWord, State.noteRead_im, State.noteRead_im]
@[simp] theorem State.noteReadWord_halted (a : Word) :
    (s.noteReadWord a).halted = s.halted := by rw [State.noteReadWord, State.noteRead_halted, State.noteRead_halted]
@[simp] theorem State.noteReadWord_eiPending (a : Word) :
    (s.noteReadWord a).eiPending = s.eiPending := by rw [State.noteReadWord, State.noteRead_eiPending, State.noteRead_eiPending]
@[simp] theorem State.noteReadWord_pfx (a : Word) :
    (s.noteReadWord a).pfx = s.pfx := by rw [State.noteReadWord, State.noteRead_pfx, State.noteRead_pfx]
@[simp] theorem State.noteReadWord_nmiPending (a : Word) :
    (s.noteReadWord a).nmiPending = s.nmiPending := by rw [State.noteReadWord, State.noteRead_nmiPending, State.noteRead_nmiPending]
@[simp] theorem State.noteReadWord_outputs (a : Word) :
    (s.noteReadWord a).outputs = s.outputs := by rw [State.noteReadWord, State.noteRead_outputs, State.noteRead_outputs]
@[simp] theorem State.noteReadWord_intLine (a : Word) :
    (s.noteReadWord a).intLine = s.intLine := by rw [State.noteReadWord, State.noteRead_intLine, State.noteRead_intLine]
@[simp] theorem State.noteReadWord_intData (a : Word) :
    (s.noteReadWord a).intData = s.intData := by rw [State.noteReadWord, State.noteRead_intData, State.noteRead_intData]
@[simp] theorem State.noteReadWord_failAfter (a : Word) :
    (s.noteReadWord a).failAfter = s.failAfter := by rw [State.noteReadWord, State.noteRead_failAfter, State.noteRead_failAfter]
@[simp] theorem State.noteReadWord_params (a : Word) :
    (s.noteReadWord a).params = s.params := by rw [State.noteReadWord, State.noteRead_params, State.noteRead_params]
@[simp] theorem State.noteReadWord_cycles (a : Word) :
    (s.noteReadWord a).cycles = s.cycles := by rw [State.noteReadWord, State.noteRead_cycles, State.noteRead_cycles]
@[simp] theorem State.noteReadWord_draws (a : Word) :
    (s.noteReadWord a).draws = s.draws + 2 := by simp [State.noteReadWord]
@[simp] theorem State.noteReadWord_inputs (a : Word) :
    (s.noteReadWord a).inputs
      = answersAfter (answersAfter s.inputs s.effects) ((s.sideEffects.drop 1).headD []) := by simp [State.noteReadWord, State.effects]
@[simp] theorem State.noteReadWord_mem (a : Word) :
    (s.noteReadWord a).mem = (s.mem.after s.effects).after ((s.sideEffects.drop 1).headD []) := by simp [State.noteReadWord, State.effects]
@[simp] theorem State.noteReadWord_bus (a : Word) :
    (s.noteReadWord a).bus = (s.noteRead a).peek (a + 1#16) := by simp [State.noteReadWord]
@[simp] theorem State.noteReadWord_calls (a : Word) :
    (s.noteReadWord a).calls
      = .memRead (a + 1#16) ((s.noteRead a).peek (a + 1#16)) :: .memRead a (s.peek a) :: s.calls := by simp [State.noteReadWord]
@[simp] theorem State.noteReadWord_sideEffects (a : Word) :
    (s.noteReadWord a).sideEffects = s.sideEffects.drop 2 := by simp [State.noteReadWord]

/-! ### writeWord -/

@[simp] theorem State.writeWord_main (a v : Word) :
    (s.writeWord a v).main = s.main := by rw [State.writeWord, State.write_main, State.write_main]
@[simp] theorem State.writeWord_alt (a v : Word) :
    (s.writeWord a v).alt = s.alt := by rw [State.writeWord, State.write_alt, State.write_alt]
@[simp] theorem State.writeWord_ix (a v : Word) :
    (s.writeWord a v).ix = s.ix := by rw [State.writeWord, State.write_ix, State.write_ix]
@[simp] theorem State.writeWord_iy (a v : Word) :
    (s.writeWord a v).iy = s.iy := by rw [State.writeWord, State.write_iy, State.write_iy]
@[simp] theorem State.writeWord_sp (a v : Word) :
    (s.writeWord a v).sp = s.sp := by rw [State.writeWord, State.write_sp, State.write_sp]
@[simp] theorem State.writeWord_pc (a v : Word) :
    (s.writeWord a v).pc = s.pc := by rw [State.writeWord, State.write_pc, State.write_pc]
@[simp] theorem State.writeWord_i (a v : Word) :
    (s.writeWord a v).i = s.i := by rw [State.writeWord, State.write_i, State.write_i]
@[simp] theorem State.writeWord_r (a v : Word) :
    (s.writeWord a v).r = s.r := by rw [State.writeWord, State.write_r, State.write_r]
@[simp] theorem State.writeWord_iff1 (a v : Word) :
    (s.writeWord a v).iff1 = s.iff1 := by rw [State.writeWord, State.write_iff1, State.write_iff1]
@[simp] theorem State.writeWord_iff2 (a v : Word) :
    (s.writeWord a v).iff2 = s.iff2 := by rw [State.writeWord, State.write_iff2, State.write_iff2]
@[simp] theorem State.writeWord_im (a v : Word) :
    (s.writeWord a v).im = s.im := by rw [State.writeWord, State.write_im, State.write_im]
@[simp] theorem State.writeWord_halted (a v : Word) :
    (s.writeWord a v).halted = s.halted := by rw [State.writeWord, State.write_halted, State.write_halted]
@[simp] theorem State.writeWord_eiPending (a v : Word) :
    (s.writeWord a v).eiPending = s.eiPending := by rw [State.writeWord, State.write_eiPending, State.write_eiPending]
@[simp] theorem State.writeWord_pfx (a v : Word) :
    (s.writeWord a v).pfx = s.pfx := by rw [State.writeWord, State.write_pfx, State.write_pfx]
@[simp] theorem State.writeWord_nmiPending (a v : Word) :
    (s.writeWord a v).nmiPending = s.nmiPending := by rw [State.writeWord, State.write_nmiPending, State.write_nmiPending]
@[simp] theorem State.writeWord_outputs (a v : Word) :
    (s.writeWord a v).outputs = s.outputs := by rw [State.writeWord, State.write_outputs, State.write_outputs]
@[simp] theorem State.writeWord_intLine (a v : Word) :
    (s.writeWord a v).intLine = s.intLine := by rw [State.writeWord, State.write_intLine, State.write_intLine]
@[simp] theorem State.writeWord_intData (a v : Word) :
    (s.writeWord a v).intData = s.intData := by rw [State.writeWord, State.write_intData, State.write_intData]
@[simp] theorem State.writeWord_failAfter (a v : Word) :
    (s.writeWord a v).failAfter = s.failAfter := by rw [State.writeWord, State.write_failAfter, State.write_failAfter]
@[simp] theorem State.writeWord_params (a v : Word) :
    (s.writeWord a v).params = s.params := by rw [State.writeWord, State.write_params, State.write_params]
@[simp] theorem State.writeWord_cycles (a v : Word) :
    (s.writeWord a v).cycles = s.cycles := by rw [State.writeWord, State.write_cycles, State.write_cycles]
@[simp] theorem State.writeWord_draws (a v : Word) :
    (s.writeWord a v).draws = s.draws + 2 := by simp [State.writeWord]
@[simp] theorem State.writeWord_inputs (a v : Word) :
    (s.writeWord a v).inputs
      = answersAfter (answersAfter s.inputs s.effects) ((s.sideEffects.drop 1).headD []) := by simp [State.writeWord, State.effects]
@[simp] theorem State.writeWord_mem (a v : Word) :
    (s.writeWord a v).mem
      = (((s.mem.write a.toNat (lo v)).after s.effects).write (a + 1#16).toNat (hi v)).after ((s.sideEffects.drop 1).headD []) := by simp [State.writeWord, State.effects]
@[simp] theorem State.writeWord_bus (a v : Word) :
    (s.writeWord a v).bus = hi v := by simp [State.writeWord]
@[simp] theorem State.writeWord_calls (a v : Word) :
    (s.writeWord a v).calls = .memWrite (a + 1#16) (hi v) :: .memWrite a (lo v) :: s.calls := by simp [State.writeWord]
@[simp] theorem State.writeWord_sideEffects (a v : Word) :
    (s.writeWord a v).sideEffects = s.sideEffects.drop 2 := by simp [State.writeWord]

/-! ### noteIn -/

@[simp] theorem State.noteIn_main (p : Byte) : (s.noteIn p).main = s.main := rfl
@[simp] theorem State.noteIn_alt (p : Byte) : (s.noteIn p).alt = s.alt := rfl
@[simp] theorem State.noteIn_ix (p : Byte) : (s.noteIn p).ix = s.ix := rfl
@[simp] theorem State.noteIn_iy (p : Byte) : (s.noteIn p).iy = s.iy := rfl
@[simp] theorem State.noteIn_sp (p : Byte) : (s.noteIn p).sp = s.sp := rfl
@[simp] theorem State.noteIn_pc (p : Byte) : (s.noteIn p).pc = s.pc := rfl
@[simp] theorem State.noteIn_i (p : Byte) : (s.noteIn p).i = s.i := rfl
@[simp] theorem State.noteIn_r (p : Byte) : (s.noteIn p).r = s.r := rfl
@[simp] theorem State.noteIn_iff1 (p : Byte) : (s.noteIn p).iff1 = s.iff1 := rfl
@[simp] theorem State.noteIn_iff2 (p : Byte) : (s.noteIn p).iff2 = s.iff2 := rfl
@[simp] theorem State.noteIn_im (p : Byte) : (s.noteIn p).im = s.im := rfl
@[simp] theorem State.noteIn_halted (p : Byte) : (s.noteIn p).halted = s.halted := rfl
@[simp] theorem State.noteIn_eiPending (p : Byte) : (s.noteIn p).eiPending = s.eiPending := rfl
@[simp] theorem State.noteIn_pfx (p : Byte) : (s.noteIn p).pfx = s.pfx := rfl
@[simp] theorem State.noteIn_nmiPending (p : Byte) : (s.noteIn p).nmiPending = s.nmiPending := rfl
@[simp] theorem State.noteIn_outputs (p : Byte) : (s.noteIn p).outputs = s.outputs := rfl
@[simp] theorem State.noteIn_intLine (p : Byte) : (s.noteIn p).intLine = s.intLine := rfl
@[simp] theorem State.noteIn_intData (p : Byte) : (s.noteIn p).intData = s.intData := rfl
@[simp] theorem State.noteIn_failAfter (p : Byte) : (s.noteIn p).failAfter = s.failAfter := rfl
@[simp] theorem State.noteIn_params (p : Byte) : (s.noteIn p).params = s.params := rfl
@[simp] theorem State.noteIn_cycles (p : Byte) : (s.noteIn p).cycles = s.cycles := rfl
@[simp] theorem State.noteIn_draws (p : Byte) : (s.noteIn p).draws = s.draws + 1 := rfl
@[simp] theorem State.noteIn_mem (p : Byte) : (s.noteIn p).mem = s.mem.after s.effects := rfl
@[simp] theorem State.noteIn_inputs (p : Byte) :
    (s.noteIn p).inputs = answersAfter s.inputs s.effects := rfl
@[simp] theorem State.noteIn_bus (p : Byte) : (s.noteIn p).bus = s.portValue p := rfl
@[simp] theorem State.noteIn_calls (p : Byte) :
    (s.noteIn p).calls = .portIn p (s.portValue p) :: s.calls := rfl
@[simp] theorem State.noteIn_sideEffects (p : Byte) :
    (s.noteIn p).sideEffects = s.sideEffects.drop 1 := rfl

/-! ### portOut -/

@[simp] theorem State.portOut_main (p v : Byte) : (s.portOut p v).main = s.main := rfl
@[simp] theorem State.portOut_alt (p v : Byte) : (s.portOut p v).alt = s.alt := rfl
@[simp] theorem State.portOut_ix (p v : Byte) : (s.portOut p v).ix = s.ix := rfl
@[simp] theorem State.portOut_iy (p v : Byte) : (s.portOut p v).iy = s.iy := rfl
@[simp] theorem State.portOut_sp (p v : Byte) : (s.portOut p v).sp = s.sp := rfl
@[simp] theorem State.portOut_pc (p v : Byte) : (s.portOut p v).pc = s.pc := rfl
@[simp] theorem State.portOut_i (p v : Byte) : (s.portOut p v).i = s.i := rfl
@[simp] theorem State.portOut_r (p v : Byte) : (s.portOut p v).r = s.r := rfl
@[simp] theorem State.portOut_iff1 (p v : Byte) : (s.portOut p v).iff1 = s.iff1 := rfl
@[simp] theorem State.portOut_iff2 (p v : Byte) : (s.portOut p v).iff2 = s.iff2 := rfl
@[simp] theorem State.portOut_im (p v : Byte) : (s.portOut p v).im = s.im := rfl
@[simp] theorem State.portOut_halted (p v : Byte) : (s.portOut p v).halted = s.halted := rfl
@[simp] theorem State.portOut_eiPending (p v : Byte) :
    (s.portOut p v).eiPending = s.eiPending := rfl
@[simp] theorem State.portOut_pfx (p v : Byte) : (s.portOut p v).pfx = s.pfx := rfl
@[simp] theorem State.portOut_nmiPending (p v : Byte) :
    (s.portOut p v).nmiPending = s.nmiPending := rfl
@[simp] theorem State.portOut_intLine (p v : Byte) : (s.portOut p v).intLine = s.intLine := rfl
@[simp] theorem State.portOut_intData (p v : Byte) : (s.portOut p v).intData = s.intData := rfl
@[simp] theorem State.portOut_failAfter (p v : Byte) :
    (s.portOut p v).failAfter = s.failAfter := rfl
@[simp] theorem State.portOut_params (p v : Byte) : (s.portOut p v).params = s.params := rfl
@[simp] theorem State.portOut_cycles (p v : Byte) : (s.portOut p v).cycles = s.cycles := rfl
@[simp] theorem State.portOut_draws (p v : Byte) : (s.portOut p v).draws = s.draws + 1 := rfl
@[simp] theorem State.portOut_mem (p v : Byte) : (s.portOut p v).mem = s.mem.after s.effects := rfl
@[simp] theorem State.portOut_inputs (p v : Byte) :
    (s.portOut p v).inputs = answersAfter s.inputs s.effects := rfl
@[simp] theorem State.portOut_bus (p v : Byte) : (s.portOut p v).bus = v := rfl
@[simp] theorem State.portOut_calls (p v : Byte) :
    (s.portOut p v).calls = .portOut p v :: s.calls := rfl
@[simp] theorem State.portOut_outputs (p v : Byte) :
    (s.portOut p v).outputs = (p, v) :: s.outputs := rfl
@[simp] theorem State.portOut_sideEffects (p v : Byte) :
    (s.portOut p v).sideEffects = s.sideEffects.drop 1 := rfl

/-! ### fetchOpcode -/

@[simp] theorem State.fetchOpcode_main : (s.fetchOpcode).main = s.main := rfl
@[simp] theorem State.fetchOpcode_alt : (s.fetchOpcode).alt = s.alt := rfl
@[simp] theorem State.fetchOpcode_ix : (s.fetchOpcode).ix = s.ix := rfl
@[simp] theorem State.fetchOpcode_iy : (s.fetchOpcode).iy = s.iy := rfl
@[simp] theorem State.fetchOpcode_sp : (s.fetchOpcode).sp = s.sp := rfl
@[simp] theorem State.fetchOpcode_i : (s.fetchOpcode).i = s.i := rfl
@[simp] theorem State.fetchOpcode_iff1 : (s.fetchOpcode).iff1 = s.iff1 := rfl
@[simp] theorem State.fetchOpcode_iff2 : (s.fetchOpcode).iff2 = s.iff2 := rfl
@[simp] theorem State.fetchOpcode_im : (s.fetchOpcode).im = s.im := rfl
@[simp] theorem State.fetchOpcode_halted : (s.fetchOpcode).halted = s.halted := rfl
@[simp] theorem State.fetchOpcode_eiPending : (s.fetchOpcode).eiPending = s.eiPending := rfl
@[simp] theorem State.fetchOpcode_pfx : (s.fetchOpcode).pfx = s.pfx := rfl
@[simp] theorem State.fetchOpcode_nmiPending : (s.fetchOpcode).nmiPending = s.nmiPending := rfl
@[simp] theorem State.fetchOpcode_outputs : (s.fetchOpcode).outputs = s.outputs := rfl
@[simp] theorem State.fetchOpcode_intLine : (s.fetchOpcode).intLine = s.intLine := rfl
@[simp] theorem State.fetchOpcode_intData : (s.fetchOpcode).intData = s.intData := rfl
@[simp] theorem State.fetchOpcode_failAfter : (s.fetchOpcode).failAfter = s.failAfter := rfl
@[simp] theorem State.fetchOpcode_params : (s.fetchOpcode).params = s.params := rfl
@[simp] theorem State.fetchOpcode_cycles : (s.fetchOpcode).cycles = s.cycles := rfl
@[simp] theorem State.fetchOpcode_inputs :
    (s.fetchOpcode).inputs = answersAfter s.inputs s.effects := rfl
@[simp] theorem State.fetchOpcode_pc : (s.fetchOpcode).pc = s.pc + 1#16 := rfl
@[simp] theorem State.fetchOpcode_mem : (s.fetchOpcode).mem = s.mem.after s.effects := rfl
@[simp] theorem State.fetchOpcode_draws : (s.fetchOpcode).draws = s.draws + 1 := rfl
@[simp] theorem State.fetchOpcode_r : (s.fetchOpcode).r = refresh s.r := rfl
@[simp] theorem State.fetchOpcode_bus : (s.fetchOpcode).bus = s.peek s.pc := rfl
@[simp] theorem State.fetchOpcode_calls :
    (s.fetchOpcode).calls = .memRead s.pc (s.peek s.pc) :: s.calls := rfl
@[simp] theorem State.fetchOpcode_sideEffects :
    (s.fetchOpcode).sideEffects = s.sideEffects.drop 1 := rfl

/-! ### fetchByte -/

@[simp] theorem State.fetchByte_main : (s.fetchByte).main = s.main := rfl
@[simp] theorem State.fetchByte_alt : (s.fetchByte).alt = s.alt := rfl
@[simp] theorem State.fetchByte_ix : (s.fetchByte).ix = s.ix := rfl
@[simp] theorem State.fetchByte_iy : (s.fetchByte).iy = s.iy := rfl
@[simp] theorem State.fetchByte_sp : (s.fetchByte).sp = s.sp := rfl
@[simp] theorem State.fetchByte_i : (s.fetchByte).i = s.i := rfl
@[simp] theorem State.fetchByte_r : (s.fetchByte).r = s.r := rfl
@[simp] theorem State.fetchByte_iff1 : (s.fetchByte).iff1 = s.iff1 := rfl
@[simp] theorem State.fetchByte_iff2 : (s.fetchByte).iff2 = s.iff2 := rfl
@[simp] theorem State.fetchByte_im : (s.fetchByte).im = s.im := rfl
@[simp] theorem State.fetchByte_halted : (s.fetchByte).halted = s.halted := rfl
@[simp] theorem State.fetchByte_eiPending : (s.fetchByte).eiPending = s.eiPending := rfl
@[simp] theorem State.fetchByte_pfx : (s.fetchByte).pfx = s.pfx := rfl
@[simp] theorem State.fetchByte_nmiPending : (s.fetchByte).nmiPending = s.nmiPending := rfl
@[simp] theorem State.fetchByte_outputs : (s.fetchByte).outputs = s.outputs := rfl
@[simp] theorem State.fetchByte_intLine : (s.fetchByte).intLine = s.intLine := rfl
@[simp] theorem State.fetchByte_intData : (s.fetchByte).intData = s.intData := rfl
@[simp] theorem State.fetchByte_failAfter : (s.fetchByte).failAfter = s.failAfter := rfl
@[simp] theorem State.fetchByte_params : (s.fetchByte).params = s.params := rfl
@[simp] theorem State.fetchByte_cycles : (s.fetchByte).cycles = s.cycles := rfl
@[simp] theorem State.fetchByte_inputs :
    (s.fetchByte).inputs = answersAfter s.inputs s.effects := rfl
@[simp] theorem State.fetchByte_pc : (s.fetchByte).pc = s.pc + 1#16 := rfl
@[simp] theorem State.fetchByte_mem : (s.fetchByte).mem = s.mem.after s.effects := rfl
@[simp] theorem State.fetchByte_draws : (s.fetchByte).draws = s.draws + 1 := rfl
@[simp] theorem State.fetchByte_bus : (s.fetchByte).bus = s.peek s.pc := rfl
@[simp] theorem State.fetchByte_calls :
    (s.fetchByte).calls = .memRead s.pc (s.peek s.pc) :: s.calls := rfl
@[simp] theorem State.fetchByte_sideEffects :
    (s.fetchByte).sideEffects = s.sideEffects.drop 1 := rfl

/-! ### fetchWord -/

@[simp] theorem State.fetchWord_main :
    (s.fetchWord).main = s.main := by rw [State.fetchWord, State.fetchByte_main, State.fetchByte_main]
@[simp] theorem State.fetchWord_alt :
    (s.fetchWord).alt = s.alt := by rw [State.fetchWord, State.fetchByte_alt, State.fetchByte_alt]
@[simp] theorem State.fetchWord_ix :
    (s.fetchWord).ix = s.ix := by rw [State.fetchWord, State.fetchByte_ix, State.fetchByte_ix]
@[simp] theorem State.fetchWord_iy :
    (s.fetchWord).iy = s.iy := by rw [State.fetchWord, State.fetchByte_iy, State.fetchByte_iy]
@[simp] theorem State.fetchWord_sp :
    (s.fetchWord).sp = s.sp := by rw [State.fetchWord, State.fetchByte_sp, State.fetchByte_sp]
@[simp] theorem State.fetchWord_i :
    (s.fetchWord).i = s.i := by rw [State.fetchWord, State.fetchByte_i, State.fetchByte_i]
@[simp] theorem State.fetchWord_r :
    (s.fetchWord).r = s.r := by rw [State.fetchWord, State.fetchByte_r, State.fetchByte_r]
@[simp] theorem State.fetchWord_iff1 :
    (s.fetchWord).iff1 = s.iff1 := by rw [State.fetchWord, State.fetchByte_iff1, State.fetchByte_iff1]
@[simp] theorem State.fetchWord_iff2 :
    (s.fetchWord).iff2 = s.iff2 := by rw [State.fetchWord, State.fetchByte_iff2, State.fetchByte_iff2]
@[simp] theorem State.fetchWord_im :
    (s.fetchWord).im = s.im := by rw [State.fetchWord, State.fetchByte_im, State.fetchByte_im]
@[simp] theorem State.fetchWord_halted :
    (s.fetchWord).halted = s.halted := by rw [State.fetchWord, State.fetchByte_halted, State.fetchByte_halted]
@[simp] theorem State.fetchWord_eiPending :
    (s.fetchWord).eiPending = s.eiPending := by rw [State.fetchWord, State.fetchByte_eiPending, State.fetchByte_eiPending]
@[simp] theorem State.fetchWord_pfx :
    (s.fetchWord).pfx = s.pfx := by rw [State.fetchWord, State.fetchByte_pfx, State.fetchByte_pfx]
@[simp] theorem State.fetchWord_nmiPending :
    (s.fetchWord).nmiPending = s.nmiPending := by rw [State.fetchWord, State.fetchByte_nmiPending, State.fetchByte_nmiPending]
@[simp] theorem State.fetchWord_outputs :
    (s.fetchWord).outputs = s.outputs := by rw [State.fetchWord, State.fetchByte_outputs, State.fetchByte_outputs]
@[simp] theorem State.fetchWord_intLine :
    (s.fetchWord).intLine = s.intLine := by rw [State.fetchWord, State.fetchByte_intLine, State.fetchByte_intLine]
@[simp] theorem State.fetchWord_intData :
    (s.fetchWord).intData = s.intData := by rw [State.fetchWord, State.fetchByte_intData, State.fetchByte_intData]
@[simp] theorem State.fetchWord_failAfter :
    (s.fetchWord).failAfter = s.failAfter := by rw [State.fetchWord, State.fetchByte_failAfter, State.fetchByte_failAfter]
@[simp] theorem State.fetchWord_params :
    (s.fetchWord).params = s.params := by rw [State.fetchWord, State.fetchByte_params, State.fetchByte_params]
@[simp] theorem State.fetchWord_cycles :
    (s.fetchWord).cycles = s.cycles := by rw [State.fetchWord, State.fetchByte_cycles, State.fetchByte_cycles]
@[simp] theorem State.fetchWord_draws :
    (s.fetchWord).draws = s.draws + 2 := by simp [State.fetchWord]

/-! ### push -/

@[simp] theorem State.push_main (v : Word) :
    (s.push v).main = s.main := by rw [State.push, State.write_main, State.setSp_main, State.write_main, State.setSp_main]
@[simp] theorem State.push_alt (v : Word) :
    (s.push v).alt = s.alt := by rw [State.push, State.write_alt, State.setSp_alt, State.write_alt, State.setSp_alt]
@[simp] theorem State.push_ix (v : Word) :
    (s.push v).ix = s.ix := by rw [State.push, State.write_ix, State.setSp_ix, State.write_ix, State.setSp_ix]
@[simp] theorem State.push_iy (v : Word) :
    (s.push v).iy = s.iy := by rw [State.push, State.write_iy, State.setSp_iy, State.write_iy, State.setSp_iy]
@[simp] theorem State.push_pc (v : Word) :
    (s.push v).pc = s.pc := by rw [State.push, State.write_pc, State.setSp_pc, State.write_pc, State.setSp_pc]
@[simp] theorem State.push_i (v : Word) :
    (s.push v).i = s.i := by rw [State.push, State.write_i, State.setSp_i, State.write_i, State.setSp_i]
@[simp] theorem State.push_r (v : Word) :
    (s.push v).r = s.r := by rw [State.push, State.write_r, State.setSp_r, State.write_r, State.setSp_r]
@[simp] theorem State.push_iff1 (v : Word) :
    (s.push v).iff1 = s.iff1 := by rw [State.push, State.write_iff1, State.setSp_iff1, State.write_iff1, State.setSp_iff1]
@[simp] theorem State.push_iff2 (v : Word) :
    (s.push v).iff2 = s.iff2 := by rw [State.push, State.write_iff2, State.setSp_iff2, State.write_iff2, State.setSp_iff2]
@[simp] theorem State.push_im (v : Word) :
    (s.push v).im = s.im := by rw [State.push, State.write_im, State.setSp_im, State.write_im, State.setSp_im]
@[simp] theorem State.push_halted (v : Word) :
    (s.push v).halted = s.halted := by rw [State.push, State.write_halted, State.setSp_halted, State.write_halted, State.setSp_halted]
@[simp] theorem State.push_eiPending (v : Word) :
    (s.push v).eiPending = s.eiPending := by rw [State.push, State.write_eiPending, State.setSp_eiPending, State.write_eiPending, State.setSp_eiPending]
@[simp] theorem State.push_pfx (v : Word) :
    (s.push v).pfx = s.pfx := by rw [State.push, State.write_pfx, State.setSp_pfx, State.write_pfx, State.setSp_pfx]
@[simp] theorem State.push_nmiPending (v : Word) :
    (s.push v).nmiPending = s.nmiPending := by rw [State.push, State.write_nmiPending, State.setSp_nmiPending, State.write_nmiPending, State.setSp_nmiPending]
@[simp] theorem State.push_outputs (v : Word) :
    (s.push v).outputs = s.outputs := by rw [State.push, State.write_outputs, State.setSp_outputs, State.write_outputs, State.setSp_outputs]
@[simp] theorem State.push_intLine (v : Word) :
    (s.push v).intLine = s.intLine := by rw [State.push, State.write_intLine, State.setSp_intLine, State.write_intLine, State.setSp_intLine]
@[simp] theorem State.push_intData (v : Word) :
    (s.push v).intData = s.intData := by rw [State.push, State.write_intData, State.setSp_intData, State.write_intData, State.setSp_intData]
@[simp] theorem State.push_failAfter (v : Word) :
    (s.push v).failAfter = s.failAfter := by rw [State.push, State.write_failAfter, State.setSp_failAfter, State.write_failAfter, State.setSp_failAfter]
@[simp] theorem State.push_params (v : Word) :
    (s.push v).params = s.params := by rw [State.push, State.write_params, State.setSp_params, State.write_params, State.setSp_params]
@[simp] theorem State.push_cycles (v : Word) :
    (s.push v).cycles = s.cycles := by rw [State.push, State.write_cycles, State.setSp_cycles, State.write_cycles, State.setSp_cycles]
@[simp] theorem State.push_draws (v : Word) : (s.push v).draws = s.draws + 2 := by simp [State.push]
@[simp] theorem State.push_inputs (v : Word) :
    (s.push v).inputs
      = answersAfter (answersAfter s.inputs s.effects) ((s.sideEffects.drop 1).headD []) := by simp [State.push, State.effects]
@[simp] theorem State.push_mem (v : Word) :
    (s.push v).mem
      = (((s.mem.write (s.sp - 1#16).toNat (hi v)).after s.effects).write (s.sp - 2#16).toNat (lo v)).after ((s.sideEffects.drop 1).headD []) := by simp [State.push, State.effects]
@[simp] theorem State.push_sp (v : Word) : (s.push v).sp = s.sp - 2#16 := by simp [State.push]
@[simp] theorem State.push_bus (v : Word) : (s.push v).bus = lo v := by simp [State.push]
@[simp] theorem State.push_sideEffects (v : Word) :
    (s.push v).sideEffects = s.sideEffects.drop 2 := by simp [State.push]
@[simp] theorem State.push_calls (v : Word) :
    (s.push v).calls
      = .memWrite (s.sp - 2#16) (lo v) :: .memWrite (s.sp - 1#16) (hi v) :: s.calls := by simp [State.push]

/-! ### pop -/

@[simp] theorem State.pop_main :
    (s.pop).main = s.main := by rw [State.pop, State.setSp_main, State.noteRead_main, State.setSp_main, State.noteRead_main]
@[simp] theorem State.pop_alt :
    (s.pop).alt = s.alt := by rw [State.pop, State.setSp_alt, State.noteRead_alt, State.setSp_alt, State.noteRead_alt]
@[simp] theorem State.pop_ix :
    (s.pop).ix = s.ix := by rw [State.pop, State.setSp_ix, State.noteRead_ix, State.setSp_ix, State.noteRead_ix]
@[simp] theorem State.pop_iy :
    (s.pop).iy = s.iy := by rw [State.pop, State.setSp_iy, State.noteRead_iy, State.setSp_iy, State.noteRead_iy]
@[simp] theorem State.pop_pc :
    (s.pop).pc = s.pc := by rw [State.pop, State.setSp_pc, State.noteRead_pc, State.setSp_pc, State.noteRead_pc]
@[simp] theorem State.pop_i :
    (s.pop).i = s.i := by rw [State.pop, State.setSp_i, State.noteRead_i, State.setSp_i, State.noteRead_i]
@[simp] theorem State.pop_r :
    (s.pop).r = s.r := by rw [State.pop, State.setSp_r, State.noteRead_r, State.setSp_r, State.noteRead_r]
@[simp] theorem State.pop_iff1 :
    (s.pop).iff1 = s.iff1 := by rw [State.pop, State.setSp_iff1, State.noteRead_iff1, State.setSp_iff1, State.noteRead_iff1]
@[simp] theorem State.pop_iff2 :
    (s.pop).iff2 = s.iff2 := by rw [State.pop, State.setSp_iff2, State.noteRead_iff2, State.setSp_iff2, State.noteRead_iff2]
@[simp] theorem State.pop_im :
    (s.pop).im = s.im := by rw [State.pop, State.setSp_im, State.noteRead_im, State.setSp_im, State.noteRead_im]
@[simp] theorem State.pop_halted :
    (s.pop).halted = s.halted := by rw [State.pop, State.setSp_halted, State.noteRead_halted, State.setSp_halted, State.noteRead_halted]
@[simp] theorem State.pop_eiPending :
    (s.pop).eiPending = s.eiPending := by rw [State.pop, State.setSp_eiPending, State.noteRead_eiPending, State.setSp_eiPending, State.noteRead_eiPending]
@[simp] theorem State.pop_pfx :
    (s.pop).pfx = s.pfx := by rw [State.pop, State.setSp_pfx, State.noteRead_pfx, State.setSp_pfx, State.noteRead_pfx]
@[simp] theorem State.pop_nmiPending :
    (s.pop).nmiPending = s.nmiPending := by rw [State.pop, State.setSp_nmiPending, State.noteRead_nmiPending, State.setSp_nmiPending, State.noteRead_nmiPending]
@[simp] theorem State.pop_outputs :
    (s.pop).outputs = s.outputs := by rw [State.pop, State.setSp_outputs, State.noteRead_outputs, State.setSp_outputs, State.noteRead_outputs]
@[simp] theorem State.pop_intLine :
    (s.pop).intLine = s.intLine := by rw [State.pop, State.setSp_intLine, State.noteRead_intLine, State.setSp_intLine, State.noteRead_intLine]
@[simp] theorem State.pop_intData :
    (s.pop).intData = s.intData := by rw [State.pop, State.setSp_intData, State.noteRead_intData, State.setSp_intData, State.noteRead_intData]
@[simp] theorem State.pop_failAfter :
    (s.pop).failAfter = s.failAfter := by rw [State.pop, State.setSp_failAfter, State.noteRead_failAfter, State.setSp_failAfter, State.noteRead_failAfter]
@[simp] theorem State.pop_params :
    (s.pop).params = s.params := by rw [State.pop, State.setSp_params, State.noteRead_params, State.setSp_params, State.noteRead_params]
@[simp] theorem State.pop_cycles :
    (s.pop).cycles = s.cycles := by rw [State.pop, State.setSp_cycles, State.noteRead_cycles, State.setSp_cycles, State.noteRead_cycles]
@[simp] theorem State.pop_draws : (s.pop).draws = s.draws + 2 := by simp [State.pop]
@[simp] theorem State.pop_inputs :
    (s.pop).inputs
      = answersAfter (answersAfter s.inputs s.effects) ((s.sideEffects.drop 1).headD []) := by simp [State.pop, State.effects]
@[simp] theorem State.pop_mem :
    (s.pop).mem = (s.mem.after s.effects).after ((s.sideEffects.drop 1).headD []) := by simp [State.pop, State.effects]
@[simp] theorem State.pop_sp : (s.pop).sp = s.sp + 2#16 := by simp [State.pop]
@[simp] theorem State.pop_bus :
    (s.pop).bus = (s.noteRead s.sp).peek (s.sp + 1#16) := by simp [State.pop]
@[simp] theorem State.pop_calls :
    (s.pop).calls
      = .memRead (s.sp + 1#16) ((s.noteRead s.sp).peek (s.sp + 1#16)) :: .memRead s.sp (s.peek s.sp) :: s.calls := by simp [State.pop]
@[simp] theorem State.pop_sideEffects :
    (s.pop).sideEffects = s.sideEffects.drop 2 := by simp [State.pop]

/-! ### beginAcceptance -/

@[simp] theorem State.beginAcceptance_main (b : Bool) : (s.beginAcceptance b).main = s.main := rfl
@[simp] theorem State.beginAcceptance_alt (b : Bool) : (s.beginAcceptance b).alt = s.alt := rfl
@[simp] theorem State.beginAcceptance_ix (b : Bool) : (s.beginAcceptance b).ix = s.ix := rfl
@[simp] theorem State.beginAcceptance_iy (b : Bool) : (s.beginAcceptance b).iy = s.iy := rfl
@[simp] theorem State.beginAcceptance_sp (b : Bool) : (s.beginAcceptance b).sp = s.sp := rfl
@[simp] theorem State.beginAcceptance_pc (b : Bool) : (s.beginAcceptance b).pc = s.pc := rfl
@[simp] theorem State.beginAcceptance_i (b : Bool) : (s.beginAcceptance b).i = s.i := rfl
@[simp] theorem State.beginAcceptance_im (b : Bool) : (s.beginAcceptance b).im = s.im := rfl
@[simp] theorem State.beginAcceptance_pfx (b : Bool) : (s.beginAcceptance b).pfx = s.pfx := rfl
@[simp] theorem State.beginAcceptance_bus (b : Bool) : (s.beginAcceptance b).bus = s.bus := rfl
@[simp] theorem State.beginAcceptance_nmiPending (b : Bool) :
    (s.beginAcceptance b).nmiPending = s.nmiPending := rfl
@[simp] theorem State.beginAcceptance_mem (b : Bool) : (s.beginAcceptance b).mem = s.mem := rfl
@[simp] theorem State.beginAcceptance_inputs (b : Bool) :
    (s.beginAcceptance b).inputs = s.inputs := rfl
@[simp] theorem State.beginAcceptance_outputs (b : Bool) :
    (s.beginAcceptance b).outputs = s.outputs := rfl
@[simp] theorem State.beginAcceptance_sideEffects (b : Bool) :
    (s.beginAcceptance b).sideEffects = s.sideEffects := rfl
@[simp] theorem State.beginAcceptance_intLine (b : Bool) :
    (s.beginAcceptance b).intLine = s.intLine := rfl
@[simp] theorem State.beginAcceptance_intData (b : Bool) :
    (s.beginAcceptance b).intData = s.intData := rfl
@[simp] theorem State.beginAcceptance_failAfter (b : Bool) :
    (s.beginAcceptance b).failAfter = s.failAfter := rfl
@[simp] theorem State.beginAcceptance_params (b : Bool) :
    (s.beginAcceptance b).params = s.params := rfl
@[simp] theorem State.beginAcceptance_cycles (b : Bool) :
    (s.beginAcceptance b).cycles = s.cycles := rfl
@[simp] theorem State.beginAcceptance_calls (b : Bool) :
    (s.beginAcceptance b).calls = s.calls := rfl
@[simp] theorem State.beginAcceptance_draws (b : Bool) :
    (s.beginAcceptance b).draws = s.draws := rfl
@[simp] theorem State.beginAcceptance_atFailure (b : Bool) :
    (s.beginAcceptance b).atFailure = s.atFailure := rfl
@[simp] theorem State.beginAcceptance_peek (b : Bool) (x : Word) :
    (s.beginAcceptance b).peek x = s.peek x := rfl
@[simp] theorem State.beginAcceptance_portValue (b : Bool) (x : Byte) :
    (s.beginAcceptance b).portValue x = s.portValue x := rfl
@[simp] theorem State.beginAcceptance_halted (b : Bool) :
    (s.beginAcceptance b).halted = false := rfl
@[simp] theorem State.beginAcceptance_eiPending (b : Bool) :
    (s.beginAcceptance b).eiPending = false := rfl
@[simp] theorem State.beginAcceptance_r (b : Bool) : (s.beginAcceptance b).r = refresh s.r := rfl
@[simp] theorem State.beginAcceptance_iff1 (b : Bool) : (s.beginAcceptance b).iff1 = false := rfl

/-! ### enter -/

@[simp] theorem State.enter_main (t : Word) :
    (s.enter t).main = s.main := by rw [State.enter, State.setPc_main, State.push_main]
@[simp] theorem State.enter_alt (t : Word) :
    (s.enter t).alt = s.alt := by rw [State.enter, State.setPc_alt, State.push_alt]
@[simp] theorem State.enter_ix (t : Word) :
    (s.enter t).ix = s.ix := by rw [State.enter, State.setPc_ix, State.push_ix]
@[simp] theorem State.enter_iy (t : Word) :
    (s.enter t).iy = s.iy := by rw [State.enter, State.setPc_iy, State.push_iy]
@[simp] theorem State.enter_i (t : Word) :
    (s.enter t).i = s.i := by rw [State.enter, State.setPc_i, State.push_i]
@[simp] theorem State.enter_r (t : Word) :
    (s.enter t).r = s.r := by rw [State.enter, State.setPc_r, State.push_r]
@[simp] theorem State.enter_iff1 (t : Word) :
    (s.enter t).iff1 = s.iff1 := by rw [State.enter, State.setPc_iff1, State.push_iff1]
@[simp] theorem State.enter_iff2 (t : Word) :
    (s.enter t).iff2 = s.iff2 := by rw [State.enter, State.setPc_iff2, State.push_iff2]
@[simp] theorem State.enter_im (t : Word) :
    (s.enter t).im = s.im := by rw [State.enter, State.setPc_im, State.push_im]
@[simp] theorem State.enter_halted (t : Word) :
    (s.enter t).halted = s.halted := by rw [State.enter, State.setPc_halted, State.push_halted]
@[simp] theorem State.enter_eiPending (t : Word) :
    (s.enter t).eiPending = s.eiPending := by rw [State.enter, State.setPc_eiPending, State.push_eiPending]
@[simp] theorem State.enter_pfx (t : Word) :
    (s.enter t).pfx = s.pfx := by rw [State.enter, State.setPc_pfx, State.push_pfx]
@[simp] theorem State.enter_nmiPending (t : Word) :
    (s.enter t).nmiPending = s.nmiPending := by rw [State.enter, State.setPc_nmiPending, State.push_nmiPending]
@[simp] theorem State.enter_outputs (t : Word) :
    (s.enter t).outputs = s.outputs := by rw [State.enter, State.setPc_outputs, State.push_outputs]
@[simp] theorem State.enter_intLine (t : Word) :
    (s.enter t).intLine = s.intLine := by rw [State.enter, State.setPc_intLine, State.push_intLine]
@[simp] theorem State.enter_intData (t : Word) :
    (s.enter t).intData = s.intData := by rw [State.enter, State.setPc_intData, State.push_intData]
@[simp] theorem State.enter_failAfter (t : Word) :
    (s.enter t).failAfter = s.failAfter := by rw [State.enter, State.setPc_failAfter, State.push_failAfter]
@[simp] theorem State.enter_params (t : Word) :
    (s.enter t).params = s.params := by rw [State.enter, State.setPc_params, State.push_params]
@[simp] theorem State.enter_cycles (t : Word) :
    (s.enter t).cycles = s.cycles := by rw [State.enter, State.setPc_cycles, State.push_cycles]
@[simp] theorem State.enter_draws (t : Word) :
    (s.enter t).draws = s.draws + 2 := by simp [State.enter]
@[simp] theorem State.enter_pc (t : Word) : (s.enter t).pc = t := by simp [State.enter]
@[simp] theorem State.enter_sp (t : Word) : (s.enter t).sp = s.sp - 2#16 := by simp [State.enter]
@[simp] theorem State.enter_bus (t : Word) : (s.enter t).bus = lo s.pc := by simp [State.enter]
@[simp] theorem State.enter_sideEffects (t : Word) :
    (s.enter t).sideEffects = s.sideEffects.drop 2 := by simp [State.enter]

/-! ### returnFromInterrupt -/

@[simp] theorem State.returnFromInterrupt_main :
    (s.returnFromInterrupt).main = s.main := by rw [State.returnFromInterrupt, State.setPc_main, State.pop_main]
@[simp] theorem State.returnFromInterrupt_alt :
    (s.returnFromInterrupt).alt = s.alt := by rw [State.returnFromInterrupt, State.setPc_alt, State.pop_alt]
@[simp] theorem State.returnFromInterrupt_ix :
    (s.returnFromInterrupt).ix = s.ix := by rw [State.returnFromInterrupt, State.setPc_ix, State.pop_ix]
@[simp] theorem State.returnFromInterrupt_iy :
    (s.returnFromInterrupt).iy = s.iy := by rw [State.returnFromInterrupt, State.setPc_iy, State.pop_iy]
@[simp] theorem State.returnFromInterrupt_i :
    (s.returnFromInterrupt).i = s.i := by rw [State.returnFromInterrupt, State.setPc_i, State.pop_i]
@[simp] theorem State.returnFromInterrupt_r :
    (s.returnFromInterrupt).r = s.r := by rw [State.returnFromInterrupt, State.setPc_r, State.pop_r]
@[simp] theorem State.returnFromInterrupt_iff2 :
    (s.returnFromInterrupt).iff2 = s.iff2 := by rw [State.returnFromInterrupt, State.setPc_iff2, State.pop_iff2]
@[simp] theorem State.returnFromInterrupt_im :
    (s.returnFromInterrupt).im = s.im := by rw [State.returnFromInterrupt, State.setPc_im, State.pop_im]
@[simp] theorem State.returnFromInterrupt_halted :
    (s.returnFromInterrupt).halted = s.halted := by rw [State.returnFromInterrupt, State.setPc_halted, State.pop_halted]
@[simp] theorem State.returnFromInterrupt_eiPending :
    (s.returnFromInterrupt).eiPending = s.eiPending := by rw [State.returnFromInterrupt, State.setPc_eiPending, State.pop_eiPending]
@[simp] theorem State.returnFromInterrupt_pfx :
    (s.returnFromInterrupt).pfx = s.pfx := by rw [State.returnFromInterrupt, State.setPc_pfx, State.pop_pfx]
@[simp] theorem State.returnFromInterrupt_nmiPending :
    (s.returnFromInterrupt).nmiPending = s.nmiPending := by rw [State.returnFromInterrupt, State.setPc_nmiPending, State.pop_nmiPending]
@[simp] theorem State.returnFromInterrupt_outputs :
    (s.returnFromInterrupt).outputs = s.outputs := by rw [State.returnFromInterrupt, State.setPc_outputs, State.pop_outputs]
@[simp] theorem State.returnFromInterrupt_intLine :
    (s.returnFromInterrupt).intLine = s.intLine := by rw [State.returnFromInterrupt, State.setPc_intLine, State.pop_intLine]
@[simp] theorem State.returnFromInterrupt_intData :
    (s.returnFromInterrupt).intData = s.intData := by rw [State.returnFromInterrupt, State.setPc_intData, State.pop_intData]
@[simp] theorem State.returnFromInterrupt_failAfter :
    (s.returnFromInterrupt).failAfter = s.failAfter := by rw [State.returnFromInterrupt, State.setPc_failAfter, State.pop_failAfter]
@[simp] theorem State.returnFromInterrupt_params :
    (s.returnFromInterrupt).params = s.params := by rw [State.returnFromInterrupt, State.setPc_params, State.pop_params]
@[simp] theorem State.returnFromInterrupt_cycles :
    (s.returnFromInterrupt).cycles = s.cycles := by rw [State.returnFromInterrupt, State.setPc_cycles, State.pop_cycles]
@[simp] theorem State.returnFromInterrupt_draws :
    (s.returnFromInterrupt).draws = s.draws + 2 := by simp [State.returnFromInterrupt]
@[simp] theorem State.returnFromInterrupt_pc :
    (s.returnFromInterrupt).pc = s.topWord := by simp [State.returnFromInterrupt]
@[simp] theorem State.returnFromInterrupt_sp :
    (s.returnFromInterrupt).sp = s.sp + 2#16 := by simp [State.returnFromInterrupt]
@[simp] theorem State.returnFromInterrupt_iff1 :
    (s.returnFromInterrupt).iff1 = s.iff2 := by simp [State.returnFromInterrupt]
@[simp] theorem State.returnFromInterrupt_sideEffects :
    (s.returnFromInterrupt).sideEffects = s.sideEffects.drop 2 := by simp [State.returnFromInterrupt]

end Sys2Proof.Machine
end

