-- ==== Sys2Proof/Laws/Frames.lean ====
section
/-! SUPPORT. Words and their halves, registers after a write, and the frame of every named operation
over registers, memory, ports and the stack; frames compose (`Frame.trans`) and widen
(`Frame.mono`). -/

namespace Sys2Proof.Machine

/-! ## Words and their halves -/

@[simp] theorem hi_pair (h l : Byte) : hi (pair h l) = h := by
  unfold hi pair
  apply BitVec.eq_of_toNat_eq
  simp only [BitVec.extractLsb'_toNat, BitVec.toNat_append, Nat.shiftRight_or_distrib]
  have hl := l.isLt
  have hh := h.isLt
  rw [Nat.shiftLeft_shiftRight, Nat.shiftRight_eq_div_pow, Nat.div_eq_of_lt (by omega), Nat.or_zero]
  omega

@[simp] theorem lo_pair (h l : Byte) : lo (pair h l) = l := by
  unfold lo pair
  ext i hk
  simp only [BitVec.getElem_extractLsb', Nat.zero_add, BitVec.getLsbD_append, hk,
    if_true, BitVec.getLsbD_eq_getElem]

@[simp] theorem pair_hi_lo (w : Word) : pair (hi w) (lo w) = w := by
  unfold hi lo pair
  ext i hk
  rw [BitVec.getElem_append, ← BitVec.getLsbD_eq_getElem hk]
  by_cases h : i < 8
  · simp [h]
  · simp [h, show 8 + (i - 8) = i by omega]

/-! ## Registers -/

@[simp] theorem State.getR8_setR8_self (s : State) (r : R8) (v : Byte) :
    (s.setR8 r v).getR8 r = v := by
  cases r <;> simp [State.getR8, State.setR8]

theorem State.getR8_setR8_of_ne (s : State) {r q : R8} (v : Byte) (h : q ≠ r) :
    (s.setR8 r v).getR8 q = s.getR8 q := by
  cases r <;> cases q <;> simp_all [State.getR8, State.setR8]

@[simp] theorem State.setR8_f (s : State) (r : R8) (v : Byte) :
    (s.setR8 r v).main.f = s.main.f := by cases r <;> rfl

@[simp] theorem State.setF_getR8 (s : State) (v : Byte) (r : R8) :
    (s.setF v).getR8 r = s.getR8 r := by cases r <;> rfl

@[simp] theorem State.setF_getR16 (s : State) (v : Byte) {r : R16} (h : r ≠ .af) :
    (s.setF v).getR16 r = s.getR16 r := by cases r <;> first | rfl | exact absurd rfl h

@[simp] theorem State.getR16_setR16_self (s : State) (r : R16) (v : Word) :
    (s.setR16 r v).getR16 r = v := by
  cases r <;> simp [State.getR16, State.setR16]

/-- Registers are read from four fields. -/
theorem State.getR8_congr {s t : State} (h : t.main = s.main) (hx : t.ix = s.ix) (hy : t.iy = s.iy)
    (r : R8) : t.getR8 r = s.getR8 r := by
  cases r <;> simp only [State.getR8, h, hx, hy]

/-- Pairs are read from four fields. -/
theorem State.getR16_congr {s t : State} (h : t.main = s.main) (hx : t.ix = s.ix) (hy : t.iy = s.iy)
    (hs : t.sp = s.sp) (r : R16) : t.getR16 r = s.getR16 r := by
  cases r <;> simp only [State.getR16, h, hx, hy, hs]

@[simp] theorem State.tick_getR8 (s : State) (n : Nat) (r : R8) : (s.tick n).getR8 r = s.getR8 r := by
  cases r <;> rfl

@[simp] theorem State.tick_getR16 (s : State) (n : Nat) (r : R16) :
    (s.tick n).getR16 r = s.getR16 r := by cases r <;> rfl

@[simp] theorem State.setPc_getR8 (s : State) (v : Word) (r : R8) :
    (s.setPc v).getR8 r = s.getR8 r := by cases r <;> rfl

@[simp] theorem State.setPc_getR16 (s : State) (v : Word) (r : R16) :
    (s.setPc v).getR16 r = s.getR16 r := by cases r <;> rfl

/-! ## Side effects (R826) -/

/-- The side effects of the next call are among those scheduled. -/
theorem State.undisturbed.next {s : State} {a : Word} (h : s.undisturbed a) (v : Byte) :
    .memory a v ∉ s.effects := by
  unfold State.effects
  cases hs : s.sideEffects with
  | nil => simp
  | cons e es => exact h e (hs ▸ List.mem_cons_self) v

theorem State.portUndisturbed.next {s : State} {p : Byte} (h : s.portUndisturbed p) (v : Byte) :
    .port p v ∉ s.effects := by
  unfold State.effects
  cases hs : s.sideEffects with
  | nil => simp
  | cons e es => exact h e (hs ▸ List.mem_cons_self) v

theorem State.undisturbed.of_suffix {s t : State} {a : Word} (h : s.undisturbed a)
    (hs : t.sideEffects <:+ s.sideEffects) : t.undisturbed a :=
  fun es he => h es (hs.subset he)

theorem State.portUndisturbed.of_suffix {s t : State} {p : Byte} (h : s.portUndisturbed p)
    (hs : t.sideEffects <:+ s.sideEffects) : t.portUndisturbed p :=
  fun es he => h es (hs.subset he)

/-! ## A failing port (R801) -/

theorem portFailed_congr {s t : State} (h1 : t.failAfter = s.failAfter) (h2 : t.calls = s.calls) :
    t.portFailed = s.portFailed := by
  unfold State.portFailed; rw [h1, h2]

/-- With no port failing, an instruction that makes port calls completes. -/
theorem finish_next {s : State} (h : s.failAfter = none) : finish s = .next s := by
  simp [finish, State.portFailed, h]

/-- Where a call has failed, so have the calls after it. -/
theorem State.called_portFailed {s : State} (h : s.portFailed = true) (c : PortCall) :
    (s.called c).portFailed = true := by
  unfold State.portFailed at *
  rw [State.called_failAfter, State.called_calls]
  cases hf : s.failAfter with
  | none => simp [hf] at h
  | some k => simp only [hf, decide_eq_true_eq, List.length_cons] at h ⊢; omega

/-- Only the first failing call goes on record. -/
theorem State.called_atFailure {s : State} (h : s.portFailed = true) (c : PortCall) :
    (s.called c).atFailure = s.atFailure := by
  refine if_neg fun hf => ?_
  unfold State.fails at hf
  unfold State.portFailed at h
  rw [beq_iff_eq] at hf
  simp [hf] at h

/-- A port call that does not fail leaves the record alone. -/
theorem State.called_unfailed {s : State} {c : PortCall} (h : (s.called c).portFailed = false) :
    (s.called c).atFailure = s.atFailure := by
  refine if_neg fun hf => ?_
  unfold State.fails at hf
  unfold State.portFailed at h
  rw [State.called_failAfter, State.called_calls, beq_iff_eq.1 hf] at h
  simp at h

/-- A port call keeps the record right. -/
theorem State.Recorded.called {s : State} (h : s.Recorded) (c : PortCall) :
    (s.called c).Recorded := by
  intro hf
  by_cases hs : s.portFailed = true
  · rw [State.called_atFailure hs]; exact h hs
  · have hk : s.failAfter = some s.calls.length := by
      unfold State.portFailed at hs hf
      rw [State.called_failAfter, State.called_calls] at hf
      cases hk : s.failAfter with
      | none => simp [hk] at hf
      | some k =>
        simp only [hk, decide_eq_true_eq, List.length_cons, not_lt] at hs hf
        rw [Option.some.injEq]; omega
    exact ⟨s.toSnapshot, if_pos (by unfold State.fails; rw [hk]; exact beq_self_eq_true _), hk⟩

/-- A failed step's state on record does not change. -/
theorem State.Recorded.failure {s t : State} (h : s.Recorded) (hs : s.portFailed = true)
    (ht : t.atFailure = s.atFailure) : t.failure = s.failure := by
  obtain ⟨c, hc, -⟩ := h hs
  unfold State.failure
  rw [ht, hc]; rfl

/-! ## Frames -/

@[simp] theorem latchAfter_nil (b : Byte) : latchAfter b [] = b := rfl

@[simp] theorem latchAfter_cons (b : Byte) (c : PortCall) (l : List PortCall) :
    latchAfter b (c :: l) = portByte c := rfl

/-- The part of the state that is no element of the register file, but for cycles and draws. -/
structure Outside where
  mem : Memory
  inputs : List (Byte × Byte)
  outputs : List (Byte × Byte)
  sideEffects : List (List SideEffect)
  intLine : Bool
  intData : Byte
  failAfter : Option Nat
  params : Params
  calls : List PortCall
  atFailure : Option Snapshot

/-- It of a state. -/
def State.outside (s : State) : Outside :=
  ⟨s.mem, s.inputs, s.outputs, s.sideEffects, s.intLine, s.intData, s.failAfter, s.params, s.calls,
    s.atFailure⟩

/-- The frame of an operation on the register file. -/
theorem Frame.ofElems {s t : State} {w : List Elem} (h : t.outside = s.outside)
    (he : ∀ e, e ∉ w → t.look e = s.look e) : Frame s t w [] [] where
  elems := he
  memory a _ _ := State.byteAt_congr (congrArg Outside.mem h) (congrArg Outside.params h) a
  wf hw := (congrArg (fun o => Memory.wf o.mem) h).trans hw
  outputs := congrArg Outside.outputs h
  inputs p _ := congrArg (fun o => o.inputs.lookup p) h
  sideEffects := ⟨[], congrArg Outside.sideEffects h⟩
  intLine := congrArg Outside.intLine h
  intData := congrArg Outside.intData h
  failAfter := congrArg Outside.failAfter h
  params := congrArg Outside.params h
  recorded hr hf := by
    rw [show t.atFailure = s.atFailure from congrArg Outside.atFailure h,
      show t.failAfter = s.failAfter from congrArg Outside.failAfter h]
    exact hr ((portFailed_congr (congrArg Outside.failAfter h) (congrArg Outside.calls h)).symm.trans hf)
  unfailed _ := congrArg Outside.atFailure h
  failed hf := ⟨(portFailed_congr (congrArg Outside.failAfter h) (congrArg Outside.calls h)).trans hf,
    congrArg Outside.atFailure h⟩

theorem Frame.refl (s : State) : Frame s s [] [] [] := .ofElems rfl fun _ _ => rfl

theorem Frame.trans {s t u : State} {w₁ w₂ : List Elem} {m₁ m₂ : List Word}
    {o₁ o₂ : List (Byte × Byte)} (h₁ : Frame s t w₁ m₁ o₁) (h₂ : Frame t u w₂ m₂ o₂) :
    Frame s u (w₁ ++ w₂) (m₁ ++ m₂) (o₂ ++ o₁) where
  elems e he := by
    rw [List.mem_append, not_or] at he; rw [h₂.elems e he.2, h₁.elems e he.1]
  memory a ha hd := by
    rw [List.mem_append, not_or] at ha
    rw [h₂.memory a ha.2 (hd.of_suffix h₁.sideEffects), h₁.memory a ha.1 hd]
  wf h := h₂.wf (h₁.wf h)
  outputs := by rw [h₂.outputs, h₁.outputs, List.append_assoc]
  inputs p hp := (h₂.inputs p (hp.of_suffix h₁.sideEffects)).trans (h₁.inputs p hp)
  sideEffects := h₂.sideEffects.trans h₁.sideEffects
  intLine := h₂.intLine.trans h₁.intLine
  intData := h₂.intData.trans h₁.intData
  failAfter := h₂.failAfter.trans h₁.failAfter
  params := h₂.params.trans h₁.params
  recorded h := h₂.recorded (h₁.recorded h)
  failed h := ⟨(h₂.failed (h₁.failed h).1).1, (h₂.failed (h₁.failed h).1).2.trans (h₁.failed h).2⟩
  unfailed h := (h₂.unfailed h).trans (h₁.unfailed (Bool.eq_false_iff.2 fun ht =>
    Bool.false_ne_true (h.symm.trans (h₂.failed ht).1)))

theorem Frame.mono {s t : State} {w w' : List Elem} {m m' : List Word} {o : List (Byte × Byte)}
    (h : Frame s t w m o) (hw : w ⊆ w') (hm : m ⊆ m') : Frame s t w' m' o :=
  { h with elems := fun e he => h.elems e (fun hh => he (hw hh)),
           memory := fun a ha => h.memory a (fun hh => ha (hm hh)) }

/-- An address that keeps what is stored there goes on keeping it. -/
theorem Frame.keeps {s t : State} {w : List Elem} {m : List Word} {o : List (Byte × Byte)} {a : Word}
    (h : Frame s t w m o) (hk : s.keeps a) : t.keeps a :=
  ⟨h.params ▸ hk.1, hk.2.of_suffix h.sideEffects⟩

theorem Did.widen {s t : State} {cyc : Nat} {made : List PortCall} {w w' : List Elem}
    {m : List Word} {o : List (Byte × Byte)} (h : Did s t cyc made w m o)
    (hw : ∀ e ∈ w, e ∈ w' ∨ t.look e = s.look e) : Did s t cyc made w' m o := by
  refine ⟨h.cycles, h.calls, h.effects, h.bus, { h.frame with elems := fun e he => ?_ }⟩
  rw [List.mem_cons, not_or] at he
  by_cases h1 : e ∈ w
  · exact (hw e h1).resolve_left he.2
  · exact h.frame.elems e (by simp [he.1, h1])

/-! ## The frame of each operation -/

theorem frame_setR8 (s : State) (r : R8) (v : Byte) : Frame s (s.setR8 r v) [.r8 r] [] [] :=
  .ofElems (by cases r <;> rfl) fun e he => by
    cases e <;> simp_all [State.look, State.getShadow8]
    rw [State.getR8_setR8_of_ne _ _ he]

theorem frame_setF (s : State) (v : Byte) : Frame s (s.setF v) [.f] [] [] :=
  .ofElems rfl fun e he => by cases e <;> simp_all [State.look, State.getShadow8]

/-- The elements a pair is made of. -/
def pairElems : R16 → List Elem
  | .bc => [.r8 .b, .r8 .c]
  | .de => [.r8 .d, .r8 .e]
  | .hl => [.r8 .h, .r8 .l]
  | .sp => [.sp]
  | .af => [.r8 .a, .f]
  | .ix => [.r8 .ixh, .r8 .ixl]
  | .iy => [.r8 .iyh, .r8 .iyl]

theorem frame_setR16 (s : State) (r : R16) (v : Word) :
    Frame s (s.setR16 r v) (pairElems r) [] [] :=
  .ofElems (by cases r <;> rfl) fun e he => by
    cases r <;> cases e <;> simp_all [State.look, State.getShadow8, pairElems, State.setR16] <;>
      (rename_i q; cases q <;> simp_all [State.getR8])

theorem frame_setPc (s : State) (v : Word) : Frame s (s.setPc v) [.pc] [] [] :=
  .ofElems rfl fun e he => by cases e <;> first | rfl | exact absurd (by decide) he

theorem frame_tick (s : State) (n : Nat) : Frame s (s.tick n) [] [] [] :=
  .ofElems rfl fun e _ => by cases e <;> rfl

theorem frame_drawn (s : State) : Frame s s.drawn [] [] [] :=
  .ofElems rfl fun e _ => by cases e <;> rfl

theorem frame_setSp (s : State) (v : Word) : Frame s (s.setSp v) [.sp] [] [] :=
  .ofElems rfl fun e he => by cases e <;> first | rfl | exact absurd (by decide) he

theorem frame_setI (s : State) (v : Byte) : Frame s { s with i := v } [.i] [] [] :=
  .ofElems rfl fun e he => by cases e <;> first | rfl | exact absurd (by decide) he

theorem frame_setRefresh (s : State) (v : Byte) : Frame s { s with r := v } [.r] [] [] :=
  .ofElems rfl fun e he => by cases e <;> first | rfl | exact absurd (by decide) he

theorem frame_setIm (s : State) (v : IntMode) : Frame s { s with im := v } [.im] [] [] :=
  .ofElems rfl fun e he => by cases e <;> first | rfl | exact absurd (by decide) he

theorem frame_setHalted (s : State) (v : Bool) : Frame s { s with halted := v } [.halted] [] [] :=
  .ofElems rfl fun e he => by cases e <;> first | rfl | exact absurd (by decide) he

theorem frame_setIff1 (s : State) (v : Bool) : Frame s { s with iff1 := v } [.iff1] [] [] :=
  .ofElems rfl fun e he => by cases e <;> first | rfl | exact absurd (by decide) he

theorem frame_setIff (s : State) (v w : Bool) : Frame s { s with iff1 := v, iff2 := w } [.iff1, .iff2] [] [] :=
  .ofElems rfl fun e he => by cases e <;> first | rfl | exact absurd (by decide) he

theorem frame_setEi (s : State) (v w u : Bool) :
    Frame s { s with iff1 := v, iff2 := w, eiPending := u } [.iff1, .iff2, .eiPending] [] [] :=
  .ofElems rfl fun e he => by cases e <;> first | rfl | exact absurd (by decide) he

/-- The byte a port call writes. -/
def storedBy : PortCall → List Word
  | .memWrite a _ => [a]
  | _ => []

/-- What a port call sends. -/
def sent : PortCall → List (Byte × Byte)
  | .portOut p v => [(p, v)]
  | _ => []

/-- A port call writes the latch, and what it stores or sends (R163, R164). -/
theorem frame_called (s : State) (c : PortCall) :
    Frame s (s.called c) [.bus] (storedBy c) (sent c) where
  elems e he := by cases e <;> first | rfl | exact absurd (by decide) he
  memory a ha hd := by
    have hm : (s.called c).mem.read a.toNat = s.mem.read a.toNat := by
      rw [State.called_mem, Memory.read_after hd.next]
      cases c with
      | memWrite b v =>
        have hb : a ≠ b := by simpa [storedBy] using ha
        exact (Memory.read_write ..).trans (if_neg fun h => hb (BitVec.eq_of_toNat_eq h))
      | _ => rfl
    unfold State.byteAt
    rw [hm, State.called_params]
  wf hw := Memory.wf_after (Memory.wf_stored hw c) _
  outputs := by cases c <;> rfl
  inputs p hp := lookup_answersAfter hp.next _
  sideEffects := List.drop_suffix _ _
  intLine := rfl
  intData := rfl
  failAfter := rfl
  params := rfl
  recorded h := h.called c
  failed h := ⟨State.called_portFailed h c, State.called_atFailure h c⟩
  unfailed := State.called_unfailed

theorem frame_noteRead (s : State) (a : Word) : Frame s (s.noteRead a) [.bus] [] [] := frame_called ..

theorem frame_write (s : State) (a : Word) (v : Byte) : Frame s (s.write a v) [.bus] [a] [] :=
  frame_called ..

theorem frame_noteIn (s : State) (p : Byte) : Frame s (s.noteIn p) [.bus] [] [] := frame_called ..

theorem frame_portOut (s : State) (p v : Byte) : Frame s (s.portOut p v) [.bus] [] [(p, v)] :=
  frame_called ..

theorem frame_noteReadWord (s : State) (a : Word) : Frame s (s.noteReadWord a) [.bus] [] [] :=
  ((frame_noteRead s a).trans (frame_noteRead _ _)).mono (by simp) (by simp)

theorem frame_writeWord (s : State) (a v : Word) :
    Frame s (s.writeWord a v) [.bus] [a, a + 1#16] [] :=
  ((frame_write s a _).trans (frame_write _ _ _)).mono (by simp) (by simp)

theorem frame_push (s : State) (v : Word) :
    Frame s (s.push v) [.sp, .bus] [s.sp - 1#16, s.sp - 2#16] [] :=
  ((((frame_setSp s _).trans (frame_write _ _ _)).trans (frame_setSp _ _)).trans
    (frame_write _ _ _)).mono (by simp) (by simp)

theorem frame_pop (s : State) : Frame s s.pop [.sp, .bus] [] [] :=
  ((((frame_noteRead s _).trans (frame_setSp _ _)).trans (frame_noteRead _ _)).trans
    (frame_setSp _ _)).mono (by simp) (by simp)

theorem frame_enter (s : State) (t : Word) :
    Frame s (s.enter t) [.sp, .bus, .pc] [s.sp - 1#16, s.sp - 2#16] [] :=
  ((frame_push s s.pc).trans (frame_setPc _ _)).mono (by simp) (by simp)

/-! ## A byte read back (R165, R170) -/

theorem State.peek_of_byteAt {s : State} {a : Word} {v : Byte} (h : s.byteAt a = some v) :
    s.peek a = v := by
  unfold State.peek; rw [h]

/-- A byte written where memory keeps it is there. -/
theorem State.byteAt_write {s : State} {a : Word} (h : s.keeps a) (v : Byte) :
    (s.write a v).byteAt a = some v := by
  unfold State.byteAt
  rw [State.write_params, if_pos h.1, State.write_mem, Memory.read_after h.2.next,
    Memory.read_write, if_pos rfl]

/-- It stays there while other bytes are stored. -/
theorem Frame.byteAt {s t : State} {w : List Elem} {m : List Word} {o : List (Byte × Byte)} {a : Word}
    {v : Byte} (h : Frame s t w m o) (hv : s.byteAt a = some v) (hk : s.keeps a) (ha : a ∉ m) :
    t.byteAt a = some v := (h.memory a ha hk.2).trans hv

/-- The two bytes of a word stored at an address. -/
theorem State.writeWord_byteAt (s : State) (a v : Word) :
    (s.keeps a → (s.writeWord a v).byteAt a = some (lo v))
      ∧ (s.keeps (a + 1#16) → (s.writeWord a v).byteAt (a + 1#16) = some (hi v)) := by
  have f := frame_write s a (lo v)
  refine ⟨fun h => ?_, fun h => State.byteAt_write (f.keeps h) _⟩
  refine (frame_write _ _ _).byteAt (State.byteAt_write h _) (f.keeps h) ?_
  rw [List.mem_singleton]; bv_omega

/-- The two bytes of a word pushed on the stack. -/
theorem State.push_byteAt (s : State) (v : Word) :
    (s.keeps (s.sp - 1#16) → (s.push v).byteAt (s.sp - 1#16) = some (hi v))
      ∧ (s.keeps (s.sp - 2#16) → (s.push v).byteAt (s.sp - 2#16) = some (lo v)) := by
  have f0 := frame_setSp s (s.sp - 1#16)
  have f := (f0.trans (frame_write _ (s.sp - 1#16) (hi v))).trans (frame_setSp _ (s.sp - 2#16))
  refine ⟨fun h => ?_, fun h => State.byteAt_write (f.keeps h) _⟩
  have h1 := State.byteAt_write (f0.keeps h) (hi v)
  refine (frame_write _ _ _).byteAt (a := s.sp - 1#16) h1 (f.keeps h) ?_
  rw [List.mem_singleton]; bv_omega

end Sys2Proof.Machine
end

