-- ==== Sys2Proof/Laws/Decode.lean ====
section
/-! SUPPORT. Operand words and their bytes, and decoding of byte lists of one to four bytes, so that
no proof unfolds `decode` (mark it irreducible where `rfl` would try to). -/

namespace Sys2Proof

open Sys2Proof.Machine

/-! ## Operand words -/

@[simp] theorem loByte_wordOf (a b : Byte) : loByte (wordOf a b) = a := lo_pair b a

@[simp] theorem hiByte_wordOf (a b : Byte) : hiByte (wordOf a b) = b := hi_pair b a

@[simp] theorem wordOf_bytes (w : Word) : wordOf (loByte w) (hiByte w) = w := pair_hi_lo w

/-- What holds of the bytes 0 to 255 holds of every byte. -/
theorem forall_byte {P : Byte → Prop} (h : ∀ k, k < 256 → P (BitVec.ofNat 8 k)) (v : Byte) : P v := by
  have := h v.toNat v.isLt; rwa [BitVec.ofNat_toNat, BitVec.setWidth_eq] at this

/-! ## Decoding a list of bytes -/

/-- One byte. -/
theorem decode_one {a : Byte} {i : Instr} (h0 : loneRow [a] = none)
    (h : decode4 a 0#8 0#8 0#8 = (1, i)) : decode [a] = .ok (i, []) := by
  unfold decode; rw [h0]; simp [h]

/-- Two bytes, the first of which leads to no indexed CB table. -/
theorem decode_two {a b : Byte} {i : Instr} (h1 : a ≠ 0xDD#8) (h2 : a ≠ 0xFD#8)
    (h : decode4 a b 0#8 0#8 = (2, i)) : decode [a, b] = .ok (i, []) := by
  have h0 : loneRow [a, b] = none := by simp [loneRow, h1, h2]
  unfold decode; rw [h0]; simp [h]

/-- Two bytes, the second of which is not CB. -/
theorem decode_two_of_ne {a b : Byte} {i : Instr} (h0 : b ≠ 0xCB#8)
    (h : decode4 a b 0#8 0#8 = (2, i)) : decode [a, b] = .ok (i, []) := by
  have h0 : loneRow [a, b] = none := by simp [loneRow, h0]
  unfold decode; rw [h0]; simp [h]

/-- Three bytes. -/
theorem decode_three {a b c : Byte} {i : Instr} (h : decode4 a b c 0#8 = (3, i)) :
    decode [a, b, c] = .ok (i, []) := by
  have h0 : loneRow [a, b, c] = none := rfl
  unfold decode; rw [h0]; simp [h]

/-- Four bytes. -/
theorem decode_four {a b c d : Byte} {i : Instr} (h : decode4 a b c d = (4, i)) :
    decode [a, b, c, d] = .ok (i, []) := by
  have h0 : loneRow [a, b, c, d] = none := rfl
  unfold decode; rw [h0]; simp [h]

/-- Three bytes, the last two of which are an operand word. -/
theorem decode_three_word {a : Byte} {w : Word} (f : Word → Instr)
    (h : decode4 a (loByte w) (hiByte w) 0#8 = (3, f (wordOf (loByte w) (hiByte w)))) :
    decode [a, loByte w, hiByte w] = .ok (f w, []) := by
  rw [wordOf_bytes] at h; exact decode_three h

/-- Four bytes, the last two of which are an operand word. -/
theorem decode_four_word {a b : Byte} {w : Word} (f : Word → Instr)
    (h : decode4 a b (loByte w) (hiByte w) = (4, f (wordOf (loByte w) (hiByte w)))) :
    decode [a, b, loByte w, hiByte w] = .ok (f w, []) := by
  rw [wordOf_bytes] at h; exact decode_four h

/-- Four bytes or more: what `decode4` says of the first four, where it takes no more than there
are. -/
theorem decode_ok_of_four {a b c d : Byte} {i : Instr} {rest : List Byte}
    (h : decode [a, b, c, d] = .ok (i, rest)) :
    (decode4 a b c d).2 = i ∧ rest = [a, b, c, d].drop (decode4 a b c d).1 := by
  have h0 : loneRow [a, b, c, d] = none := rfl
  unfold decode at h
  rw [h0] at h
  simp only [List.getD_cons_zero, List.getD_cons_succ] at h
  split_ifs at h
  cases h
  exact ⟨rfl, rfl⟩

end Sys2Proof
end

