-- ==== Sys2Proof/Laws/Effects.lean ====
section
/-! SUPPORT. For each shared operation one lemma that says what it does beside its results (`Did`):
its cycles, its port calls, the latch, and what it leaves unchanged. -/

namespace Sys2Proof.Machine

variable (s : State)

/-! ## Loads -/

theorem ld8_did (dst src : R8) (cyc : Nat) : Did s (ld8 dst src cyc s) cyc [] [.r8 dst] [] [] where
  cycles := by simp [ld8]
  calls := by simp [ld8]
  effects := by simp [ld8]
  bus := by simp [ld8]
  frame := ((frame_setR8 s dst _).trans (frame_tick _ _)).mono (by simp) (by simp)

theorem ldImm8_did (dst : R8) (n : Byte) (cyc : Nat) :
    Did s (ldImm8 dst n cyc s) cyc [] [.r8 dst] [] [] where
  cycles := by simp [ldImm8]
  calls := by simp [ldImm8]
  effects := by simp [ldImm8]
  bus := by simp [ldImm8]
  frame := ((frame_setR8 s dst _).trans (frame_tick _ _)).mono (by simp) (by simp)

theorem loadByte_did (dst : R8) (a : Word) (cyc : Nat) :
    Did s (loadByte dst a cyc s) cyc [.memRead a (s.peek a)] [.r8 dst] [] [] where
  cycles := by simp [loadByte]
  calls := by simp [loadByte]
  effects := by simp [loadByte]
  bus := by simp [loadByte, portByte]
  frame := (((frame_noteRead s a).trans (frame_setR8 _ dst _)).trans (frame_tick _ _)).mono
    (by simp) (by simp)

theorem storeByte_did (a : Word) (v : Byte) (cyc : Nat) :
    Did s (storeByte a v cyc s) cyc [.memWrite a v] [] [a] [] where
  cycles := by simp [storeByte]
  calls := by simp [storeByte]
  effects := by simp [storeByte]
  bus := by simp [storeByte, portByte]
  frame := ((frame_write s a v).trans (frame_tick _ _)).mono (by simp) (by simp)

theorem ldSpecial_did (v : Byte) : Did s (ldSpecial v s) 9 [] [.r8 .a, .f] [] [] where
  cycles := by simp [ldSpecial]
  calls := by simp [ldSpecial]
  effects := by simp [ldSpecial]
  bus := by simp [ldSpecial]
  frame := (((frame_setR8 s .a _).trans (frame_setF _ _)).trans (frame_tick _ _)).mono
    (by simp) (by simp)

theorem ldImm16_did (dst : R16) (nn : Word) (cyc : Nat) :
    Did s (ldImm16 dst nn cyc s) cyc [] (pairElems dst) [] [] where
  cycles := by simp [ldImm16]
  calls := by simp [ldImm16]
  effects := by simp [ldImm16]
  bus := by simp [ldImm16]
  frame := ((frame_setR16 s dst _).trans (frame_tick _ _)).mono (by simp) (by simp)

theorem loadWord_did (dst : R16) (a : Word) (cyc : Nat) :
    Did s (loadWord dst a cyc s) cyc
      [.memRead (a + 1#16) ((s.noteRead a).peek (a + 1#16)), .memRead a (s.peek a)] (pairElems dst) [] [] where
  cycles := by simp [loadWord]
  calls := by simp [loadWord]
  effects := by simp [loadWord]
  bus := by simp [loadWord, portByte]
  frame := (((frame_noteReadWord s a).trans (frame_setR16 _ dst _)).trans (frame_tick _ _)).mono
    (by simp) (by simp)

theorem storeWord_did (a v : Word) (cyc : Nat) :
    Did s (storeWord a v cyc s) cyc [.memWrite (a + 1#16) (hi v), .memWrite a (lo v)] []
      [a, a + 1#16] [] where
  cycles := by simp [storeWord]
  calls := by simp [storeWord]
  effects := by simp [storeWord]
  bus := by simp [storeWord, portByte]
  frame := ((frame_writeWord s a v).trans (frame_tick _ _)).mono (by simp) (by simp)

theorem ldSp_did (src : R16) (cyc : Nat) : Did s (ldSp src cyc s) cyc [] [.sp] [] [] where
  cycles := by simp [ldSp]
  calls := by simp [ldSp]
  effects := by simp [ldSp]
  bus := by simp [ldSp]
  frame := ((frame_setR16 s .sp _).trans (frame_tick _ _)).mono (by simp [pairElems]) (by simp)

/-! ## Stack and exchanges -/

theorem push16_did (src : R16) (cyc : Nat) :
    Did s (push16 src cyc s) cyc
      [.memWrite (s.sp - 2#16) (lo (s.getR16 src)), .memWrite (s.sp - 1#16) (hi (s.getR16 src))]
      [.sp] [s.sp - 1#16, s.sp - 2#16] [] where
  cycles := by simp [push16]
  calls := by simp [push16]
  effects := by simp [push16]
  bus := by simp [push16, portByte]
  frame := ((frame_push s _).trans (frame_tick _ _)).mono (by simp) (by simp)

theorem pop16_did (dst : R16) (cyc : Nat) :
    Did s (pop16 dst cyc s) cyc
      [.memRead (s.sp + 1#16) ((s.noteRead s.sp).peek (s.sp + 1#16)), .memRead s.sp (s.peek s.sp)]
      (.sp :: pairElems dst) [] [] where
  cycles := by simp [pop16]
  calls := by simp [pop16]
  effects := by simp [pop16]
  bus := by simp [pop16, portByte]
  frame := (((frame_pop s).trans (frame_setR16 _ dst _)).trans (frame_tick _ _)).mono
    (by simp) (by simp)

theorem exSp_did (r : R16) (cyc : Nat) :
    Did s (exSp r cyc s) cyc
      [.memWrite s.sp (lo (s.getR16 r)), .memWrite (s.sp + 1#16) (hi (s.getR16 r)),
       .memRead (s.sp + 1#16) ((s.noteRead s.sp).peek (s.sp + 1#16)), .memRead s.sp (s.peek s.sp)]
      (pairElems r) [s.sp, s.sp + 1#16] [] where
  cycles := by simp [exSp]
  calls := by simp [exSp]
  effects := by simp [exSp]
  bus := by simp [exSp, portByte]
  frame := (((((frame_noteReadWord s s.sp).trans (frame_write _ _ _)).trans
    (frame_write _ _ _)).trans (frame_setR16 _ r _)).trans (frame_tick _ _)).mono
    (by simp) (by simp)

/-! ## Control flow -/

theorem jumpTo_did (target : Word) (cyc : Nat) :
    Did s (jumpTo target cyc s) cyc [] [.pc] [] [] where
  cycles := by simp [jumpTo]
  calls := by simp [jumpTo]
  effects := by simp [jumpTo]
  bus := by simp [jumpTo]
  frame := ((frame_setPc s _).trans (frame_tick _ _)).mono (by simp) (by simp)

theorem tick_did (cyc : Nat) : Did s (s.tick cyc) cyc [] [] [] [] where
  cycles := by simp
  calls := by simp
  effects := by simp
  bus := by simp
  frame := (frame_tick s cyc).mono (by simp) (by simp)

theorem call_did (nn : Word) (cyc : Nat) :
    Did s (call nn cyc s) cyc
      [.memWrite (s.sp - 2#16) (lo s.pc), .memWrite (s.sp - 1#16) (hi s.pc)]
      [.sp, .pc] [s.sp - 1#16, s.sp - 2#16] [] where
  cycles := by simp [call]
  calls := by simp [call, State.enter]
  effects := by simp [call, State.enter]
  bus := by simp [call, portByte]
  frame := ((frame_enter s nn).trans (frame_tick _ _)).mono (by simp) (by simp)

theorem ret_did (cyc : Nat) :
    Did s (ret cyc s) cyc
      [.memRead (s.sp + 1#16) ((s.noteRead s.sp).peek (s.sp + 1#16)), .memRead s.sp (s.peek s.sp)]
      [.sp, .pc] [] [] where
  cycles := by simp [ret]
  calls := by simp [ret]
  effects := by simp [ret]
  bus := by simp [ret, portByte]
  frame := (((frame_pop s).trans (frame_setPc _ _)).trans (frame_tick _ _)).mono
    (by simp) (by simp)

/-! ## Arithmetic, logic, rotates and bits -/

theorem alu_did (op : AluOp) (v : Byte) (cyc : Nat) :
    Did s (alu op v cyc s) cyc [] [.r8 .a, .f] [] [] where
  cycles := by simp [alu]
  calls := by simp [alu]
  effects := by simp [alu]
  bus := by simp [alu]
  frame := (((frame_setR8 s .a _).trans (frame_setF _ _)).trans (frame_tick _ _)).mono
    (by simp) (by simp)

theorem aluMem_did (op : AluOp) (a : Word) (cyc : Nat) :
    Did s (aluMem op a cyc s) cyc [.memRead a (s.peek a)] [.r8 .a, .f] [] [] where
  cycles := by simp [aluMem, alu]
  calls := by simp [aluMem, alu]
  effects := by simp [aluMem, alu]
  bus := by simp [aluMem, alu, portByte]
  frame := ((frame_noteRead s a).trans (alu_did _ op _ cyc).frame).mono (by simp) (by simp)

theorem incReg_did (r : R8) (cyc : Nat) :
    Did s (incReg r cyc s) cyc [] [.r8 r, .f] [] [] where
  cycles := by simp [incReg]
  calls := by simp [incReg]
  effects := by simp [incReg]
  bus := by simp [incReg]
  frame := (((frame_setR8 s r _).trans (frame_setF _ _)).trans (frame_tick _ _)).mono
    (by simp) (by simp)

theorem decReg_did (r : R8) (cyc : Nat) :
    Did s (decReg r cyc s) cyc [] [.r8 r, .f] [] [] where
  cycles := by simp [decReg]
  calls := by simp [decReg]
  effects := by simp [decReg]
  bus := by simp [decReg]
  frame := (((frame_setR8 s r _).trans (frame_setF _ _)).trans (frame_tick _ _)).mono
    (by simp) (by simp)

theorem modMem_did (f : Byte → Byte) (a : Word) :
    Did s (modMem f a s) 0 [.memWrite a (f (s.peek a)), .memRead a (s.peek a)] [] [a] [] where
  cycles := by simp [modMem]
  calls := by simp [modMem]
  effects := by simp [modMem]
  bus := by simp [modMem, portByte]
  frame := ((frame_noteRead s a).trans (frame_write _ _ _)).mono (by simp) (by simp)

theorem incMem_did (a : Word) (cyc : Nat) :
    Did s (incMem a cyc s) cyc
      [.memWrite a (inc8 (s.peek a) s.main.f).1, .memRead a (s.peek a)] [.f] [a] [] where
  cycles := by simp [incMem]
  calls := by simp [incMem]
  effects := by simp [incMem]
  bus := by simp [incMem, portByte]
  frame := ((((frame_noteRead s a).trans (frame_write _ _ _)).trans (frame_setF _ _)).trans
    (frame_tick _ _)).mono (by simp) (by simp)

theorem decMem_did (a : Word) (cyc : Nat) :
    Did s (decMem a cyc s) cyc
      [.memWrite a (dec8 (s.peek a) s.main.f).1, .memRead a (s.peek a)] [.f] [a] [] where
  cycles := by simp [decMem]
  calls := by simp [decMem]
  effects := by simp [decMem]
  bus := by simp [decMem, portByte]
  frame := ((((frame_noteRead s a).trans (frame_write _ _ _)).trans (frame_setF _ _)).trans
    (frame_tick _ _)).mono (by simp) (by simp)

theorem addPair_did (dst src : R16) (cyc : Nat) :
    Did s (addPair dst src cyc s) cyc [] (.f :: pairElems dst) [] [] where
  cycles := by simp [addPair]
  calls := by simp [addPair]
  effects := by simp [addPair]
  bus := by simp [addPair]
  frame := (((frame_setR16 s dst _).trans (frame_setF _ _)).trans (frame_tick _ _)).mono
    (by simp) (by simp)

theorem incPair_did (r : R16) (cyc : Nat) :
    Did s (incPair r cyc s) cyc [] (pairElems r) [] [] where
  cycles := by simp [incPair]
  calls := by simp [incPair]
  effects := by simp [incPair]
  bus := by simp [incPair]
  frame := ((frame_setR16 s r _).trans (frame_tick _ _)).mono (by simp) (by simp)

theorem decPair_did (r : R16) (cyc : Nat) :
    Did s (decPair r cyc s) cyc [] (pairElems r) [] [] where
  cycles := by simp [decPair]
  calls := by simp [decPair]
  effects := by simp [decPair]
  bus := by simp [decPair]
  frame := ((frame_setR16 s r _).trans (frame_tick _ _)).mono (by simp) (by simp)

theorem adcHl_did (src : R16) :
    Did s (adcHl src s) 15 [] [.r8 .h, .r8 .l, .f] [] [] where
  cycles := by simp [adcHl]
  calls := by simp [adcHl]
  effects := by simp [adcHl]
  bus := by simp [adcHl]
  frame := (((frame_setR16 s .hl _).trans (frame_setF _ _)).trans (frame_tick _ _)).mono
    (by simp [pairElems]) (by simp)

theorem sbcHl_did (src : R16) :
    Did s (sbcHl src s) 15 [] [.r8 .h, .r8 .l, .f] [] [] where
  cycles := by simp [sbcHl]
  calls := by simp [sbcHl]
  effects := by simp [sbcHl]
  bus := by simp [sbcHl]
  frame := (((frame_setR16 s .hl _).trans (frame_setF _ _)).trans (frame_tick _ _)).mono
    (by simp [pairElems]) (by simp)

theorem rotA_did (op : RotOp) (cyc : Nat) :
    Did s (rotA op cyc s) cyc [] [.r8 .a, .f] [] [] where
  cycles := by simp [rotA]
  calls := by simp [rotA]
  effects := by simp [rotA]
  bus := by simp [rotA]
  frame := (((frame_setR8 s .a _).trans (frame_setF _ _)).trans (frame_tick _ _)).mono
    (by simp) (by simp)

theorem rotReg_did (op : RotOp) (r : R8) :
    Did s (rotReg op r s) 8 [] [.r8 r, .f] [] [] where
  cycles := by simp [rotReg]
  calls := by simp [rotReg]
  effects := by simp [rotReg]
  bus := by simp [rotReg]
  frame := (((frame_setR8 s r _).trans (frame_setF _ _)).trans (frame_tick _ _)).mono
    (by simp) (by simp)

theorem rotMem_did (op : RotOp) (a : Word) (cyc : Nat) :
    Did s (rotMem op a cyc s) cyc
      [.memWrite a (rot op (s.peek a) (s.main.f.getLsbD 0)).1, .memRead a (s.peek a)]
      [.f] [a] [] where
  cycles := by simp [rotMem, modMem]
  calls := by simp [rotMem, modMem]
  effects := by simp [rotMem, modMem]
  bus := by simp [rotMem, modMem, portByte]
  frame := (((modMem_did s _ a).frame.trans (frame_setF _ _)).trans (frame_tick _ _)).mono
    (by simp) (by simp)

theorem rotMemCopy_did (op : RotOp) (a : Word) (r : R8) :
    Did s (rotMemCopy op a r s) 23
      [.memWrite a (rot op (s.peek a) (s.main.f.getLsbD 0)).1, .memRead a (s.peek a)]
      [.r8 r, .f] [a] [] where
  cycles := by simp [rotMemCopy, modMem]
  calls := by simp [rotMemCopy, modMem]
  effects := by simp [rotMemCopy, modMem]
  bus := by simp [rotMemCopy, modMem, portByte]
  frame := ((((modMem_did s _ a).frame.trans (frame_setR8 _ r _)).trans (frame_setF _ _)).trans
    (frame_tick _ _)).mono (by simp) (by simp)

theorem bitReg_did (b : Fin 8) (r : R8) : Did s (bitReg b r s) 8 [] [.f] [] [] where
  cycles := by simp [bitReg]
  calls := by simp [bitReg]
  effects := by simp [bitReg]
  bus := by simp [bitReg]
  frame := ((frame_setF s _).trans (frame_tick _ _)).mono (by simp) (by simp)

theorem bitMem_did (b : Fin 8) (a : Word) :
    Did s (bitMem b a s) 20 [.memRead a (s.peek a)] [.f] [] [] where
  cycles := by simp [bitMem]
  calls := by simp [bitMem]
  effects := by simp [bitMem]
  bus := by simp [bitMem, portByte]
  frame := (((frame_noteRead s a).trans (frame_setF _ _)).trans (frame_tick _ _)).mono
    (by simp) (by simp)

theorem resReg_did (b : Fin 8) (r : R8) : Did s (resReg b r s) 8 [] [.r8 r] [] [] where
  cycles := by simp [resReg]
  calls := by simp [resReg]
  effects := by simp [resReg]
  bus := by simp [resReg]
  frame := ((frame_setR8 s r _).trans (frame_tick _ _)).mono (by simp) (by simp)

theorem setReg_did (b : Fin 8) (r : R8) : Did s (setReg b r s) 8 [] [.r8 r] [] [] where
  cycles := by simp [setReg]
  calls := by simp [setReg]
  effects := by simp [setReg]
  bus := by simp [setReg]
  frame := ((frame_setR8 s r _).trans (frame_tick _ _)).mono (by simp) (by simp)

theorem resMem_did (b : Fin 8) (a : Word) (cyc : Nat) :
    Did s (resMem b a cyc s) cyc [.memWrite a (resBit b (s.peek a)), .memRead a (s.peek a)]
      [] [a] [] where
  cycles := by simp [resMem, modMem]
  calls := by simp [resMem, modMem]
  effects := by simp [resMem, modMem]
  bus := by simp [resMem, modMem, portByte]
  frame := ((modMem_did s _ a).frame.trans (frame_tick _ _)).mono (by simp) (by simp)

theorem setMem_did (b : Fin 8) (a : Word) (cyc : Nat) :
    Did s (setMem b a cyc s) cyc [.memWrite a (setBit b (s.peek a)), .memRead a (s.peek a)]
      [] [a] [] where
  cycles := by simp [setMem, modMem]
  calls := by simp [setMem, modMem]
  effects := by simp [setMem, modMem]
  bus := by simp [setMem, modMem, portByte]
  frame := ((modMem_did s _ a).frame.trans (frame_tick _ _)).mono (by simp) (by simp)

theorem resMemCopy_did (b : Fin 8) (a : Word) (r : R8) :
    Did s (resMemCopy b a r s) 23 [.memWrite a (resBit b (s.peek a)), .memRead a (s.peek a)]
      [.r8 r] [a] [] where
  cycles := by simp [resMemCopy, modMem]
  calls := by simp [resMemCopy, modMem]
  effects := by simp [resMemCopy, modMem]
  bus := by simp [resMemCopy, modMem, portByte]
  frame := (((modMem_did s _ a).frame.trans (frame_setR8 _ r _)).trans (frame_tick _ _)).mono
    (by simp) (by simp)

theorem setMemCopy_did (b : Fin 8) (a : Word) (r : R8) :
    Did s (setMemCopy b a r s) 23 [.memWrite a (setBit b (s.peek a)), .memRead a (s.peek a)]
      [.r8 r] [a] [] where
  cycles := by simp [setMemCopy, modMem]
  calls := by simp [setMemCopy, modMem]
  effects := by simp [setMemCopy, modMem]
  bus := by simp [setMemCopy, modMem, portByte]
  frame := (((modMem_did s _ a).frame.trans (frame_setR8 _ r _)).trans (frame_tick _ _)).mono
    (by simp) (by simp)

/-! ## Input and output -/

theorem inA_did (n : Byte) (cyc : Nat) :
    Did s (inA n cyc s) cyc [.portIn n (s.portValue n)] [.r8 .a] [] [] where
  cycles := by simp [inA]
  calls := by simp [inA]
  effects := by simp [inA]
  bus := by simp [inA, portByte]
  frame := (((frame_noteIn s n).trans (frame_setR8 _ .a _)).trans (frame_tick _ _)).mono
    (by simp) (by simp)

theorem inReg_did (dst : R8) :
    Did s (inReg dst s) 12 [.portIn s.main.c (s.portValue s.main.c)] [.r8 dst, .f] [] [] where
  cycles := by simp [inReg]
  calls := by simp [inReg]
  effects := by simp [inReg]
  bus := by simp [inReg, portByte]
  frame := ((((frame_noteIn s _).trans (frame_setR8 _ dst _)).trans (frame_setF _ _)).trans
    (frame_tick _ _)).mono (by simp) (by simp)

theorem inF_did :
    Did s (inF s) 12 [.portIn s.main.c (s.portValue s.main.c)] [.f] [] [] where
  cycles := by simp [inF]
  calls := by simp [inF]
  effects := by simp [inF]
  bus := by simp [inF, portByte]
  frame := (((frame_noteIn s _).trans (frame_setF _ _)).trans (frame_tick _ _)).mono
    (by simp) (by simp)

theorem outPort_did (p v : Byte) (cyc : Nat) :
    Did s (outPort p v cyc s) cyc [.portOut p v] [] [] [(p, v)] where
  cycles := by simp [outPort]
  calls := by simp [outPort]
  effects := by simp [outPort]
  bus := by simp [outPort, portByte]
  frame := ((frame_portOut s p v).trans (frame_tick _ _)).mono (by simp) (by simp)

/-! ## Adjustments, digits and BIT b,(HL) -/

theorem daa_did (cyc : Nat) : Did s (daa cyc s) cyc [] [.r8 .a, .f] [] [] where
  cycles := by simp [daa]
  calls := by simp [daa]
  effects := by simp [daa]
  bus := by simp [daa]
  frame := (((frame_setR8 s .a _).trans (frame_setF _ _)).trans (frame_tick _ _)).mono
    (by simp) (by simp)

theorem cpl_did (cyc : Nat) : Did s (cpl cyc s) cyc [] [.r8 .a, .f] [] [] where
  cycles := by simp [cpl]
  calls := by simp [cpl]
  effects := by simp [cpl]
  bus := by simp [cpl]
  frame := (((frame_setR8 s .a _).trans (frame_setF _ _)).trans (frame_tick _ _)).mono
    (by simp) (by simp)

theorem neg_did : Did s (neg s) 8 [] [.r8 .a, .f] [] [] where
  cycles := by simp [neg]
  calls := by simp [neg]
  effects := by simp [neg]
  bus := by simp [neg]
  frame := (((frame_setR8 s .a _).trans (frame_setF _ _)).trans (frame_tick _ _)).mono
    (by simp) (by simp)

theorem ccf_did (cyc : Nat) : Did s (ccf cyc s) cyc [] [.f] [] [] where
  cycles := by simp [ccf]
  calls := by simp [ccf]
  effects := by simp [ccf]
  bus := by simp [ccf]
  frame := ((frame_setF s _).trans (frame_tick _ _)).mono (by simp) (by simp)

theorem scf_did (cyc : Nat) : Did s (scf cyc s) cyc [] [.f] [] [] where
  cycles := by simp [scf]
  calls := by simp [scf]
  effects := by simp [scf]
  bus := by simp [scf]
  frame := ((frame_setF s _).trans (frame_tick _ _)).mono (by simp) (by simp)

theorem rld_did : Did s (rld s) 18
    [.memWrite s.hl ((s.peek s.hl <<< 4) ||| (s.main.a &&& 0x0F#8)), .memRead s.hl (s.peek s.hl)]
    [.r8 .a, .f] [s.hl] [] where
  cycles := by simp [rld, modMem]
  calls := by simp [rld, modMem]
  effects := by simp [rld, modMem]
  bus := by simp [rld, modMem, portByte]
  frame := ((((modMem_did s _ s.hl).frame.trans (frame_setR8 _ .a _)).trans (frame_setF _ _)).trans
    (frame_tick _ _)).mono (by simp) (by simp)

theorem rrd_did : Did s (rrd s) 18
    [.memWrite s.hl (((s.main.a &&& 0x0F#8) <<< 4) ||| (s.peek s.hl >>> 4)), .memRead s.hl (s.peek s.hl)]
    [.r8 .a, .f] [s.hl] [] where
  cycles := by simp [rrd, modMem]
  calls := by simp [rrd, modMem]
  effects := by simp [rrd, modMem]
  bus := by simp [rrd, modMem, portByte]
  frame := ((((modMem_did s _ s.hl).frame.trans (frame_setR8 _ .a _)).trans (frame_setF _ _)).trans
    (frame_tick _ _)).mono (by simp) (by simp)

theorem bitHl_did (b : Fin 8) :
    Did s (bitHl b s) 12 [.memRead s.hl (s.peek s.hl)] [.f] [] [] where
  cycles := by simp [bitHl]
  calls := by simp [bitHl]
  effects := by simp [bitHl]
  bus := by simp [bitHl, portByte]
  frame := ((((frame_noteRead s s.hl).trans (frame_drawn _)).trans (frame_setF _ _)).trans
    (frame_tick _ _)).mono (by simp) (by simp)

/-! ## Control state, exchanges and the block instructions -/

theorem djnz_did (e : Byte) (x : Nat) :
    if s.main.b = 1#8 then Did s (djnz e x s) (8 + x) [] [.r8 .b] [] []
    else Did s (djnz e x s) (13 + x) [] [.r8 .b, .pc] [] [] := by
  have hb : (s.setR8 .b (s.main.b - 1#8)).main.b = s.main.b - 1#8 := rfl
  have h0 : s.main.b - 1#8 = 0#8 ↔ s.main.b = 1#8 := by bv_omega
  by_cases h : s.main.b = 1#8
  · rw [if_pos h]
    have hd : djnz e x s = (s.setR8 .b (s.main.b - 1#8)).tick (8 + x) := by
      simp only [djnz]; rw [if_pos (by rw [hb, h0]; exact h)]
    rw [hd]
    exact ⟨by simp, by simp, by simp, by simp,
      ((frame_setR8 s .b _).trans (frame_tick _ _)).mono (by simp) (by simp)⟩
  · rw [if_neg h]
    have hd : djnz e x s = jumpRel e (13 + x) (s.setR8 .b (s.main.b - 1#8)) := by
      simp only [djnz]; rw [if_neg (by rw [hb, h0]; exact h)]
    rw [hd, jumpRel, jumpTo]
    exact ⟨by simp, by simp, by simp, by simp,
      (((frame_setR8 s .b _).trans (frame_setPc _ _)).trans (frame_tick _ _)).mono
        (by simp) (by simp)⟩

theorem retInt_did :
    Did s (retInt s) 14
      [.memRead (s.sp + 1#16) ((s.noteRead s.sp).peek (s.sp + 1#16)), .memRead s.sp (s.peek s.sp)]
      [.sp, .pc, .iff1] [] [] where
  cycles := by simp [retInt, State.returnFromInterrupt]
  calls := by simp [retInt, State.returnFromInterrupt]
  effects := by simp [retInt, State.returnFromInterrupt]
  bus := by simp [retInt, State.returnFromInterrupt, portByte]
  frame := ((((frame_pop s).trans (frame_setPc _ _)).trans (frame_setIff1 _ _)).trans
    (frame_tick _ _)).mono (by simp) (by simp)

theorem ldIA_did : Did s (ldIA s) 9 [] [.i] [] [] where
  cycles := by simp [ldIA]
  calls := by simp [ldIA]
  effects := by simp [ldIA]
  bus := by simp [ldIA]
  frame := ((frame_setI s _).trans (frame_tick _ _)).mono (by simp) (by simp)

theorem ldRA_did : Did s (ldRA s) 9 [] [.r] [] [] where
  cycles := by simp [ldRA]
  calls := by simp [ldRA]
  effects := by simp [ldRA]
  bus := by simp [ldRA]
  frame := ((frame_setRefresh s _).trans (frame_tick _ _)).mono (by simp) (by simp)

theorem halt_did (cyc : Nat) : Did s (halt cyc s) cyc [] [.halted] [] [] where
  cycles := by simp [halt]
  calls := by simp [halt]
  effects := by simp [halt]
  bus := by simp [halt]
  frame := ((frame_setHalted s _).trans (frame_tick _ _)).mono (by simp) (by simp)

theorem di_did (cyc : Nat) : Did s (di cyc s) cyc [] [.iff1, .iff2] [] [] where
  cycles := by simp [di]
  calls := by simp [di]
  effects := by simp [di]
  bus := by simp [di]
  frame := ((frame_setIff s _ _).trans (frame_tick _ _)).mono (by simp) (by simp)

theorem ei_did (cyc : Nat) : Did s (ei cyc s) cyc [] [.iff1, .iff2, .eiPending] [] [] where
  cycles := by simp [ei]
  calls := by simp [ei]
  effects := by simp [ei]
  bus := by simp [ei]
  frame := ((frame_setEi s _ _ _).trans (frame_tick _ _)).mono (by simp) (by simp)

theorem setIm_did (m : IntMode) : Did s (setIm m s) 8 [] [.im] [] [] where
  cycles := by simp [setIm]
  calls := by simp [setIm]
  effects := by simp [setIm]
  bus := by simp [setIm]
  frame := ((frame_setIm s _).trans (frame_tick _ _)).mono (by simp) (by simp)

theorem exDeHl_did (cyc : Nat) :
    Did s (exDeHl cyc s) cyc [] [.r8 .d, .r8 .e, .r8 .h, .r8 .l] [] [] where
  cycles := by simp [exDeHl]
  calls := by simp [exDeHl]
  effects := by simp [exDeHl]
  bus := by simp [exDeHl]
  frame := (((frame_setR16 s .de _).trans (frame_setR16 _ .hl _)).trans (frame_tick _ _)).mono
    (by simp [pairElems]) (by simp)

theorem exAf_did (cyc : Nat) :
    Did s (exAf cyc s) cyc [] [.r8 .a, .f, .shadow .a, .shadow .f] [] [] where
  cycles := rfl
  calls := rfl
  effects := rfl
  bus := rfl
  frame := .ofElems rfl fun e he => by
    cases e with
    | r8 r => cases r <;> first | rfl | exact absurd (by decide) he
    | shadow r => cases r <;> first | rfl | exact absurd (by decide) he
    | _ => first | rfl | exact absurd (by decide) he

theorem exx_did (cyc : Nat) :
    Did s (exx cyc s) cyc [] [.r8 .b, .r8 .c, .r8 .d, .r8 .e, .r8 .h, .r8 .l, .shadow .b,
      .shadow .c, .shadow .d, .shadow .e, .shadow .h, .shadow .l] [] [] where
  cycles := rfl
  calls := rfl
  effects := rfl
  bus := rfl
  frame := .ofElems rfl fun e he => by
    cases e with
    | r8 r => cases r <;> first | rfl | exact absurd (by decide) he
    | shadow r => cases r <;> first | rfl | exact absurd (by decide) he
    | _ => rfl

theorem transfer_did (up : Bool) :
    Did s (transfer up s) 0
      [.memWrite (s.getR16 .de) (s.peek s.hl), .memRead s.hl (s.peek s.hl)]
      [.r8 .b, .r8 .c, .r8 .d, .r8 .e, .r8 .h, .r8 .l, .f] [s.getR16 .de] [] where
  cycles := by simp [transfer]
  calls := by simp [transfer]
  effects := by simp [transfer]
  bus := by simp [transfer, portByte]
  frame := ((((((frame_noteRead s _).trans (frame_write _ _ _)).trans (frame_setR16 _ .hl _)).trans
    (frame_setR16 _ .de _)).trans (frame_setR16 _ .bc _)).trans (frame_setF _ _)).mono
    (by simp [pairElems]) (by simp)

theorem search_did (up : Bool) :
    Did s (search up s) 0 [.memRead s.hl (s.peek s.hl)]
      [.r8 .b, .r8 .c, .r8 .h, .r8 .l, .f] [] [] where
  cycles := by simp [search]
  calls := by simp [search]
  effects := by simp [search]
  bus := by simp [search, portByte]
  frame := ((((frame_noteRead s _).trans (frame_setR16 _ .hl _)).trans (frame_setR16 _ .bc _)).trans
    (frame_setF _ _)).mono (by simp [pairElems]) (by simp)

theorem blockIn_did (up : Bool) :
    Did s (blockIn up s) 0
      [.memWrite s.hl (s.portValue s.main.c), .portIn s.main.c (s.portValue s.main.c)]
      [.r8 .b, .r8 .h, .r8 .l, .f] [s.hl] [] where
  cycles := by simp [blockIn]
  calls := by simp [blockIn]
  effects := by simp [blockIn]
  bus := by simp [blockIn, portByte]
  frame := (((((frame_noteIn s _).trans (frame_write _ _ _)).trans (frame_setR16 _ .hl _)).trans
    (frame_setR8 _ .b _)).trans (frame_setF _ _)).mono (by simp [pairElems]) (by simp)

theorem blockOut_did (up : Bool) :
    Did s (blockOut up s) 0
      [.portOut s.main.c (s.peek s.hl), .memRead s.hl (s.peek s.hl)]
      [.r8 .b, .r8 .h, .r8 .l, .f] [] [(s.main.c, s.peek s.hl)] where
  cycles := by simp [blockOut]
  calls := by simp [blockOut]
  effects := by simp [blockOut]
  bus := by simp [blockOut, portByte]
  frame := (((((frame_noteRead s _).trans (frame_setR8 _ .b _)).trans (frame_portOut _ _ _)).trans
    (frame_setR16 _ .hl _)).trans (frame_setF _ _)).mono (by simp [pairElems]) (by simp)

/-- The end of an iteration: 16 cycles, or PC back by 2 and 21 cycles. -/
theorem repeatIf_did {s t : State} {made : List PortCall} {w : List Elem} {m : List Word}
    {o : List (Byte × Byte)} (again : Bool) (h : Did s t 0 made w m o) :
    Did s (repeatIf again t) (if again then 21 else 16) made (w ++ [.pc]) m o where
  cycles := by cases again <;> simp [repeatIf, h.cycles]
  calls := by cases again <;> simp [repeatIf, h.calls]
  effects := by cases again <;> simp [repeatIf, h.effects]
  bus := by cases again <;> exact h.bus
  frame := by
    cases again
    · exact (h.frame.trans (frame_tick t 16)).mono (by simp) (by simp)
    · exact ((h.frame.trans (frame_setPc t _)).trans (frame_tick _ 21)).mono (by simp) (by simp)

end Sys2Proof.Machine
end

