-- ==== Sys2Proof/Laws/Exec.lean ====
section
/-! SUPPORT. What `exec` can answer, said once for every instruction that does not go on with the
dispatch (`exec_answers`): a next state, or a next state unless a port failed, and which elements of
the register file it may have written. -/

set_option linter.style.nameCheck false

namespace Sys2Proof.Machine

/-- The rows that go on with the dispatch (R232 to R236). -/
def onward : Instr → Bool
  | .prefix_cb => true
  | .prefix_ed => true
  | .prefix_dd => true
  | .prefix_fd => true
  | .prefix_ddcb => true
  | .prefix_fdcb => true
  | .prefix_dd__supersedes _ => true
  | .prefix_fd__supersedes _ => true
  | .prefix_ed__index_prefix_dropped _ => true
  | _ => false

/-- What most instructions may write. -/
def commonWrites : List Elem :=
  [.r8 .a, .r8 .b, .r8 .c, .r8 .d, .r8 .e, .r8 .h, .r8 .l, .r8 .ixh, .r8 .ixl, .r8 .iyh, .r8 .iyl, .f,
   .sp, .pc]

/-- What EXX writes. -/
def exxWrites : List Elem :=
  [.r8 .b, .r8 .c, .r8 .d, .r8 .e, .r8 .h, .r8 .l, .shadow .b, .shadow .c, .shadow .d, .shadow .e,
   .shadow .h, .shadow .l]

/-- What an instruction may write. -/
def mayWrite : Instr → List Elem
  | .halt _ => [.halted]
  | .di _ => [.iff1, .iff2]
  | .ei _ => [.iff1, .iff2, .eiPending]
  | .im_0 _ => [.im]
  | .im_1 _ => [.im]
  | .im_2 _ => [.im]
  | .ld_i_a => [.i]
  | .ld_r_a => [.r]
  | .reti => [.sp, .pc, .iff1]
  | .retn _ => [.sp, .pc, .iff1]
  | .ex_af_af _ => [.r8 .a, .f, .shadow .a, .shadow .f]
  | .exx _ => exxWrites
  | _ => commonWrites

/-- `exec` answers a next state, or what `finish` makes of one; it wrote at most the elements named.
-/
def Answers (i : Instr) (s : State) (w : List Elem) : Prop :=
  ∃ t cyc made m o, Did s t cyc made w m o
    ∧ (exec i s = .next t ∧ made = [] ∨ exec i s = finish t)

variable {i : Instr} {s t : State}

theorem Answers.next {cyc : Nat} {w w' : List Elem} {m : List Word} {o : List (Byte × Byte)}
    (h : exec i s = .next t) (d : Did s t cyc [] w m o)
    (hw : w.all (fun e => w'.contains e) = true) : Answers i s w' :=
  ⟨t, cyc, [], m, o, d.widen (fun e he => .inl (by
    simpa using List.all_eq_true.1 hw e he)), .inl ⟨h, rfl⟩⟩

theorem Answers.fin {cyc : Nat} {made : List PortCall} {w w' : List Elem} {m : List Word}
    {o : List (Byte × Byte)} (h : exec i s = finish t) (d : Did s t cyc made w m o)
    (hw : w.all (fun e => w'.contains e) = true) : Answers i s w' :=
  ⟨t, cyc, made, m, o, d.widen (fun e he => .inl (by
    simpa using List.all_eq_true.1 hw e he)), .inr h⟩

/-! ## For each shared operation -/

theorem answers_nop {cyc : Nat} (h : exec i s = .next (nop cyc s)) : Answers i s commonWrites :=
  .next h (tick_did s cyc) rfl

theorem answers_ld8 {dst src : R8} {cyc : Nat}
    (h : exec i s = .next (ld8 dst src cyc s)) : Answers i s commonWrites := by
  cases dst <;> exact .next h (ld8_did s _ _ _) rfl

theorem answers_ldImm8 {dst : R8} {n : Byte} {cyc : Nat}
    (h : exec i s = .next (ldImm8 dst n cyc s)) : Answers i s commonWrites := by
  cases dst <;> exact .next h (ldImm8_did s _ _ _) rfl

theorem answers_loadByte {dst : R8} {a : Word} {cyc : Nat}
    (h : exec i s = finish (loadByte dst a cyc s)) : Answers i s commonWrites := by
  cases dst <;> exact .fin h (loadByte_did s _ _ _) rfl

theorem answers_storeByte {a : Word} {v : Byte} {cyc : Nat}
    (h : exec i s = finish (storeByte a v cyc s)) : Answers i s commonWrites :=
  .fin h (storeByte_did s a v cyc) rfl

theorem answers_ldSpecial {v : Byte}
    (h : exec i s = .next (ldSpecial v s)) : Answers i s commonWrites :=
  .next h (ldSpecial_did s v) rfl

theorem answers_ldIA (h : exec i s = .next (ldIA s)) : Answers i s [.i] :=
  .next h (ldIA_did s) rfl

theorem answers_ldRA (h : exec i s = .next (ldRA s)) : Answers i s [.r] :=
  .next h (ldRA_did s) rfl

theorem answers_ldImm16 {dst : R16} {nn : Word} {cyc : Nat}
    (h : exec i s = .next (ldImm16 dst nn cyc s)) : Answers i s commonWrites := by
  cases dst <;> exact .next h (ldImm16_did s _ _ _) rfl

theorem answers_loadWord {dst : R16} {a : Word} {cyc : Nat}
    (h : exec i s = finish (loadWord dst a cyc s)) : Answers i s commonWrites := by
  cases dst <;> exact .fin h (loadWord_did s _ _ _) rfl

theorem answers_storeWord {a v : Word} {cyc : Nat}
    (h : exec i s = finish (storeWord a v cyc s)) : Answers i s commonWrites :=
  .fin h (storeWord_did s a v cyc) rfl

theorem answers_ldSp {src : R16} {cyc : Nat}
    (h : exec i s = .next (ldSp src cyc s)) : Answers i s commonWrites :=
  .next h (ldSp_did s src cyc) rfl

theorem answers_push16 {src : R16} {cyc : Nat}
    (h : exec i s = finish (push16 src cyc s)) : Answers i s commonWrites :=
  .fin h (push16_did s src cyc) rfl

theorem answers_pop16 {dst : R16} {cyc : Nat}
    (h : exec i s = finish (pop16 dst cyc s)) : Answers i s commonWrites := by
  cases dst <;> exact .fin h (pop16_did s _ _) rfl

theorem answers_exSp {r : R16} {cyc : Nat}
    (h : exec i s = finish (exSp r cyc s)) : Answers i s commonWrites := by
  cases r <;> exact .fin h (exSp_did s _ _) rfl

theorem answers_exDeHl {cyc : Nat}
    (h : exec i s = .next (exDeHl cyc s)) : Answers i s commonWrites :=
  .next h (exDeHl_did s cyc) rfl

theorem answers_exAf {cyc : Nat}
    (h : exec i s = .next (exAf cyc s)) : Answers i s [.r8 .a, .f, .shadow .a, .shadow .f] :=
  .next h (exAf_did s cyc) rfl

theorem answers_exx {cyc : Nat} (h : exec i s = .next (exx cyc s)) : Answers i s exxWrites :=
  .next h (exx_did s cyc) rfl

theorem answers_jumpTo {a : Word} {cyc : Nat}
    (h : exec i s = .next (jumpTo a cyc s)) : Answers i s commonWrites :=
  .next h (jumpTo_did s a cyc) rfl

theorem answers_jumpRel {e : Byte} {cyc : Nat}
    (h : exec i s = .next (jumpRel e cyc s)) : Answers i s commonWrites :=
  .next h (jumpTo_did s _ cyc) rfl

theorem answers_jumpIf {cc : Cond} {nn : Word} {cyc : Nat}
    (h : exec i s = .next (jumpIf cc nn cyc s)) : Answers i s commonWrites := by
  unfold jumpIf at h
  split at h
  · exact .next h (jumpTo_did s nn cyc) rfl
  · exact .next h (tick_did s _) rfl

theorem answers_jumpRelIf {cc : Cond} {e : Byte} {x : Nat}
    (h : exec i s = .next (jumpRelIf cc e x s)) : Answers i s commonWrites := by
  unfold jumpRelIf at h
  split at h
  · exact .next h (jumpTo_did s _ _) rfl
  · exact .next h (tick_did s _) rfl

theorem answers_djnz {e : Byte} {x : Nat}
    (h : exec i s = .next (djnz e x s)) : Answers i s commonWrites := by
  have d := djnz_did s e x
  split at d
  · exact .next h d rfl
  · exact .next h d rfl

theorem answers_call {nn : Word} {cyc : Nat}
    (h : exec i s = finish (call nn cyc s)) : Answers i s commonWrites :=
  .fin h (call_did s nn cyc) rfl

theorem answers_callIf {cc : Cond} {nn : Word} {x : Nat}
    (h : exec i s = finish (callIf cc nn x s)) : Answers i s commonWrites := by
  unfold callIf at h
  split at h
  · exact .fin h (call_did s nn _) rfl
  · exact .fin h (tick_did s _) rfl

theorem answers_ret {cyc : Nat} (h : exec i s = finish (ret cyc s)) : Answers i s commonWrites :=
  .fin h (ret_did s cyc) rfl

theorem answers_retIf {cc : Cond} {x : Nat}
    (h : exec i s = finish (retIf cc x s)) : Answers i s commonWrites := by
  unfold retIf at h
  split at h
  · exact .fin h (ret_did s _) rfl
  · exact .fin h (tick_did s _) rfl

theorem answers_retInt (h : exec i s = finish (retInt s)) : Answers i s [.sp, .pc, .iff1] :=
  .fin h (retInt_did s) rfl

theorem answers_halt {cyc : Nat} (h : exec i s = .next (halt cyc s)) : Answers i s [.halted] :=
  .next h (halt_did s cyc) rfl

theorem answers_di {cyc : Nat} (h : exec i s = .next (di cyc s)) : Answers i s [.iff1, .iff2] :=
  .next h (di_did s cyc) rfl

theorem answers_ei {cyc : Nat}
    (h : exec i s = .next (ei cyc s)) : Answers i s [.iff1, .iff2, .eiPending] :=
  .next h (ei_did s cyc) rfl

theorem answers_setIm {m : IntMode} (h : exec i s = .next (setIm m s)) : Answers i s [.im] :=
  .next h (setIm_did s m) rfl

theorem answers_alu {op : AluOp} {v : Byte} {cyc : Nat}
    (h : exec i s = .next (alu op v cyc s)) : Answers i s commonWrites :=
  .next h (alu_did s op v cyc) rfl

theorem answers_aluMem {op : AluOp} {a : Word} {cyc : Nat}
    (h : exec i s = finish (aluMem op a cyc s)) : Answers i s commonWrites :=
  .fin h (aluMem_did s op a cyc) rfl

theorem answers_incReg {r : R8} {cyc : Nat}
    (h : exec i s = .next (incReg r cyc s)) : Answers i s commonWrites := by
  cases r <;> exact .next h (incReg_did s _ _) rfl

theorem answers_decReg {r : R8} {cyc : Nat}
    (h : exec i s = .next (decReg r cyc s)) : Answers i s commonWrites := by
  cases r <;> exact .next h (decReg_did s _ _) rfl

theorem answers_incMem {a : Word} {cyc : Nat}
    (h : exec i s = finish (incMem a cyc s)) : Answers i s commonWrites :=
  .fin h (incMem_did s a cyc) rfl

theorem answers_decMem {a : Word} {cyc : Nat}
    (h : exec i s = finish (decMem a cyc s)) : Answers i s commonWrites :=
  .fin h (decMem_did s a cyc) rfl

theorem answers_daa {cyc : Nat} (h : exec i s = .next (daa cyc s)) : Answers i s commonWrites :=
  .next h (daa_did s cyc) rfl

theorem answers_cpl {cyc : Nat} (h : exec i s = .next (cpl cyc s)) : Answers i s commonWrites :=
  .next h (cpl_did s cyc) rfl

theorem answers_neg (h : exec i s = .next (neg s)) : Answers i s commonWrites :=
  .next h (neg_did s) rfl

theorem answers_ccf {cyc : Nat} (h : exec i s = .next (ccf cyc s)) : Answers i s commonWrites :=
  .next h (ccf_did s cyc) rfl

theorem answers_scf {cyc : Nat} (h : exec i s = .next (scf cyc s)) : Answers i s commonWrites :=
  .next h (scf_did s cyc) rfl

theorem answers_addPair {dst src : R16} {cyc : Nat}
    (h : exec i s = .next (addPair dst src cyc s)) : Answers i s commonWrites := by
  cases dst <;> exact .next h (addPair_did s _ _ _) rfl

theorem answers_adcHl {src : R16}
    (h : exec i s = .next (adcHl src s)) : Answers i s commonWrites :=
  .next h (adcHl_did s src) rfl

theorem answers_sbcHl {src : R16}
    (h : exec i s = .next (sbcHl src s)) : Answers i s commonWrites :=
  .next h (sbcHl_did s src) rfl

theorem answers_incPair {r : R16} {cyc : Nat}
    (h : exec i s = .next (incPair r cyc s)) : Answers i s commonWrites := by
  cases r <;> exact .next h (incPair_did s _ _) rfl

theorem answers_decPair {r : R16} {cyc : Nat}
    (h : exec i s = .next (decPair r cyc s)) : Answers i s commonWrites := by
  cases r <;> exact .next h (decPair_did s _ _) rfl

theorem answers_rotA {op : RotOp} {cyc : Nat}
    (h : exec i s = .next (rotA op cyc s)) : Answers i s commonWrites :=
  .next h (rotA_did s op cyc) rfl

theorem answers_rotReg {op : RotOp} {r : R8}
    (h : exec i s = .next (rotReg op r s)) : Answers i s commonWrites := by
  cases r <;> exact .next h (rotReg_did s _ _) rfl

theorem answers_rotMem {op : RotOp} {a : Word} {cyc : Nat}
    (h : exec i s = finish (rotMem op a cyc s)) : Answers i s commonWrites :=
  .fin h (rotMem_did s op a cyc) rfl

theorem answers_rotMemCopy {op : RotOp} {a : Word} {r : R8}
    (h : exec i s = finish (rotMemCopy op a r s)) : Answers i s commonWrites := by
  cases r <;> exact .fin h (rotMemCopy_did s _ _ _) rfl

theorem answers_rld (h : exec i s = finish (rld s)) : Answers i s commonWrites :=
  .fin h (rld_did s) rfl

theorem answers_rrd (h : exec i s = finish (rrd s)) : Answers i s commonWrites :=
  .fin h (rrd_did s) rfl

theorem answers_bitReg {b : Fin 8} {r : R8}
    (h : exec i s = .next (bitReg b r s)) : Answers i s commonWrites :=
  .next h (bitReg_did s b r) rfl

theorem answers_bitHl {b : Fin 8}
    (h : exec i s = finish (bitHl b s)) : Answers i s commonWrites :=
  .fin h (bitHl_did s b) rfl

theorem answers_bitMem {b : Fin 8} {a : Word}
    (h : exec i s = finish (bitMem b a s)) : Answers i s commonWrites :=
  .fin h (bitMem_did s b a) rfl

theorem answers_inA {n : Byte} {cyc : Nat}
    (h : exec i s = finish (inA n cyc s)) : Answers i s commonWrites :=
  .fin h (inA_did s n cyc) rfl

theorem answers_inReg {dst : R8}
    (h : exec i s = finish (inReg dst s)) : Answers i s commonWrites := by
  cases dst <;> exact .fin h (inReg_did s _) rfl

theorem answers_inF (h : exec i s = finish (inF s)) : Answers i s commonWrites :=
  .fin h (inF_did s) rfl

theorem answers_outPort {p v : Byte} {cyc : Nat}
    (h : exec i s = finish (outPort p v cyc s)) : Answers i s commonWrites :=
  .fin h (outPort_did s p v cyc) rfl

theorem answers_resReg {b : Fin 8} {r : R8}
    (h : exec i s = .next (resReg b r s)) : Answers i s commonWrites := by
  cases r <;> exact .next h (resReg_did s _ _) rfl

theorem answers_resMem {b : Fin 8} {a : Word} {cyc : Nat}
    (h : exec i s = finish (resMem b a cyc s)) : Answers i s commonWrites :=
  .fin h (resMem_did s b a cyc) rfl

theorem answers_resMemCopy {b : Fin 8} {a : Word} {r : R8}
    (h : exec i s = finish (resMemCopy b a r s)) : Answers i s commonWrites := by
  cases r <;> exact .fin h (resMemCopy_did s _ _ _) rfl

theorem answers_setReg {b : Fin 8} {r : R8}
    (h : exec i s = .next (setReg b r s)) : Answers i s commonWrites := by
  cases r <;> exact .next h (setReg_did s _ _) rfl

theorem answers_setMem {b : Fin 8} {a : Word} {cyc : Nat}
    (h : exec i s = finish (setMem b a cyc s)) : Answers i s commonWrites :=
  .fin h (setMem_did s b a cyc) rfl

theorem answers_setMemCopy {b : Fin 8} {a : Word} {r : R8}
    (h : exec i s = finish (setMemCopy b a r s)) : Answers i s commonWrites := by
  cases r <;> exact .fin h (setMemCopy_did s _ _ _) rfl

theorem answers_transferOnce {up : Bool}
    (h : exec i s = finish (transferOnce up s)) : Answers i s commonWrites :=
  .fin h (repeatIf_did false (transfer_did s up)) rfl

theorem answers_transferRepeat {up : Bool}
    (h : exec i s = finish (transferRepeat up s)) : Answers i s commonWrites :=
  .fin h (repeatIf_did _ (transfer_did s up)) rfl

theorem answers_searchOnce {up : Bool}
    (h : exec i s = finish (searchOnce up s)) : Answers i s commonWrites :=
  .fin h (repeatIf_did false (search_did s up)) rfl

theorem answers_searchRepeat {up : Bool}
    (h : exec i s = finish (searchRepeat up s)) : Answers i s commonWrites :=
  .fin h (repeatIf_did _ (search_did s up)) rfl

theorem answers_blockInOnce {up : Bool}
    (h : exec i s = finish (blockInOnce up s)) : Answers i s commonWrites :=
  .fin h (repeatIf_did false (blockIn_did s up)) rfl

theorem answers_blockInRepeat {up : Bool}
    (h : exec i s = finish (blockInRepeat up s)) : Answers i s commonWrites :=
  .fin h (repeatIf_did _ (blockIn_did s up)) rfl

theorem answers_blockOutOnce {up : Bool}
    (h : exec i s = finish (blockOutOnce up s)) : Answers i s commonWrites :=
  .fin h (repeatIf_did false (blockOut_did s up)) rfl

theorem answers_blockOutRepeat {up : Bool}
    (h : exec i s = finish (blockOutRepeat up s)) : Answers i s commonWrites :=
  .fin h (repeatIf_did _ (blockOut_did s up)) rfl

/-! ## For each instruction -/

/-- What `exec` can answer. -/
theorem exec_answers (i : Instr) (s : State) (h : onward i = false) : Answers i s (mayWrite i) := by
  cases i with
  | nop _ => exact answers_nop rfl
  | ld_bc_nn _ _ => exact answers_ldImm16 rfl
  | ld__bc__a _ => exact answers_storeByte rfl
  | inc_bc _ => exact answers_incPair rfl
  | inc_b _ => exact answers_incReg rfl
  | dec_b _ => exact answers_decReg rfl
  | ld_b_n _ _ => exact answers_ldImm8 rfl
  | rlca _ => exact answers_rotA rfl
  | ex_af_af _ => exact answers_exAf rfl
  | add_hl_bc => exact answers_addPair rfl
  | ld_a__bc _ => exact answers_loadByte rfl
  | dec_bc _ => exact answers_decPair rfl
  | inc_c _ => exact answers_incReg rfl
  | dec_c _ => exact answers_decReg rfl
  | ld_c_n _ _ => exact answers_ldImm8 rfl
  | rrca _ => exact answers_rotA rfl
  | djnz_e _ _ => exact answers_djnz rfl
  | ld_de_nn _ _ => exact answers_ldImm16 rfl
  | ld__de__a _ => exact answers_storeByte rfl
  | inc_de _ => exact answers_incPair rfl
  | inc_d _ => exact answers_incReg rfl
  | dec_d _ => exact answers_decReg rfl
  | ld_d_n _ _ => exact answers_ldImm8 rfl
  | rla _ => exact answers_rotA rfl
  | jr_e _ _ => exact answers_jumpRel rfl
  | add_hl_de => exact answers_addPair rfl
  | ld_a__de _ => exact answers_loadByte rfl
  | dec_de _ => exact answers_decPair rfl
  | inc_e _ => exact answers_incReg rfl
  | dec_e _ => exact answers_decReg rfl
  | ld_e_n _ _ => exact answers_ldImm8 rfl
  | rra _ => exact answers_rotA rfl
  | jr_nz_e _ _ => exact answers_jumpRelIf rfl
  | ld_hl_nn _ => exact answers_ldImm16 rfl
  | ld__nn__hl _ => exact answers_storeWord rfl
  | inc_hl => exact answers_incPair rfl
  | inc_h => exact answers_incReg rfl
  | dec_h => exact answers_decReg rfl
  | ld_h_n _ => exact answers_ldImm8 rfl
  | daa _ => exact answers_daa rfl
  | jr_z_e _ _ => exact answers_jumpRelIf rfl
  | add_hl_hl => exact answers_addPair rfl
  | ld_hl__nn _ => exact answers_loadWord rfl
  | dec_hl => exact answers_decPair rfl
  | inc_l => exact answers_incReg rfl
  | dec_l => exact answers_decReg rfl
  | ld_l_n _ => exact answers_ldImm8 rfl
  | cpl _ => exact answers_cpl rfl
  | jr_nc_e _ _ => exact answers_jumpRelIf rfl
  | ld_sp_nn _ _ => exact answers_ldImm16 rfl
  | ld__nn__a _ _ => exact answers_storeByte rfl
  | inc_sp _ => exact answers_incPair rfl
  | inc__hl => exact answers_incMem rfl
  | dec__hl => exact answers_decMem rfl
  | ld__hl__n _ => exact answers_storeByte rfl
  | scf _ => exact answers_scf rfl
  | jr_c_e _ _ => exact answers_jumpRelIf rfl
  | add_hl_sp => exact answers_addPair rfl
  | ld_a__nn _ _ => exact answers_loadByte rfl
  | dec_sp _ => exact answers_decPair rfl
  | inc_a _ => exact answers_incReg rfl
  | dec_a _ => exact answers_decReg rfl
  | ld_a_n _ _ => exact answers_ldImm8 rfl
  | ccf _ => exact answers_ccf rfl
  | ld_b_b _ => exact answers_ld8 rfl
  | ld_b_c _ => exact answers_ld8 rfl
  | ld_b_d _ => exact answers_ld8 rfl
  | ld_b_e _ => exact answers_ld8 rfl
  | ld_b_h => exact answers_ld8 rfl
  | ld_b_l => exact answers_ld8 rfl
  | ld_b__hl => exact answers_loadByte rfl
  | ld_b_a _ => exact answers_ld8 rfl
  | ld_c_b _ => exact answers_ld8 rfl
  | ld_c_c _ => exact answers_ld8 rfl
  | ld_c_d _ => exact answers_ld8 rfl
  | ld_c_e _ => exact answers_ld8 rfl
  | ld_c_h => exact answers_ld8 rfl
  | ld_c_l => exact answers_ld8 rfl
  | ld_c__hl => exact answers_loadByte rfl
  | ld_c_a _ => exact answers_ld8 rfl
  | ld_d_b _ => exact answers_ld8 rfl
  | ld_d_c _ => exact answers_ld8 rfl
  | ld_d_d _ => exact answers_ld8 rfl
  | ld_d_e _ => exact answers_ld8 rfl
  | ld_d_h => exact answers_ld8 rfl
  | ld_d_l => exact answers_ld8 rfl
  | ld_d__hl => exact answers_loadByte rfl
  | ld_d_a _ => exact answers_ld8 rfl
  | ld_e_b _ => exact answers_ld8 rfl
  | ld_e_c _ => exact answers_ld8 rfl
  | ld_e_d _ => exact answers_ld8 rfl
  | ld_e_e _ => exact answers_ld8 rfl
  | ld_e_h => exact answers_ld8 rfl
  | ld_e_l => exact answers_ld8 rfl
  | ld_e__hl => exact answers_loadByte rfl
  | ld_e_a _ => exact answers_ld8 rfl
  | ld_h_b => exact answers_ld8 rfl
  | ld_h_c => exact answers_ld8 rfl
  | ld_h_d => exact answers_ld8 rfl
  | ld_h_e => exact answers_ld8 rfl
  | ld_h_h => exact answers_ld8 rfl
  | ld_h_l => exact answers_ld8 rfl
  | ld_h__hl => exact answers_loadByte rfl
  | ld_h_a => exact answers_ld8 rfl
  | ld_l_b => exact answers_ld8 rfl
  | ld_l_c => exact answers_ld8 rfl
  | ld_l_d => exact answers_ld8 rfl
  | ld_l_e => exact answers_ld8 rfl
  | ld_l_h => exact answers_ld8 rfl
  | ld_l_l => exact answers_ld8 rfl
  | ld_l__hl => exact answers_loadByte rfl
  | ld_l_a => exact answers_ld8 rfl
  | ld__hl__b => exact answers_storeByte rfl
  | ld__hl__c => exact answers_storeByte rfl
  | ld__hl__d => exact answers_storeByte rfl
  | ld__hl__e => exact answers_storeByte rfl
  | ld__hl__h => exact answers_storeByte rfl
  | ld__hl__l => exact answers_storeByte rfl
  | halt _ => exact answers_halt rfl
  | ld__hl__a => exact answers_storeByte rfl
  | ld_a_b _ => exact answers_ld8 rfl
  | ld_a_c _ => exact answers_ld8 rfl
  | ld_a_d _ => exact answers_ld8 rfl
  | ld_a_e _ => exact answers_ld8 rfl
  | ld_a_h => exact answers_ld8 rfl
  | ld_a_l => exact answers_ld8 rfl
  | ld_a__hl => exact answers_loadByte rfl
  | ld_a_a _ => exact answers_ld8 rfl
  | add_a_b _ => exact answers_alu rfl
  | add_a_c _ => exact answers_alu rfl
  | add_a_d _ => exact answers_alu rfl
  | add_a_e _ => exact answers_alu rfl
  | add_a_h => exact answers_alu rfl
  | add_a_l => exact answers_alu rfl
  | add_a__hl => exact answers_aluMem rfl
  | add_a_a _ => exact answers_alu rfl
  | adc_a_b _ => exact answers_alu rfl
  | adc_a_c _ => exact answers_alu rfl
  | adc_a_d _ => exact answers_alu rfl
  | adc_a_e _ => exact answers_alu rfl
  | adc_a_h => exact answers_alu rfl
  | adc_a_l => exact answers_alu rfl
  | adc_a__hl => exact answers_aluMem rfl
  | adc_a_a _ => exact answers_alu rfl
  | sub_b _ => exact answers_alu rfl
  | sub_c _ => exact answers_alu rfl
  | sub_d _ => exact answers_alu rfl
  | sub_e _ => exact answers_alu rfl
  | sub_h => exact answers_alu rfl
  | sub_l => exact answers_alu rfl
  | sub__hl => exact answers_aluMem rfl
  | sub_a _ => exact answers_alu rfl
  | sbc_a_b _ => exact answers_alu rfl
  | sbc_a_c _ => exact answers_alu rfl
  | sbc_a_d _ => exact answers_alu rfl
  | sbc_a_e _ => exact answers_alu rfl
  | sbc_a_h => exact answers_alu rfl
  | sbc_a_l => exact answers_alu rfl
  | sbc_a__hl => exact answers_aluMem rfl
  | sbc_a_a _ => exact answers_alu rfl
  | and_b _ => exact answers_alu rfl
  | and_c _ => exact answers_alu rfl
  | and_d _ => exact answers_alu rfl
  | and_e _ => exact answers_alu rfl
  | and_h => exact answers_alu rfl
  | and_l => exact answers_alu rfl
  | and__hl => exact answers_aluMem rfl
  | and_a _ => exact answers_alu rfl
  | xor_b _ => exact answers_alu rfl
  | xor_c _ => exact answers_alu rfl
  | xor_d _ => exact answers_alu rfl
  | xor_e _ => exact answers_alu rfl
  | xor_h => exact answers_alu rfl
  | xor_l => exact answers_alu rfl
  | xor__hl => exact answers_aluMem rfl
  | xor_a _ => exact answers_alu rfl
  | or_b _ => exact answers_alu rfl
  | or_c _ => exact answers_alu rfl
  | or_d _ => exact answers_alu rfl
  | or_e _ => exact answers_alu rfl
  | or_h => exact answers_alu rfl
  | or_l => exact answers_alu rfl
  | or__hl => exact answers_aluMem rfl
  | or_a _ => exact answers_alu rfl
  | cp_b _ => exact answers_alu rfl
  | cp_c _ => exact answers_alu rfl
  | cp_d _ => exact answers_alu rfl
  | cp_e _ => exact answers_alu rfl
  | cp_h => exact answers_alu rfl
  | cp_l => exact answers_alu rfl
  | cp__hl => exact answers_aluMem rfl
  | cp_a _ => exact answers_alu rfl
  | ret_nz _ => exact answers_retIf rfl
  | pop_bc _ => exact answers_pop16 rfl
  | jp_nz_nn _ _ => exact answers_jumpIf rfl
  | jp_nn _ _ => exact answers_jumpTo rfl
  | call_nz_nn _ _ => exact answers_callIf rfl
  | push_bc _ => exact answers_push16 rfl
  | add_a_n _ _ => exact answers_alu rfl
  | rst_00h _ => exact answers_call rfl
  | ret_z _ => exact answers_retIf rfl
  | ret _ => exact answers_ret rfl
  | jp_z_nn _ _ => exact answers_jumpIf rfl
  | prefix_cb => cases h
  | call_z_nn _ _ => exact answers_callIf rfl
  | call_nn _ _ => exact answers_call rfl
  | adc_a_n _ _ => exact answers_alu rfl
  | rst_08h _ => exact answers_call rfl
  | ret_nc _ => exact answers_retIf rfl
  | pop_de _ => exact answers_pop16 rfl
  | jp_nc_nn _ _ => exact answers_jumpIf rfl
  | out__n__a _ _ => exact answers_outPort rfl
  | call_nc_nn _ _ => exact answers_callIf rfl
  | push_de _ => exact answers_push16 rfl
  | sub_n _ _ => exact answers_alu rfl
  | rst_10h _ => exact answers_call rfl
  | ret_c _ => exact answers_retIf rfl
  | exx _ => exact answers_exx rfl
  | jp_c_nn _ _ => exact answers_jumpIf rfl
  | in_a__n _ _ => exact answers_inA rfl
  | call_c_nn _ _ => exact answers_callIf rfl
  | prefix_dd => cases h
  | sbc_a_n _ _ => exact answers_alu rfl
  | rst_18h _ => exact answers_call rfl
  | ret_po _ => exact answers_retIf rfl
  | pop_hl => exact answers_pop16 rfl
  | jp_po_nn _ _ => exact answers_jumpIf rfl
  | ex__sp__hl => exact answers_exSp rfl
  | call_po_nn _ _ => exact answers_callIf rfl
  | push_hl => exact answers_push16 rfl
  | and_n _ _ => exact answers_alu rfl
  | rst_20h _ => exact answers_call rfl
  | ret_pe _ => exact answers_retIf rfl
  | jp__hl => exact answers_jumpTo rfl
  | jp_pe_nn _ _ => exact answers_jumpIf rfl
  | ex_de_hl _ => exact answers_exDeHl rfl
  | call_pe_nn _ _ => exact answers_callIf rfl
  | prefix_ed => cases h
  | xor_n _ _ => exact answers_alu rfl
  | rst_28h _ => exact answers_call rfl
  | ret_p _ => exact answers_retIf rfl
  | pop_af _ => exact answers_pop16 rfl
  | jp_p_nn _ _ => exact answers_jumpIf rfl
  | di _ => exact answers_di rfl
  | call_p_nn _ _ => exact answers_callIf rfl
  | push_af _ => exact answers_push16 rfl
  | or_n _ _ => exact answers_alu rfl
  | rst_30h _ => exact answers_call rfl
  | ret_m _ => exact answers_retIf rfl
  | ld_sp_hl => exact answers_ldSp rfl
  | jp_m_nn _ _ => exact answers_jumpIf rfl
  | ei _ => exact answers_ei rfl
  | call_m_nn _ _ => exact answers_callIf rfl
  | prefix_fd => cases h
  | cp_n _ _ => exact answers_alu rfl
  | rst_38h _ => exact answers_call rfl
  | rlc_b => exact answers_rotReg rfl
  | rlc_c => exact answers_rotReg rfl
  | rlc_d => exact answers_rotReg rfl
  | rlc_e => exact answers_rotReg rfl
  | rlc_h => exact answers_rotReg rfl
  | rlc_l => exact answers_rotReg rfl
  | rlc__hl => exact answers_rotMem rfl
  | rlc_a => exact answers_rotReg rfl
  | rrc_b => exact answers_rotReg rfl
  | rrc_c => exact answers_rotReg rfl
  | rrc_d => exact answers_rotReg rfl
  | rrc_e => exact answers_rotReg rfl
  | rrc_h => exact answers_rotReg rfl
  | rrc_l => exact answers_rotReg rfl
  | rrc__hl => exact answers_rotMem rfl
  | rrc_a => exact answers_rotReg rfl
  | rl_b => exact answers_rotReg rfl
  | rl_c => exact answers_rotReg rfl
  | rl_d => exact answers_rotReg rfl
  | rl_e => exact answers_rotReg rfl
  | rl_h => exact answers_rotReg rfl
  | rl_l => exact answers_rotReg rfl
  | rl__hl => exact answers_rotMem rfl
  | rl_a => exact answers_rotReg rfl
  | rr_b => exact answers_rotReg rfl
  | rr_c => exact answers_rotReg rfl
  | rr_d => exact answers_rotReg rfl
  | rr_e => exact answers_rotReg rfl
  | rr_h => exact answers_rotReg rfl
  | rr_l => exact answers_rotReg rfl
  | rr__hl => exact answers_rotMem rfl
  | rr_a => exact answers_rotReg rfl
  | sla_b => exact answers_rotReg rfl
  | sla_c => exact answers_rotReg rfl
  | sla_d => exact answers_rotReg rfl
  | sla_e => exact answers_rotReg rfl
  | sla_h => exact answers_rotReg rfl
  | sla_l => exact answers_rotReg rfl
  | sla__hl => exact answers_rotMem rfl
  | sla_a => exact answers_rotReg rfl
  | sra_b => exact answers_rotReg rfl
  | sra_c => exact answers_rotReg rfl
  | sra_d => exact answers_rotReg rfl
  | sra_e => exact answers_rotReg rfl
  | sra_h => exact answers_rotReg rfl
  | sra_l => exact answers_rotReg rfl
  | sra__hl => exact answers_rotMem rfl
  | sra_a => exact answers_rotReg rfl
  | sll_b => exact answers_rotReg rfl
  | sll_c => exact answers_rotReg rfl
  | sll_d => exact answers_rotReg rfl
  | sll_e => exact answers_rotReg rfl
  | sll_h => exact answers_rotReg rfl
  | sll_l => exact answers_rotReg rfl
  | sll__hl => exact answers_rotMem rfl
  | sll_a => exact answers_rotReg rfl
  | srl_b => exact answers_rotReg rfl
  | srl_c => exact answers_rotReg rfl
  | srl_d => exact answers_rotReg rfl
  | srl_e => exact answers_rotReg rfl
  | srl_h => exact answers_rotReg rfl
  | srl_l => exact answers_rotReg rfl
  | srl__hl => exact answers_rotMem rfl
  | srl_a => exact answers_rotReg rfl
  | bit_0_b => exact answers_bitReg rfl
  | bit_0_c => exact answers_bitReg rfl
  | bit_0_d => exact answers_bitReg rfl
  | bit_0_e => exact answers_bitReg rfl
  | bit_0_h => exact answers_bitReg rfl
  | bit_0_l => exact answers_bitReg rfl
  | bit_0__hl => exact answers_bitHl rfl
  | bit_0_a => exact answers_bitReg rfl
  | bit_1_b => exact answers_bitReg rfl
  | bit_1_c => exact answers_bitReg rfl
  | bit_1_d => exact answers_bitReg rfl
  | bit_1_e => exact answers_bitReg rfl
  | bit_1_h => exact answers_bitReg rfl
  | bit_1_l => exact answers_bitReg rfl
  | bit_1__hl => exact answers_bitHl rfl
  | bit_1_a => exact answers_bitReg rfl
  | bit_2_b => exact answers_bitReg rfl
  | bit_2_c => exact answers_bitReg rfl
  | bit_2_d => exact answers_bitReg rfl
  | bit_2_e => exact answers_bitReg rfl
  | bit_2_h => exact answers_bitReg rfl
  | bit_2_l => exact answers_bitReg rfl
  | bit_2__hl => exact answers_bitHl rfl
  | bit_2_a => exact answers_bitReg rfl
  | bit_3_b => exact answers_bitReg rfl
  | bit_3_c => exact answers_bitReg rfl
  | bit_3_d => exact answers_bitReg rfl
  | bit_3_e => exact answers_bitReg rfl
  | bit_3_h => exact answers_bitReg rfl
  | bit_3_l => exact answers_bitReg rfl
  | bit_3__hl => exact answers_bitHl rfl
  | bit_3_a => exact answers_bitReg rfl
  | bit_4_b => exact answers_bitReg rfl
  | bit_4_c => exact answers_bitReg rfl
  | bit_4_d => exact answers_bitReg rfl
  | bit_4_e => exact answers_bitReg rfl
  | bit_4_h => exact answers_bitReg rfl
  | bit_4_l => exact answers_bitReg rfl
  | bit_4__hl => exact answers_bitHl rfl
  | bit_4_a => exact answers_bitReg rfl
  | bit_5_b => exact answers_bitReg rfl
  | bit_5_c => exact answers_bitReg rfl
  | bit_5_d => exact answers_bitReg rfl
  | bit_5_e => exact answers_bitReg rfl
  | bit_5_h => exact answers_bitReg rfl
  | bit_5_l => exact answers_bitReg rfl
  | bit_5__hl => exact answers_bitHl rfl
  | bit_5_a => exact answers_bitReg rfl
  | bit_6_b => exact answers_bitReg rfl
  | bit_6_c => exact answers_bitReg rfl
  | bit_6_d => exact answers_bitReg rfl
  | bit_6_e => exact answers_bitReg rfl
  | bit_6_h => exact answers_bitReg rfl
  | bit_6_l => exact answers_bitReg rfl
  | bit_6__hl => exact answers_bitHl rfl
  | bit_6_a => exact answers_bitReg rfl
  | bit_7_b => exact answers_bitReg rfl
  | bit_7_c => exact answers_bitReg rfl
  | bit_7_d => exact answers_bitReg rfl
  | bit_7_e => exact answers_bitReg rfl
  | bit_7_h => exact answers_bitReg rfl
  | bit_7_l => exact answers_bitReg rfl
  | bit_7__hl => exact answers_bitHl rfl
  | bit_7_a => exact answers_bitReg rfl
  | res_0_b => exact answers_resReg rfl
  | res_0_c => exact answers_resReg rfl
  | res_0_d => exact answers_resReg rfl
  | res_0_e => exact answers_resReg rfl
  | res_0_h => exact answers_resReg rfl
  | res_0_l => exact answers_resReg rfl
  | res_0__hl => exact answers_resMem rfl
  | res_0_a => exact answers_resReg rfl
  | res_1_b => exact answers_resReg rfl
  | res_1_c => exact answers_resReg rfl
  | res_1_d => exact answers_resReg rfl
  | res_1_e => exact answers_resReg rfl
  | res_1_h => exact answers_resReg rfl
  | res_1_l => exact answers_resReg rfl
  | res_1__hl => exact answers_resMem rfl
  | res_1_a => exact answers_resReg rfl
  | res_2_b => exact answers_resReg rfl
  | res_2_c => exact answers_resReg rfl
  | res_2_d => exact answers_resReg rfl
  | res_2_e => exact answers_resReg rfl
  | res_2_h => exact answers_resReg rfl
  | res_2_l => exact answers_resReg rfl
  | res_2__hl => exact answers_resMem rfl
  | res_2_a => exact answers_resReg rfl
  | res_3_b => exact answers_resReg rfl
  | res_3_c => exact answers_resReg rfl
  | res_3_d => exact answers_resReg rfl
  | res_3_e => exact answers_resReg rfl
  | res_3_h => exact answers_resReg rfl
  | res_3_l => exact answers_resReg rfl
  | res_3__hl => exact answers_resMem rfl
  | res_3_a => exact answers_resReg rfl
  | res_4_b => exact answers_resReg rfl
  | res_4_c => exact answers_resReg rfl
  | res_4_d => exact answers_resReg rfl
  | res_4_e => exact answers_resReg rfl
  | res_4_h => exact answers_resReg rfl
  | res_4_l => exact answers_resReg rfl
  | res_4__hl => exact answers_resMem rfl
  | res_4_a => exact answers_resReg rfl
  | res_5_b => exact answers_resReg rfl
  | res_5_c => exact answers_resReg rfl
  | res_5_d => exact answers_resReg rfl
  | res_5_e => exact answers_resReg rfl
  | res_5_h => exact answers_resReg rfl
  | res_5_l => exact answers_resReg rfl
  | res_5__hl => exact answers_resMem rfl
  | res_5_a => exact answers_resReg rfl
  | res_6_b => exact answers_resReg rfl
  | res_6_c => exact answers_resReg rfl
  | res_6_d => exact answers_resReg rfl
  | res_6_e => exact answers_resReg rfl
  | res_6_h => exact answers_resReg rfl
  | res_6_l => exact answers_resReg rfl
  | res_6__hl => exact answers_resMem rfl
  | res_6_a => exact answers_resReg rfl
  | res_7_b => exact answers_resReg rfl
  | res_7_c => exact answers_resReg rfl
  | res_7_d => exact answers_resReg rfl
  | res_7_e => exact answers_resReg rfl
  | res_7_h => exact answers_resReg rfl
  | res_7_l => exact answers_resReg rfl
  | res_7__hl => exact answers_resMem rfl
  | res_7_a => exact answers_resReg rfl
  | set_0_b => exact answers_setReg rfl
  | set_0_c => exact answers_setReg rfl
  | set_0_d => exact answers_setReg rfl
  | set_0_e => exact answers_setReg rfl
  | set_0_h => exact answers_setReg rfl
  | set_0_l => exact answers_setReg rfl
  | set_0__hl => exact answers_setMem rfl
  | set_0_a => exact answers_setReg rfl
  | set_1_b => exact answers_setReg rfl
  | set_1_c => exact answers_setReg rfl
  | set_1_d => exact answers_setReg rfl
  | set_1_e => exact answers_setReg rfl
  | set_1_h => exact answers_setReg rfl
  | set_1_l => exact answers_setReg rfl
  | set_1__hl => exact answers_setMem rfl
  | set_1_a => exact answers_setReg rfl
  | set_2_b => exact answers_setReg rfl
  | set_2_c => exact answers_setReg rfl
  | set_2_d => exact answers_setReg rfl
  | set_2_e => exact answers_setReg rfl
  | set_2_h => exact answers_setReg rfl
  | set_2_l => exact answers_setReg rfl
  | set_2__hl => exact answers_setMem rfl
  | set_2_a => exact answers_setReg rfl
  | set_3_b => exact answers_setReg rfl
  | set_3_c => exact answers_setReg rfl
  | set_3_d => exact answers_setReg rfl
  | set_3_e => exact answers_setReg rfl
  | set_3_h => exact answers_setReg rfl
  | set_3_l => exact answers_setReg rfl
  | set_3__hl => exact answers_setMem rfl
  | set_3_a => exact answers_setReg rfl
  | set_4_b => exact answers_setReg rfl
  | set_4_c => exact answers_setReg rfl
  | set_4_d => exact answers_setReg rfl
  | set_4_e => exact answers_setReg rfl
  | set_4_h => exact answers_setReg rfl
  | set_4_l => exact answers_setReg rfl
  | set_4__hl => exact answers_setMem rfl
  | set_4_a => exact answers_setReg rfl
  | set_5_b => exact answers_setReg rfl
  | set_5_c => exact answers_setReg rfl
  | set_5_d => exact answers_setReg rfl
  | set_5_e => exact answers_setReg rfl
  | set_5_h => exact answers_setReg rfl
  | set_5_l => exact answers_setReg rfl
  | set_5__hl => exact answers_setMem rfl
  | set_5_a => exact answers_setReg rfl
  | set_6_b => exact answers_setReg rfl
  | set_6_c => exact answers_setReg rfl
  | set_6_d => exact answers_setReg rfl
  | set_6_e => exact answers_setReg rfl
  | set_6_h => exact answers_setReg rfl
  | set_6_l => exact answers_setReg rfl
  | set_6__hl => exact answers_setMem rfl
  | set_6_a => exact answers_setReg rfl
  | set_7_b => exact answers_setReg rfl
  | set_7_c => exact answers_setReg rfl
  | set_7_d => exact answers_setReg rfl
  | set_7_e => exact answers_setReg rfl
  | set_7_h => exact answers_setReg rfl
  | set_7_l => exact answers_setReg rfl
  | set_7__hl => exact answers_setMem rfl
  | set_7_a => exact answers_setReg rfl
  | nop__ed _ => exact answers_nop rfl
  | in_b__c => exact answers_inReg rfl
  | out__c__b => exact answers_outPort rfl
  | sbc_hl_bc => exact answers_sbcHl rfl
  | ld__nn__bc _ => exact answers_storeWord rfl
  | neg _ => exact answers_neg rfl
  | retn _ => exact answers_retInt rfl
  | im_0 _ => exact answers_setIm rfl
  | ld_i_a => exact answers_ldIA rfl
  | in_c__c => exact answers_inReg rfl
  | out__c__c => exact answers_outPort rfl
  | adc_hl_bc => exact answers_adcHl rfl
  | ld_bc__nn _ => exact answers_loadWord rfl
  | reti => exact answers_retInt rfl
  | ld_r_a => exact answers_ldRA rfl
  | in_d__c => exact answers_inReg rfl
  | out__c__d => exact answers_outPort rfl
  | sbc_hl_de => exact answers_sbcHl rfl
  | ld__nn__de _ => exact answers_storeWord rfl
  | im_1 _ => exact answers_setIm rfl
  | ld_a_i => exact answers_ldSpecial rfl
  | in_e__c => exact answers_inReg rfl
  | out__c__e => exact answers_outPort rfl
  | adc_hl_de => exact answers_adcHl rfl
  | ld_de__nn _ => exact answers_loadWord rfl
  | im_2 _ => exact answers_setIm rfl
  | ld_a_r => exact answers_ldSpecial rfl
  | in_h__c => exact answers_inReg rfl
  | out__c__h => exact answers_outPort rfl
  | sbc_hl_hl => exact answers_sbcHl rfl
  | ld__nn__hl_ed _ => exact answers_storeWord rfl
  | rrd => exact answers_rrd rfl
  | in_l__c => exact answers_inReg rfl
  | out__c__l => exact answers_outPort rfl
  | adc_hl_hl => exact answers_adcHl rfl
  | ld_hl__nn_ed _ => exact answers_loadWord rfl
  | rld => exact answers_rld rfl
  | in_f__c => exact answers_inF rfl
  | out__c__0 => exact answers_outPort rfl
  | sbc_hl_sp => exact answers_sbcHl rfl
  | ld__nn__sp _ => exact answers_storeWord rfl
  | in_a__c => exact answers_inReg rfl
  | out__c__a => exact answers_outPort rfl
  | adc_hl_sp => exact answers_adcHl rfl
  | ld_sp__nn _ => exact answers_loadWord rfl
  | ldi => exact answers_transferOnce rfl
  | cpi => exact answers_searchOnce rfl
  | ini => exact answers_blockInOnce rfl
  | outi => exact answers_blockOutOnce rfl
  | ldd => exact answers_transferOnce rfl
  | cpd => exact answers_searchOnce rfl
  | ind => exact answers_blockInOnce rfl
  | outd => exact answers_blockOutOnce rfl
  | ldir => exact answers_transferRepeat rfl
  | cpir => exact answers_searchRepeat rfl
  | inir => exact answers_blockInRepeat rfl
  | otir => exact answers_blockOutRepeat rfl
  | lddr => exact answers_transferRepeat rfl
  | cpdr => exact answers_searchRepeat rfl
  | indr => exact answers_blockInRepeat rfl
  | otdr => exact answers_blockOutRepeat rfl
  | add_ix_bc => exact answers_addPair rfl
  | add_ix_de => exact answers_addPair rfl
  | ld_ix_nn _ => exact answers_ldImm16 rfl
  | ld__nn__ix _ => exact answers_storeWord rfl
  | inc_ix => exact answers_incPair rfl
  | inc_ixh => exact answers_incReg rfl
  | dec_ixh => exact answers_decReg rfl
  | ld_ixh_n _ => exact answers_ldImm8 rfl
  | add_ix_ix => exact answers_addPair rfl
  | ld_ix__nn _ => exact answers_loadWord rfl
  | dec_ix => exact answers_decPair rfl
  | inc_ixl => exact answers_incReg rfl
  | dec_ixl => exact answers_decReg rfl
  | ld_ixl_n _ => exact answers_ldImm8 rfl
  | inc__ixd _ => exact answers_incMem rfl
  | dec__ixd _ => exact answers_decMem rfl
  | ld__ixd__n _ _ => exact answers_storeByte rfl
  | add_ix_sp => exact answers_addPair rfl
  | ld_b_ixh => exact answers_ld8 rfl
  | ld_b_ixl => exact answers_ld8 rfl
  | ld_b__ixd _ => exact answers_loadByte rfl
  | ld_c_ixh => exact answers_ld8 rfl
  | ld_c_ixl => exact answers_ld8 rfl
  | ld_c__ixd _ => exact answers_loadByte rfl
  | ld_d_ixh => exact answers_ld8 rfl
  | ld_d_ixl => exact answers_ld8 rfl
  | ld_d__ixd _ => exact answers_loadByte rfl
  | ld_e_ixh => exact answers_ld8 rfl
  | ld_e_ixl => exact answers_ld8 rfl
  | ld_e__ixd _ => exact answers_loadByte rfl
  | ld_ixh_b => exact answers_ld8 rfl
  | ld_ixh_c => exact answers_ld8 rfl
  | ld_ixh_d => exact answers_ld8 rfl
  | ld_ixh_e => exact answers_ld8 rfl
  | ld_ixh_ixh => exact answers_ld8 rfl
  | ld_ixh_ixl => exact answers_ld8 rfl
  | ld_h__ixd _ => exact answers_loadByte rfl
  | ld_ixh_a => exact answers_ld8 rfl
  | ld_ixl_b => exact answers_ld8 rfl
  | ld_ixl_c => exact answers_ld8 rfl
  | ld_ixl_d => exact answers_ld8 rfl
  | ld_ixl_e => exact answers_ld8 rfl
  | ld_ixl_ixh => exact answers_ld8 rfl
  | ld_ixl_ixl => exact answers_ld8 rfl
  | ld_l__ixd _ => exact answers_loadByte rfl
  | ld_ixl_a => exact answers_ld8 rfl
  | ld__ixd__b _ => exact answers_storeByte rfl
  | ld__ixd__c _ => exact answers_storeByte rfl
  | ld__ixd__d _ => exact answers_storeByte rfl
  | ld__ixd__e _ => exact answers_storeByte rfl
  | ld__ixd__h _ => exact answers_storeByte rfl
  | ld__ixd__l _ => exact answers_storeByte rfl
  | ld__ixd__a _ => exact answers_storeByte rfl
  | ld_a_ixh => exact answers_ld8 rfl
  | ld_a_ixl => exact answers_ld8 rfl
  | ld_a__ixd _ => exact answers_loadByte rfl
  | add_a_ixh => exact answers_alu rfl
  | add_a_ixl => exact answers_alu rfl
  | add_a__ixd _ => exact answers_aluMem rfl
  | adc_a_ixh => exact answers_alu rfl
  | adc_a_ixl => exact answers_alu rfl
  | adc_a__ixd _ => exact answers_aluMem rfl
  | sub_ixh => exact answers_alu rfl
  | sub_ixl => exact answers_alu rfl
  | sub__ixd _ => exact answers_aluMem rfl
  | sbc_a_ixh => exact answers_alu rfl
  | sbc_a_ixl => exact answers_alu rfl
  | sbc_a__ixd _ => exact answers_aluMem rfl
  | and_ixh => exact answers_alu rfl
  | and_ixl => exact answers_alu rfl
  | and__ixd _ => exact answers_aluMem rfl
  | xor_ixh => exact answers_alu rfl
  | xor_ixl => exact answers_alu rfl
  | xor__ixd _ => exact answers_aluMem rfl
  | or_ixh => exact answers_alu rfl
  | or_ixl => exact answers_alu rfl
  | or__ixd _ => exact answers_aluMem rfl
  | cp_ixh => exact answers_alu rfl
  | cp_ixl => exact answers_alu rfl
  | cp__ixd _ => exact answers_aluMem rfl
  | prefix_ddcb => cases h
  | prefix_dd__supersedes _ => cases h
  | pop_ix => exact answers_pop16 rfl
  | ex__sp__ix => exact answers_exSp rfl
  | push_ix => exact answers_push16 rfl
  | jp__ix => exact answers_jumpTo rfl
  | prefix_ed__index_prefix_dropped _ => cases h
  | ld_sp_ix => exact answers_ldSp rfl
  | prefix_fd__supersedes _ => cases h
  | add_iy_bc => exact answers_addPair rfl
  | add_iy_de => exact answers_addPair rfl
  | ld_iy_nn _ => exact answers_ldImm16 rfl
  | ld__nn__iy _ => exact answers_storeWord rfl
  | inc_iy => exact answers_incPair rfl
  | inc_iyh => exact answers_incReg rfl
  | dec_iyh => exact answers_decReg rfl
  | ld_iyh_n _ => exact answers_ldImm8 rfl
  | add_iy_iy => exact answers_addPair rfl
  | ld_iy__nn _ => exact answers_loadWord rfl
  | dec_iy => exact answers_decPair rfl
  | inc_iyl => exact answers_incReg rfl
  | dec_iyl => exact answers_decReg rfl
  | ld_iyl_n _ => exact answers_ldImm8 rfl
  | inc__iyd _ => exact answers_incMem rfl
  | dec__iyd _ => exact answers_decMem rfl
  | ld__iyd__n _ _ => exact answers_storeByte rfl
  | add_iy_sp => exact answers_addPair rfl
  | ld_b_iyh => exact answers_ld8 rfl
  | ld_b_iyl => exact answers_ld8 rfl
  | ld_b__iyd _ => exact answers_loadByte rfl
  | ld_c_iyh => exact answers_ld8 rfl
  | ld_c_iyl => exact answers_ld8 rfl
  | ld_c__iyd _ => exact answers_loadByte rfl
  | ld_d_iyh => exact answers_ld8 rfl
  | ld_d_iyl => exact answers_ld8 rfl
  | ld_d__iyd _ => exact answers_loadByte rfl
  | ld_e_iyh => exact answers_ld8 rfl
  | ld_e_iyl => exact answers_ld8 rfl
  | ld_e__iyd _ => exact answers_loadByte rfl
  | ld_iyh_b => exact answers_ld8 rfl
  | ld_iyh_c => exact answers_ld8 rfl
  | ld_iyh_d => exact answers_ld8 rfl
  | ld_iyh_e => exact answers_ld8 rfl
  | ld_iyh_iyh => exact answers_ld8 rfl
  | ld_iyh_iyl => exact answers_ld8 rfl
  | ld_h__iyd _ => exact answers_loadByte rfl
  | ld_iyh_a => exact answers_ld8 rfl
  | ld_iyl_b => exact answers_ld8 rfl
  | ld_iyl_c => exact answers_ld8 rfl
  | ld_iyl_d => exact answers_ld8 rfl
  | ld_iyl_e => exact answers_ld8 rfl
  | ld_iyl_iyh => exact answers_ld8 rfl
  | ld_iyl_iyl => exact answers_ld8 rfl
  | ld_l__iyd _ => exact answers_loadByte rfl
  | ld_iyl_a => exact answers_ld8 rfl
  | ld__iyd__b _ => exact answers_storeByte rfl
  | ld__iyd__c _ => exact answers_storeByte rfl
  | ld__iyd__d _ => exact answers_storeByte rfl
  | ld__iyd__e _ => exact answers_storeByte rfl
  | ld__iyd__h _ => exact answers_storeByte rfl
  | ld__iyd__l _ => exact answers_storeByte rfl
  | ld__iyd__a _ => exact answers_storeByte rfl
  | ld_a_iyh => exact answers_ld8 rfl
  | ld_a_iyl => exact answers_ld8 rfl
  | ld_a__iyd _ => exact answers_loadByte rfl
  | add_a_iyh => exact answers_alu rfl
  | add_a_iyl => exact answers_alu rfl
  | add_a__iyd _ => exact answers_aluMem rfl
  | adc_a_iyh => exact answers_alu rfl
  | adc_a_iyl => exact answers_alu rfl
  | adc_a__iyd _ => exact answers_aluMem rfl
  | sub_iyh => exact answers_alu rfl
  | sub_iyl => exact answers_alu rfl
  | sub__iyd _ => exact answers_aluMem rfl
  | sbc_a_iyh => exact answers_alu rfl
  | sbc_a_iyl => exact answers_alu rfl
  | sbc_a__iyd _ => exact answers_aluMem rfl
  | and_iyh => exact answers_alu rfl
  | and_iyl => exact answers_alu rfl
  | and__iyd _ => exact answers_aluMem rfl
  | xor_iyh => exact answers_alu rfl
  | xor_iyl => exact answers_alu rfl
  | xor__iyd _ => exact answers_aluMem rfl
  | or_iyh => exact answers_alu rfl
  | or_iyl => exact answers_alu rfl
  | or__iyd _ => exact answers_aluMem rfl
  | cp_iyh => exact answers_alu rfl
  | cp_iyl => exact answers_alu rfl
  | cp__iyd _ => exact answers_aluMem rfl
  | prefix_fdcb => cases h
  | pop_iy => exact answers_pop16 rfl
  | ex__sp__iy => exact answers_exSp rfl
  | push_iy => exact answers_push16 rfl
  | jp__iy => exact answers_jumpTo rfl
  | ld_sp_iy => exact answers_ldSp rfl
  | rlc__ixd__b _ => exact answers_rotMemCopy rfl
  | rlc__ixd__c _ => exact answers_rotMemCopy rfl
  | rlc__ixd__d _ => exact answers_rotMemCopy rfl
  | rlc__ixd__e _ => exact answers_rotMemCopy rfl
  | rlc__ixd__h _ => exact answers_rotMemCopy rfl
  | rlc__ixd__l _ => exact answers_rotMemCopy rfl
  | rlc__ixd _ => exact answers_rotMem rfl
  | rlc__ixd__a _ => exact answers_rotMemCopy rfl
  | rrc__ixd__b _ => exact answers_rotMemCopy rfl
  | rrc__ixd__c _ => exact answers_rotMemCopy rfl
  | rrc__ixd__d _ => exact answers_rotMemCopy rfl
  | rrc__ixd__e _ => exact answers_rotMemCopy rfl
  | rrc__ixd__h _ => exact answers_rotMemCopy rfl
  | rrc__ixd__l _ => exact answers_rotMemCopy rfl
  | rrc__ixd _ => exact answers_rotMem rfl
  | rrc__ixd__a _ => exact answers_rotMemCopy rfl
  | rl__ixd__b _ => exact answers_rotMemCopy rfl
  | rl__ixd__c _ => exact answers_rotMemCopy rfl
  | rl__ixd__d _ => exact answers_rotMemCopy rfl
  | rl__ixd__e _ => exact answers_rotMemCopy rfl
  | rl__ixd__h _ => exact answers_rotMemCopy rfl
  | rl__ixd__l _ => exact answers_rotMemCopy rfl
  | rl__ixd _ => exact answers_rotMem rfl
  | rl__ixd__a _ => exact answers_rotMemCopy rfl
  | rr__ixd__b _ => exact answers_rotMemCopy rfl
  | rr__ixd__c _ => exact answers_rotMemCopy rfl
  | rr__ixd__d _ => exact answers_rotMemCopy rfl
  | rr__ixd__e _ => exact answers_rotMemCopy rfl
  | rr__ixd__h _ => exact answers_rotMemCopy rfl
  | rr__ixd__l _ => exact answers_rotMemCopy rfl
  | rr__ixd _ => exact answers_rotMem rfl
  | rr__ixd__a _ => exact answers_rotMemCopy rfl
  | sla__ixd__b _ => exact answers_rotMemCopy rfl
  | sla__ixd__c _ => exact answers_rotMemCopy rfl
  | sla__ixd__d _ => exact answers_rotMemCopy rfl
  | sla__ixd__e _ => exact answers_rotMemCopy rfl
  | sla__ixd__h _ => exact answers_rotMemCopy rfl
  | sla__ixd__l _ => exact answers_rotMemCopy rfl
  | sla__ixd _ => exact answers_rotMem rfl
  | sla__ixd__a _ => exact answers_rotMemCopy rfl
  | sra__ixd__b _ => exact answers_rotMemCopy rfl
  | sra__ixd__c _ => exact answers_rotMemCopy rfl
  | sra__ixd__d _ => exact answers_rotMemCopy rfl
  | sra__ixd__e _ => exact answers_rotMemCopy rfl
  | sra__ixd__h _ => exact answers_rotMemCopy rfl
  | sra__ixd__l _ => exact answers_rotMemCopy rfl
  | sra__ixd _ => exact answers_rotMem rfl
  | sra__ixd__a _ => exact answers_rotMemCopy rfl
  | sll__ixd__b _ => exact answers_rotMemCopy rfl
  | sll__ixd__c _ => exact answers_rotMemCopy rfl
  | sll__ixd__d _ => exact answers_rotMemCopy rfl
  | sll__ixd__e _ => exact answers_rotMemCopy rfl
  | sll__ixd__h _ => exact answers_rotMemCopy rfl
  | sll__ixd__l _ => exact answers_rotMemCopy rfl
  | sll__ixd _ => exact answers_rotMem rfl
  | sll__ixd__a _ => exact answers_rotMemCopy rfl
  | srl__ixd__b _ => exact answers_rotMemCopy rfl
  | srl__ixd__c _ => exact answers_rotMemCopy rfl
  | srl__ixd__d _ => exact answers_rotMemCopy rfl
  | srl__ixd__e _ => exact answers_rotMemCopy rfl
  | srl__ixd__h _ => exact answers_rotMemCopy rfl
  | srl__ixd__l _ => exact answers_rotMemCopy rfl
  | srl__ixd _ => exact answers_rotMem rfl
  | srl__ixd__a _ => exact answers_rotMemCopy rfl
  | bit_0__ixd _ _ => exact answers_bitMem rfl
  | bit_1__ixd _ _ => exact answers_bitMem rfl
  | bit_2__ixd _ _ => exact answers_bitMem rfl
  | bit_3__ixd _ _ => exact answers_bitMem rfl
  | bit_4__ixd _ _ => exact answers_bitMem rfl
  | bit_5__ixd _ _ => exact answers_bitMem rfl
  | bit_6__ixd _ _ => exact answers_bitMem rfl
  | bit_7__ixd _ _ => exact answers_bitMem rfl
  | res_0__ixd__b _ => exact answers_resMemCopy rfl
  | res_0__ixd__c _ => exact answers_resMemCopy rfl
  | res_0__ixd__d _ => exact answers_resMemCopy rfl
  | res_0__ixd__e _ => exact answers_resMemCopy rfl
  | res_0__ixd__h _ => exact answers_resMemCopy rfl
  | res_0__ixd__l _ => exact answers_resMemCopy rfl
  | res_0__ixd _ => exact answers_resMem rfl
  | res_0__ixd__a _ => exact answers_resMemCopy rfl
  | res_1__ixd__b _ => exact answers_resMemCopy rfl
  | res_1__ixd__c _ => exact answers_resMemCopy rfl
  | res_1__ixd__d _ => exact answers_resMemCopy rfl
  | res_1__ixd__e _ => exact answers_resMemCopy rfl
  | res_1__ixd__h _ => exact answers_resMemCopy rfl
  | res_1__ixd__l _ => exact answers_resMemCopy rfl
  | res_1__ixd _ => exact answers_resMem rfl
  | res_1__ixd__a _ => exact answers_resMemCopy rfl
  | res_2__ixd__b _ => exact answers_resMemCopy rfl
  | res_2__ixd__c _ => exact answers_resMemCopy rfl
  | res_2__ixd__d _ => exact answers_resMemCopy rfl
  | res_2__ixd__e _ => exact answers_resMemCopy rfl
  | res_2__ixd__h _ => exact answers_resMemCopy rfl
  | res_2__ixd__l _ => exact answers_resMemCopy rfl
  | res_2__ixd _ => exact answers_resMem rfl
  | res_2__ixd__a _ => exact answers_resMemCopy rfl
  | res_3__ixd__b _ => exact answers_resMemCopy rfl
  | res_3__ixd__c _ => exact answers_resMemCopy rfl
  | res_3__ixd__d _ => exact answers_resMemCopy rfl
  | res_3__ixd__e _ => exact answers_resMemCopy rfl
  | res_3__ixd__h _ => exact answers_resMemCopy rfl
  | res_3__ixd__l _ => exact answers_resMemCopy rfl
  | res_3__ixd _ => exact answers_resMem rfl
  | res_3__ixd__a _ => exact answers_resMemCopy rfl
  | res_4__ixd__b _ => exact answers_resMemCopy rfl
  | res_4__ixd__c _ => exact answers_resMemCopy rfl
  | res_4__ixd__d _ => exact answers_resMemCopy rfl
  | res_4__ixd__e _ => exact answers_resMemCopy rfl
  | res_4__ixd__h _ => exact answers_resMemCopy rfl
  | res_4__ixd__l _ => exact answers_resMemCopy rfl
  | res_4__ixd _ => exact answers_resMem rfl
  | res_4__ixd__a _ => exact answers_resMemCopy rfl
  | res_5__ixd__b _ => exact answers_resMemCopy rfl
  | res_5__ixd__c _ => exact answers_resMemCopy rfl
  | res_5__ixd__d _ => exact answers_resMemCopy rfl
  | res_5__ixd__e _ => exact answers_resMemCopy rfl
  | res_5__ixd__h _ => exact answers_resMemCopy rfl
  | res_5__ixd__l _ => exact answers_resMemCopy rfl
  | res_5__ixd _ => exact answers_resMem rfl
  | res_5__ixd__a _ => exact answers_resMemCopy rfl
  | res_6__ixd__b _ => exact answers_resMemCopy rfl
  | res_6__ixd__c _ => exact answers_resMemCopy rfl
  | res_6__ixd__d _ => exact answers_resMemCopy rfl
  | res_6__ixd__e _ => exact answers_resMemCopy rfl
  | res_6__ixd__h _ => exact answers_resMemCopy rfl
  | res_6__ixd__l _ => exact answers_resMemCopy rfl
  | res_6__ixd _ => exact answers_resMem rfl
  | res_6__ixd__a _ => exact answers_resMemCopy rfl
  | res_7__ixd__b _ => exact answers_resMemCopy rfl
  | res_7__ixd__c _ => exact answers_resMemCopy rfl
  | res_7__ixd__d _ => exact answers_resMemCopy rfl
  | res_7__ixd__e _ => exact answers_resMemCopy rfl
  | res_7__ixd__h _ => exact answers_resMemCopy rfl
  | res_7__ixd__l _ => exact answers_resMemCopy rfl
  | res_7__ixd _ => exact answers_resMem rfl
  | res_7__ixd__a _ => exact answers_resMemCopy rfl
  | set_0__ixd__b _ => exact answers_setMemCopy rfl
  | set_0__ixd__c _ => exact answers_setMemCopy rfl
  | set_0__ixd__d _ => exact answers_setMemCopy rfl
  | set_0__ixd__e _ => exact answers_setMemCopy rfl
  | set_0__ixd__h _ => exact answers_setMemCopy rfl
  | set_0__ixd__l _ => exact answers_setMemCopy rfl
  | set_0__ixd _ => exact answers_setMem rfl
  | set_0__ixd__a _ => exact answers_setMemCopy rfl
  | set_1__ixd__b _ => exact answers_setMemCopy rfl
  | set_1__ixd__c _ => exact answers_setMemCopy rfl
  | set_1__ixd__d _ => exact answers_setMemCopy rfl
  | set_1__ixd__e _ => exact answers_setMemCopy rfl
  | set_1__ixd__h _ => exact answers_setMemCopy rfl
  | set_1__ixd__l _ => exact answers_setMemCopy rfl
  | set_1__ixd _ => exact answers_setMem rfl
  | set_1__ixd__a _ => exact answers_setMemCopy rfl
  | set_2__ixd__b _ => exact answers_setMemCopy rfl
  | set_2__ixd__c _ => exact answers_setMemCopy rfl
  | set_2__ixd__d _ => exact answers_setMemCopy rfl
  | set_2__ixd__e _ => exact answers_setMemCopy rfl
  | set_2__ixd__h _ => exact answers_setMemCopy rfl
  | set_2__ixd__l _ => exact answers_setMemCopy rfl
  | set_2__ixd _ => exact answers_setMem rfl
  | set_2__ixd__a _ => exact answers_setMemCopy rfl
  | set_3__ixd__b _ => exact answers_setMemCopy rfl
  | set_3__ixd__c _ => exact answers_setMemCopy rfl
  | set_3__ixd__d _ => exact answers_setMemCopy rfl
  | set_3__ixd__e _ => exact answers_setMemCopy rfl
  | set_3__ixd__h _ => exact answers_setMemCopy rfl
  | set_3__ixd__l _ => exact answers_setMemCopy rfl
  | set_3__ixd _ => exact answers_setMem rfl
  | set_3__ixd__a _ => exact answers_setMemCopy rfl
  | set_4__ixd__b _ => exact answers_setMemCopy rfl
  | set_4__ixd__c _ => exact answers_setMemCopy rfl
  | set_4__ixd__d _ => exact answers_setMemCopy rfl
  | set_4__ixd__e _ => exact answers_setMemCopy rfl
  | set_4__ixd__h _ => exact answers_setMemCopy rfl
  | set_4__ixd__l _ => exact answers_setMemCopy rfl
  | set_4__ixd _ => exact answers_setMem rfl
  | set_4__ixd__a _ => exact answers_setMemCopy rfl
  | set_5__ixd__b _ => exact answers_setMemCopy rfl
  | set_5__ixd__c _ => exact answers_setMemCopy rfl
  | set_5__ixd__d _ => exact answers_setMemCopy rfl
  | set_5__ixd__e _ => exact answers_setMemCopy rfl
  | set_5__ixd__h _ => exact answers_setMemCopy rfl
  | set_5__ixd__l _ => exact answers_setMemCopy rfl
  | set_5__ixd _ => exact answers_setMem rfl
  | set_5__ixd__a _ => exact answers_setMemCopy rfl
  | set_6__ixd__b _ => exact answers_setMemCopy rfl
  | set_6__ixd__c _ => exact answers_setMemCopy rfl
  | set_6__ixd__d _ => exact answers_setMemCopy rfl
  | set_6__ixd__e _ => exact answers_setMemCopy rfl
  | set_6__ixd__h _ => exact answers_setMemCopy rfl
  | set_6__ixd__l _ => exact answers_setMemCopy rfl
  | set_6__ixd _ => exact answers_setMem rfl
  | set_6__ixd__a _ => exact answers_setMemCopy rfl
  | set_7__ixd__b _ => exact answers_setMemCopy rfl
  | set_7__ixd__c _ => exact answers_setMemCopy rfl
  | set_7__ixd__d _ => exact answers_setMemCopy rfl
  | set_7__ixd__e _ => exact answers_setMemCopy rfl
  | set_7__ixd__h _ => exact answers_setMemCopy rfl
  | set_7__ixd__l _ => exact answers_setMemCopy rfl
  | set_7__ixd _ => exact answers_setMem rfl
  | set_7__ixd__a _ => exact answers_setMemCopy rfl
  | rlc__iyd__b _ => exact answers_rotMemCopy rfl
  | rlc__iyd__c _ => exact answers_rotMemCopy rfl
  | rlc__iyd__d _ => exact answers_rotMemCopy rfl
  | rlc__iyd__e _ => exact answers_rotMemCopy rfl
  | rlc__iyd__h _ => exact answers_rotMemCopy rfl
  | rlc__iyd__l _ => exact answers_rotMemCopy rfl
  | rlc__iyd _ => exact answers_rotMem rfl
  | rlc__iyd__a _ => exact answers_rotMemCopy rfl
  | rrc__iyd__b _ => exact answers_rotMemCopy rfl
  | rrc__iyd__c _ => exact answers_rotMemCopy rfl
  | rrc__iyd__d _ => exact answers_rotMemCopy rfl
  | rrc__iyd__e _ => exact answers_rotMemCopy rfl
  | rrc__iyd__h _ => exact answers_rotMemCopy rfl
  | rrc__iyd__l _ => exact answers_rotMemCopy rfl
  | rrc__iyd _ => exact answers_rotMem rfl
  | rrc__iyd__a _ => exact answers_rotMemCopy rfl
  | rl__iyd__b _ => exact answers_rotMemCopy rfl
  | rl__iyd__c _ => exact answers_rotMemCopy rfl
  | rl__iyd__d _ => exact answers_rotMemCopy rfl
  | rl__iyd__e _ => exact answers_rotMemCopy rfl
  | rl__iyd__h _ => exact answers_rotMemCopy rfl
  | rl__iyd__l _ => exact answers_rotMemCopy rfl
  | rl__iyd _ => exact answers_rotMem rfl
  | rl__iyd__a _ => exact answers_rotMemCopy rfl
  | rr__iyd__b _ => exact answers_rotMemCopy rfl
  | rr__iyd__c _ => exact answers_rotMemCopy rfl
  | rr__iyd__d _ => exact answers_rotMemCopy rfl
  | rr__iyd__e _ => exact answers_rotMemCopy rfl
  | rr__iyd__h _ => exact answers_rotMemCopy rfl
  | rr__iyd__l _ => exact answers_rotMemCopy rfl
  | rr__iyd _ => exact answers_rotMem rfl
  | rr__iyd__a _ => exact answers_rotMemCopy rfl
  | sla__iyd__b _ => exact answers_rotMemCopy rfl
  | sla__iyd__c _ => exact answers_rotMemCopy rfl
  | sla__iyd__d _ => exact answers_rotMemCopy rfl
  | sla__iyd__e _ => exact answers_rotMemCopy rfl
  | sla__iyd__h _ => exact answers_rotMemCopy rfl
  | sla__iyd__l _ => exact answers_rotMemCopy rfl
  | sla__iyd _ => exact answers_rotMem rfl
  | sla__iyd__a _ => exact answers_rotMemCopy rfl
  | sra__iyd__b _ => exact answers_rotMemCopy rfl
  | sra__iyd__c _ => exact answers_rotMemCopy rfl
  | sra__iyd__d _ => exact answers_rotMemCopy rfl
  | sra__iyd__e _ => exact answers_rotMemCopy rfl
  | sra__iyd__h _ => exact answers_rotMemCopy rfl
  | sra__iyd__l _ => exact answers_rotMemCopy rfl
  | sra__iyd _ => exact answers_rotMem rfl
  | sra__iyd__a _ => exact answers_rotMemCopy rfl
  | sll__iyd__b _ => exact answers_rotMemCopy rfl
  | sll__iyd__c _ => exact answers_rotMemCopy rfl
  | sll__iyd__d _ => exact answers_rotMemCopy rfl
  | sll__iyd__e _ => exact answers_rotMemCopy rfl
  | sll__iyd__h _ => exact answers_rotMemCopy rfl
  | sll__iyd__l _ => exact answers_rotMemCopy rfl
  | sll__iyd _ => exact answers_rotMem rfl
  | sll__iyd__a _ => exact answers_rotMemCopy rfl
  | srl__iyd__b _ => exact answers_rotMemCopy rfl
  | srl__iyd__c _ => exact answers_rotMemCopy rfl
  | srl__iyd__d _ => exact answers_rotMemCopy rfl
  | srl__iyd__e _ => exact answers_rotMemCopy rfl
  | srl__iyd__h _ => exact answers_rotMemCopy rfl
  | srl__iyd__l _ => exact answers_rotMemCopy rfl
  | srl__iyd _ => exact answers_rotMem rfl
  | srl__iyd__a _ => exact answers_rotMemCopy rfl
  | bit_0__iyd _ _ => exact answers_bitMem rfl
  | bit_1__iyd _ _ => exact answers_bitMem rfl
  | bit_2__iyd _ _ => exact answers_bitMem rfl
  | bit_3__iyd _ _ => exact answers_bitMem rfl
  | bit_4__iyd _ _ => exact answers_bitMem rfl
  | bit_5__iyd _ _ => exact answers_bitMem rfl
  | bit_6__iyd _ _ => exact answers_bitMem rfl
  | bit_7__iyd _ _ => exact answers_bitMem rfl
  | res_0__iyd__b _ => exact answers_resMemCopy rfl
  | res_0__iyd__c _ => exact answers_resMemCopy rfl
  | res_0__iyd__d _ => exact answers_resMemCopy rfl
  | res_0__iyd__e _ => exact answers_resMemCopy rfl
  | res_0__iyd__h _ => exact answers_resMemCopy rfl
  | res_0__iyd__l _ => exact answers_resMemCopy rfl
  | res_0__iyd _ => exact answers_resMem rfl
  | res_0__iyd__a _ => exact answers_resMemCopy rfl
  | res_1__iyd__b _ => exact answers_resMemCopy rfl
  | res_1__iyd__c _ => exact answers_resMemCopy rfl
  | res_1__iyd__d _ => exact answers_resMemCopy rfl
  | res_1__iyd__e _ => exact answers_resMemCopy rfl
  | res_1__iyd__h _ => exact answers_resMemCopy rfl
  | res_1__iyd__l _ => exact answers_resMemCopy rfl
  | res_1__iyd _ => exact answers_resMem rfl
  | res_1__iyd__a _ => exact answers_resMemCopy rfl
  | res_2__iyd__b _ => exact answers_resMemCopy rfl
  | res_2__iyd__c _ => exact answers_resMemCopy rfl
  | res_2__iyd__d _ => exact answers_resMemCopy rfl
  | res_2__iyd__e _ => exact answers_resMemCopy rfl
  | res_2__iyd__h _ => exact answers_resMemCopy rfl
  | res_2__iyd__l _ => exact answers_resMemCopy rfl
  | res_2__iyd _ => exact answers_resMem rfl
  | res_2__iyd__a _ => exact answers_resMemCopy rfl
  | res_3__iyd__b _ => exact answers_resMemCopy rfl
  | res_3__iyd__c _ => exact answers_resMemCopy rfl
  | res_3__iyd__d _ => exact answers_resMemCopy rfl
  | res_3__iyd__e _ => exact answers_resMemCopy rfl
  | res_3__iyd__h _ => exact answers_resMemCopy rfl
  | res_3__iyd__l _ => exact answers_resMemCopy rfl
  | res_3__iyd _ => exact answers_resMem rfl
  | res_3__iyd__a _ => exact answers_resMemCopy rfl
  | res_4__iyd__b _ => exact answers_resMemCopy rfl
  | res_4__iyd__c _ => exact answers_resMemCopy rfl
  | res_4__iyd__d _ => exact answers_resMemCopy rfl
  | res_4__iyd__e _ => exact answers_resMemCopy rfl
  | res_4__iyd__h _ => exact answers_resMemCopy rfl
  | res_4__iyd__l _ => exact answers_resMemCopy rfl
  | res_4__iyd _ => exact answers_resMem rfl
  | res_4__iyd__a _ => exact answers_resMemCopy rfl
  | res_5__iyd__b _ => exact answers_resMemCopy rfl
  | res_5__iyd__c _ => exact answers_resMemCopy rfl
  | res_5__iyd__d _ => exact answers_resMemCopy rfl
  | res_5__iyd__e _ => exact answers_resMemCopy rfl
  | res_5__iyd__h _ => exact answers_resMemCopy rfl
  | res_5__iyd__l _ => exact answers_resMemCopy rfl
  | res_5__iyd _ => exact answers_resMem rfl
  | res_5__iyd__a _ => exact answers_resMemCopy rfl
  | res_6__iyd__b _ => exact answers_resMemCopy rfl
  | res_6__iyd__c _ => exact answers_resMemCopy rfl
  | res_6__iyd__d _ => exact answers_resMemCopy rfl
  | res_6__iyd__e _ => exact answers_resMemCopy rfl
  | res_6__iyd__h _ => exact answers_resMemCopy rfl
  | res_6__iyd__l _ => exact answers_resMemCopy rfl
  | res_6__iyd _ => exact answers_resMem rfl
  | res_6__iyd__a _ => exact answers_resMemCopy rfl
  | res_7__iyd__b _ => exact answers_resMemCopy rfl
  | res_7__iyd__c _ => exact answers_resMemCopy rfl
  | res_7__iyd__d _ => exact answers_resMemCopy rfl
  | res_7__iyd__e _ => exact answers_resMemCopy rfl
  | res_7__iyd__h _ => exact answers_resMemCopy rfl
  | res_7__iyd__l _ => exact answers_resMemCopy rfl
  | res_7__iyd _ => exact answers_resMem rfl
  | res_7__iyd__a _ => exact answers_resMemCopy rfl
  | set_0__iyd__b _ => exact answers_setMemCopy rfl
  | set_0__iyd__c _ => exact answers_setMemCopy rfl
  | set_0__iyd__d _ => exact answers_setMemCopy rfl
  | set_0__iyd__e _ => exact answers_setMemCopy rfl
  | set_0__iyd__h _ => exact answers_setMemCopy rfl
  | set_0__iyd__l _ => exact answers_setMemCopy rfl
  | set_0__iyd _ => exact answers_setMem rfl
  | set_0__iyd__a _ => exact answers_setMemCopy rfl
  | set_1__iyd__b _ => exact answers_setMemCopy rfl
  | set_1__iyd__c _ => exact answers_setMemCopy rfl
  | set_1__iyd__d _ => exact answers_setMemCopy rfl
  | set_1__iyd__e _ => exact answers_setMemCopy rfl
  | set_1__iyd__h _ => exact answers_setMemCopy rfl
  | set_1__iyd__l _ => exact answers_setMemCopy rfl
  | set_1__iyd _ => exact answers_setMem rfl
  | set_1__iyd__a _ => exact answers_setMemCopy rfl
  | set_2__iyd__b _ => exact answers_setMemCopy rfl
  | set_2__iyd__c _ => exact answers_setMemCopy rfl
  | set_2__iyd__d _ => exact answers_setMemCopy rfl
  | set_2__iyd__e _ => exact answers_setMemCopy rfl
  | set_2__iyd__h _ => exact answers_setMemCopy rfl
  | set_2__iyd__l _ => exact answers_setMemCopy rfl
  | set_2__iyd _ => exact answers_setMem rfl
  | set_2__iyd__a _ => exact answers_setMemCopy rfl
  | set_3__iyd__b _ => exact answers_setMemCopy rfl
  | set_3__iyd__c _ => exact answers_setMemCopy rfl
  | set_3__iyd__d _ => exact answers_setMemCopy rfl
  | set_3__iyd__e _ => exact answers_setMemCopy rfl
  | set_3__iyd__h _ => exact answers_setMemCopy rfl
  | set_3__iyd__l _ => exact answers_setMemCopy rfl
  | set_3__iyd _ => exact answers_setMem rfl
  | set_3__iyd__a _ => exact answers_setMemCopy rfl
  | set_4__iyd__b _ => exact answers_setMemCopy rfl
  | set_4__iyd__c _ => exact answers_setMemCopy rfl
  | set_4__iyd__d _ => exact answers_setMemCopy rfl
  | set_4__iyd__e _ => exact answers_setMemCopy rfl
  | set_4__iyd__h _ => exact answers_setMemCopy rfl
  | set_4__iyd__l _ => exact answers_setMemCopy rfl
  | set_4__iyd _ => exact answers_setMem rfl
  | set_4__iyd__a _ => exact answers_setMemCopy rfl
  | set_5__iyd__b _ => exact answers_setMemCopy rfl
  | set_5__iyd__c _ => exact answers_setMemCopy rfl
  | set_5__iyd__d _ => exact answers_setMemCopy rfl
  | set_5__iyd__e _ => exact answers_setMemCopy rfl
  | set_5__iyd__h _ => exact answers_setMemCopy rfl
  | set_5__iyd__l _ => exact answers_setMemCopy rfl
  | set_5__iyd _ => exact answers_setMem rfl
  | set_5__iyd__a _ => exact answers_setMemCopy rfl
  | set_6__iyd__b _ => exact answers_setMemCopy rfl
  | set_6__iyd__c _ => exact answers_setMemCopy rfl
  | set_6__iyd__d _ => exact answers_setMemCopy rfl
  | set_6__iyd__e _ => exact answers_setMemCopy rfl
  | set_6__iyd__h _ => exact answers_setMemCopy rfl
  | set_6__iyd__l _ => exact answers_setMemCopy rfl
  | set_6__iyd _ => exact answers_setMem rfl
  | set_6__iyd__a _ => exact answers_setMemCopy rfl
  | set_7__iyd__b _ => exact answers_setMemCopy rfl
  | set_7__iyd__c _ => exact answers_setMemCopy rfl
  | set_7__iyd__d _ => exact answers_setMemCopy rfl
  | set_7__iyd__e _ => exact answers_setMemCopy rfl
  | set_7__iyd__h _ => exact answers_setMemCopy rfl
  | set_7__iyd__l _ => exact answers_setMemCopy rfl
  | set_7__iyd _ => exact answers_setMem rfl
  | set_7__iyd__a _ => exact answers_setMemCopy rfl

end Sys2Proof.Machine
end

