-- ==== Sys2Proof/Laws/Loop.lean ====
section
/-! SUPPORT. What a step does, case by case (`step_of_nmi`, `step_of_int`, `step_of_halted`,
`step_of_run`), an acceptance mode by mode, and what the fetching of an instruction leaves. -/

namespace Sys2Proof.Machine

variable (s : State)

/-! ## The cases of a step (R230) -/

/-- An NMI is pending. -/
theorem step_of_nmi (h : s.nmiPending = true) : step s = acceptNmi s.beginStep := if_pos h

/-- No NMI is pending, and the maskable request is accepted. -/
theorem step_of_int (h : s.nmiPending = false) (hi : s.acceptsInt = true) :
    step s = acceptInt s.beginStep := by
  have h' : ¬ s.beginStep.nmiPending = true := by change ¬ s.nmiPending = true; rw [h]; decide
  exact (if_neg h').trans (if_pos hi)

/-- Nothing is accepted, and CORE is halted. -/
theorem step_of_halted (h : s.nmiPending = false) (hi : s.acceptsInt = false) (hh : s.halted = true) :
    step s = .next (haltedCycle { s.beginStep with eiPending := false }) := by
  have h' : ¬ s.beginStep.nmiPending = true := by change ¬ s.nmiPending = true; rw [h]; decide
  have hi' : ¬ s.beginStep.acceptsInt = true := by change ¬ s.acceptsInt = true; rw [hi]; decide
  exact (if_neg h').trans ((if_neg hi').trans (if_pos hh))

/-- Nothing is accepted, and CORE is not halted: the step runs an instruction. -/
theorem step_of_run (h : s.nmiPending = false) (hi : s.acceptsInt = false) (hh : s.halted = false) :
    step s = runInstr { s.beginStep with eiPending := false } := by
  have h' : ¬ s.beginStep.nmiPending = true := by change ¬ s.nmiPending = true; rw [h]; decide
  have hi' : ¬ s.beginStep.acceptsInt = true := by change ¬ s.acceptsInt = true; rw [hi]; decide
  have hh' : ¬ ({ s.beginStep with eiPending := false } : State).halted = true := by
    change ¬ s.halted = true; rw [hh]; decide
  exact (if_neg h').trans ((if_neg hi').trans (if_neg hh'))

/-! ## Acceptances -/

/-- The state in which the mode's part of an INT acceptance begins (R811). -/
def State.accepted (s : State) : State := { s.beginStep.beginAcceptance true with bus := s.intData }

theorem acceptInt_im0 (h : s.im = .im0) : acceptInt s.beginStep = acceptIm0 s.accepted := by
  have h' : s.beginStep.im = .im0 := h
  unfold acceptInt; simp only [h']; rfl

theorem acceptInt_im1 (h : s.im = .im1) : acceptInt s.beginStep = acceptIm1 s.accepted := by
  have h' : s.beginStep.im = .im1 := h
  unfold acceptInt; simp only [h']; rfl

theorem acceptInt_im2 (h : s.im = .im2) : acceptInt s.beginStep = acceptIm2 s.accepted := by
  have h' : s.beginStep.im = .im2 := h
  unfold acceptInt; simp only [h']; rfl

/-- What the common part of an acceptance writes. -/
theorem frame_beginAcceptance (m : Bool) :
    Frame s (s.beginAcceptance m) [.halted, .eiPending, .r, .iff1, .iff2] [] [] :=
  .ofElems rfl fun e he => by cases e <;> first | rfl | exact absurd (by decide) he

/-! ## R -/

/-- One increment of R as arithmetic: bits 6..0 count, bit 7 stays (R67). -/
theorem refresh_eq (r : Byte) :
    refresh r = BitVec.ofNat 8 (r.toNat / 128 * 128 + (r.toNat + 1) % 128) := by
  revert r; decide

theorem refresh_refresh_eq (r : Byte) :
    refresh (refresh r) = BitVec.ofNat 8 (r.toNat / 128 * 128 + (r.toNat + 2) % 128) := by
  revert r; decide

/-! ## Fetching -/

theorem frame_fetchOpcode : Frame s s.fetchOpcode [.pc, .r, .bus] [] [] :=
  (((frame_noteRead s s.pc).trans (frame_setPc _ (s.pc + 1#16))).trans
    (frame_setRefresh _ (refresh s.r))).mono
    (by simp) (by simp)

theorem frame_fetchByte : Frame s s.fetchByte [.pc, .bus] [] [] :=
  ((frame_noteRead s s.pc).trans (frame_setPc _ _)).mono (by simp) (by simp)

theorem frame_setPfx (x : IndexByte) : Frame s (s.setPfx x) [.pfx] [] [] :=
  .ofElems rfl fun e he => by cases e <;> first | rfl | exact absurd (by decide) he

theorem frame_fetchBytes (n : Nat) : Frame s (State.fetchBytes n s) [.pc, .bus] [] [] := by
  induction n generalizing s with
  | zero => exact (Frame.refl s).mono (by simp) (by simp)
  | succ n ih => exact ((frame_fetchByte s).trans (ih _)).mono (by simp) (by simp)

theorem frame_fetchInstr (b0 : Byte) (len : Nat) :
    Frame s (s.fetchInstr b0 len) [.pc, .r, .pfx, .bus] [] [] := by
  have f : Frame s ((s.setPfx .none).fetchOpcode.setPfx (indexOf b0))
      [.pc, .r, .pfx, .bus] [] [] :=
    (((frame_setPfx s _).trans (frame_fetchOpcode _)).trans (frame_setPfx _ _)).mono
      (by simp) (by simp)
  unfold State.fetchInstr
  by_cases h : leads b0 = true
  · simp only [h, if_true]
    exact ((f.trans (frame_fetchOpcode _)).trans (frame_fetchBytes _ _)).mono (by simp) (by simp)
  · simp only [h]
    exact (f.trans (frame_fetchBytes _ _)).mono (by simp) (by simp)

/-- One address after another. -/
theorem add_one_add (w : Word) (k : Nat) :
    w + 1#16 + BitVec.ofNat 16 k = w + BitVec.ofNat 16 (k + 1) := by
  rw [BitVec.add_assoc, Nat.add_comm k 1, BitVec.ofNat_add]

theorem fetchBytes_pc (n : Nat) : (State.fetchBytes n s).pc = s.pc + BitVec.ofNat 16 n := by
  induction n generalizing s with
  | zero => exact (BitVec.add_zero _).symm
  | succ n ih => exact (ih s.fetchByte).trans (add_one_add s.pc n)

theorem fetchBytes_r (n : Nat) : (State.fetchBytes n s).r = s.r := by
  induction n generalizing s with
  | zero => rfl
  | succ n ih => exact ih s.fetchByte

theorem fetchBytes_cycles (n : Nat) : (State.fetchBytes n s).cycles = s.cycles := by
  induction n generalizing s with
  | zero => rfl
  | succ n ih => exact ih s.fetchByte

theorem fetchBytes_calls (n : Nat) :
    (State.fetchBytes n s).calls
      = ((List.range n).map fun k => PortCall.memRead (s.pc + BitVec.ofNat 16 k)
          (s.byteAfter k)).reverse ++ s.calls := by
  induction n generalizing s with
  | zero => rfl
  | succ n ih =>
    refine (ih s.fetchByte).trans ?_
    have h (k : Nat) : s.fetchByte.pc + BitVec.ofNat 16 k = s.pc + BitVec.ofNat 16 (k + 1) :=
      add_one_add s.pc k
    have hb (k : Nat) : s.fetchByte.byteAfter k = s.byteAfter (k + 1) := rfl
    simp only [h, hb]
    rw [List.range_succ_eq_map]
    simp [Function.comp_def, State.byteAfter, State.fetchBytes]

theorem fetchBytes_bus (n : Nat) : (State.fetchBytes (n + 1) s).bus = s.byteAfter n := by
  induction n generalizing s with
  | zero => rfl
  | succ n ih => exact ih s.fetchByte

/-- Where the fetch after n others reads. -/
theorem byteAfter_eq (n : Nat) :
    s.byteAfter n = (State.fetchBytes n s).peek (s.pc + BitVec.ofNat 16 n) := by
  unfold State.byteAfter; rw [fetchBytes_pc]

/-- What is fetched does not depend on R, `prefix` or the outputs of the step. -/
theorem byteAfter_congr {s t : State} (hm : t.mem = s.mem) (hp : t.params = s.params)
    (hd : t.draws = s.draws) (he : t.sideEffects = s.sideEffects) (hpc : t.pc = s.pc) (n : Nat) :
    t.byteAfter n = s.byteAfter n := by
  induction n generalizing s t with
  | zero => exact (congrArg t.peek hpc).trans (State.peek_congr hm hp hd s.pc)
  | succ n ih =>
    refine ih (s := s.fetchByte) (t := t.fetchByte) ?_ hp ?_ ?_ ?_
    · simp only [State.fetchByte_mem, hm, State.effects, he]
    · simp only [State.fetchByte_draws, hd]
    · simp only [State.fetchByte_sideEffects, he]
    · simp only [State.fetchByte_pc, hpc]

/-- The bytes after the first fetch of an instruction. -/
theorem byteAfter_fetched (x : IndexByte) (n : Nat) :
    ((s.setPfx .none).fetchOpcode.setPfx x).byteAfter n = s.byteAfter (n + 1) :=
  byteAfter_congr (s := s.fetchByte) (t := (s.setPfx .none).fetchOpcode.setPfx x)
    rfl rfl rfl rfl rfl n

/-- The bytes after the second fetch of an instruction that begins with a leading byte. -/
theorem byteAfter_fetched_twice (x : IndexByte) (n : Nat) :
    ((s.setPfx .none).fetchOpcode.setPfx x).fetchOpcode.byteAfter n = s.byteAfter (n + 2) :=
  (byteAfter_congr (s := ((s.setPfx .none).fetchOpcode.setPfx x).fetchByte)
    (t := ((s.setPfx .none).fetchOpcode.setPfx x).fetchOpcode) rfl rfl rfl rfl rfl n).trans
    (byteAfter_fetched s x (n + 1))

end Sys2Proof.Machine
end

