-- ==== Sys2Proof/Laws/Dispatch.lean ====
section
/-! SUPPORT. The handlers of the dispatch loop, which read the fields of an opcode and fetch their
operands, and the entries of the tables that decoding uses: for each of the seven tables and each
opcode that leads no further, the entry's instruction in the state after its operands are fetched
does what the handler does. -/

namespace Sys2Proof.Machine

/-- `exec` answers the state, or what `finish` makes of it. -/
def Gives (i : Instr) (t u : State) : Prop := exec i t = .next u ∨ exec i t = finish u

/-- The entry of a table for an opcode, in the state after its operands are fetched, where `off`
bytes of it are fetched already. -/
def EntryGives (table : List (List Cell)) (off : Nat) (op : Byte) (t u : State) : Prop :=
  Gives (entryWith table op (t.byteAfter 0) (t.byteAfter 1)).2
    (State.fetchBytes ((entryWith table op (t.byteAfter 0) (t.byteAfter 1)).1 - off) t) u

theorem base_entry : ∀ op, leads op = false → ∀ s : State,
    EntryGives baseTable 1 op (s.setPfx .none) (runMain op (s.setPfx .none)) := by
  refine forall_byte fun k hk => ?_
  interval_cases k
  all_goals
    intro h s
    first
      | exact absurd h (by decide)
      | exact .inl rfl
      | exact .inr rfl

theorem dd_entry_0 : ∀ k, k < 64 → leads (BitVec.ofNat 8 k) = false →
    ∀ s : State, EntryGives ddTable 2 (BitVec.ofNat 8 k) (s.setPfx .dd)
      (runMain (BitVec.ofNat 8 k) (s.setPfx .dd)) := by
  intro k hk
  interval_cases k
  all_goals
    intro h s
    first
      | exact absurd h (by decide)
      | exact .inl rfl
      | exact .inr rfl

theorem dd_entry_1 : ∀ k, 64 ≤ k → k < 128 → leads (BitVec.ofNat 8 k) = false →
    ∀ s : State, EntryGives ddTable 2 (BitVec.ofNat 8 k) (s.setPfx .dd)
      (runMain (BitVec.ofNat 8 k) (s.setPfx .dd)) := by
  intro k hl hk
  interval_cases k
  all_goals
    intro h s
    first
      | exact absurd h (by decide)
      | exact .inl rfl
      | exact .inr rfl

theorem dd_entry_2 : ∀ k, 128 ≤ k → k < 192 → leads (BitVec.ofNat 8 k) = false →
    ∀ s : State, EntryGives ddTable 2 (BitVec.ofNat 8 k) (s.setPfx .dd)
      (runMain (BitVec.ofNat 8 k) (s.setPfx .dd)) := by
  intro k hl hk
  interval_cases k
  all_goals
    intro h s
    first
      | exact absurd h (by decide)
      | exact .inl rfl
      | exact .inr rfl

theorem dd_entry_3 : ∀ k, 192 ≤ k → k < 256 → leads (BitVec.ofNat 8 k) = false →
    ∀ s : State, EntryGives ddTable 2 (BitVec.ofNat 8 k) (s.setPfx .dd)
      (runMain (BitVec.ofNat 8 k) (s.setPfx .dd)) := by
  intro k hl hk
  interval_cases k
  all_goals
    intro h s
    first
      | exact absurd h (by decide)
      | exact .inl rfl
      | exact .inr rfl

theorem dd_entry : ∀ op, leads op = false → ∀ s : State,
    EntryGives ddTable 2 op (s.setPfx .dd) (runMain op (s.setPfx .dd)) := by
  refine forall_byte fun k hk => ?_
  by_cases h1 : k < 64
  · exact dd_entry_0 k h1
  by_cases h2 : k < 128
  · exact dd_entry_1 k (by omega) h2
  by_cases h3 : k < 192
  · exact dd_entry_2 k (by omega) h3
  · exact dd_entry_3 k (by omega) hk

theorem fd_entry_0 : ∀ k, k < 64 → leads (BitVec.ofNat 8 k) = false →
    ∀ s : State, EntryGives fdTable 2 (BitVec.ofNat 8 k) (s.setPfx .fd)
      (runMain (BitVec.ofNat 8 k) (s.setPfx .fd)) := by
  intro k hk
  interval_cases k
  all_goals
    intro h s
    first
      | exact absurd h (by decide)
      | exact .inl rfl
      | exact .inr rfl

theorem fd_entry_1 : ∀ k, 64 ≤ k → k < 128 → leads (BitVec.ofNat 8 k) = false →
    ∀ s : State, EntryGives fdTable 2 (BitVec.ofNat 8 k) (s.setPfx .fd)
      (runMain (BitVec.ofNat 8 k) (s.setPfx .fd)) := by
  intro k hl hk
  interval_cases k
  all_goals
    intro h s
    first
      | exact absurd h (by decide)
      | exact .inl rfl
      | exact .inr rfl

theorem fd_entry_2 : ∀ k, 128 ≤ k → k < 192 → leads (BitVec.ofNat 8 k) = false →
    ∀ s : State, EntryGives fdTable 2 (BitVec.ofNat 8 k) (s.setPfx .fd)
      (runMain (BitVec.ofNat 8 k) (s.setPfx .fd)) := by
  intro k hl hk
  interval_cases k
  all_goals
    intro h s
    first
      | exact absurd h (by decide)
      | exact .inl rfl
      | exact .inr rfl

theorem fd_entry_3 : ∀ k, 192 ≤ k → k < 256 → leads (BitVec.ofNat 8 k) = false →
    ∀ s : State, EntryGives fdTable 2 (BitVec.ofNat 8 k) (s.setPfx .fd)
      (runMain (BitVec.ofNat 8 k) (s.setPfx .fd)) := by
  intro k hl hk
  interval_cases k
  all_goals
    intro h s
    first
      | exact absurd h (by decide)
      | exact .inl rfl
      | exact .inr rfl

theorem fd_entry : ∀ op, leads op = false → ∀ s : State,
    EntryGives fdTable 2 op (s.setPfx .fd) (runMain op (s.setPfx .fd)) := by
  refine forall_byte fun k hk => ?_
  by_cases h1 : k < 64
  · exact fd_entry_0 k h1
  by_cases h2 : k < 128
  · exact fd_entry_1 k (by omega) h2
  by_cases h3 : k < 192
  · exact fd_entry_2 k (by omega) h3
  · exact fd_entry_3 k (by omega) hk

theorem cb_entry : ∀ (op : Byte) (s : State), EntryGives cbTable 2 op s (runCB op s) := by
  refine forall_byte fun k hk => ?_
  interval_cases k
  all_goals
    intro s
    first
      | exact .inl rfl
      | exact .inr rfl

theorem ed_entry : ∀ (op : Byte) (s : State), EntryGives edTable 2 op s (runED op s) := by
  refine forall_byte fun k hk => ?_
  interval_cases k
  all_goals
    intro s
    first
      | exact .inl rfl
      | exact .inr rfl

theorem ddcb_entry : ∀ (op d : Byte) (s : State),
    Gives (entryWith ddcbTable op d 0#8).2 (s.setPfx .dd)
      (runXCB d op (s.setPfx .dd)) := by
  refine forall_byte fun k hk => ?_
  interval_cases k
  all_goals
    intro d s
    first
      | exact .inl rfl
      | exact .inr rfl

theorem fdcb_entry : ∀ (op d : Byte) (s : State),
    Gives (entryWith fdcbTable op d 0#8).2 (s.setPfx .fd)
      (runXCB d op (s.setPfx .fd)) := by
  refine forall_byte fun k hk => ?_
  interval_cases k
  all_goals
    intro d s
    first
      | exact .inl rfl
      | exact .inr rfl

end Sys2Proof.Machine
end

