-- ==== Sys2Proof/Laws/Flags.lean ====
section
/-! SUPPORT. F bit by bit: what each flag helper gives in each bit, and a byte as its eight bits. -/

namespace Sys2Proof.Machine

/-- A byte is the F of its bits. -/
theorem eq_flags (v : Byte) : v = flags (v.getLsbD 7) (v.getLsbD 6) (v.getLsbD 5) (v.getLsbD 4)
    (v.getLsbD 3) (v.getLsbD 2) (v.getLsbD 1) (v.getLsbD 0) := by
  revert v; decide

/-- The bits of F. -/
theorem flags_bits (s z x5 h x3 pv n c : Bool) :
    (flags s z x5 h x3 pv n c).getLsbD 7 = s ∧ (flags s z x5 h x3 pv n c).getLsbD 6 = z
      ∧ (flags s z x5 h x3 pv n c).getLsbD 5 = x5 ∧ (flags s z x5 h x3 pv n c).getLsbD 4 = h
      ∧ (flags s z x5 h x3 pv n c).getLsbD 3 = x3 ∧ (flags s z x5 h x3 pv n c).getLsbD 2 = pv
      ∧ (flags s z x5 h x3 pv n c).getLsbD 1 = n ∧ (flags s z x5 h x3 pv n c).getLsbD 0 = c := by
  revert s z x5 h x3 pv n c; decide

/-- A byte that has the eight bits is F of them. -/
theorem eq_flags_of {v : Byte} {s z x5 h x3 pv n c : Bool} (h7 : v.getLsbD 7 = s)
    (h6 : v.getLsbD 6 = z) (h5 : v.getLsbD 5 = x5) (h4 : v.getLsbD 4 = h) (h3 : v.getLsbD 3 = x3)
    (h2 : v.getLsbD 2 = pv) (h1 : v.getLsbD 1 = n) (h0 : v.getLsbD 0 = c) :
    v = flags s z x5 h x3 pv n c := by
  subst h7 h6 h5 h4 h3 h2 h1 h0; exact eq_flags v

@[simp] theorem flagBit_getLsbD (m : Byte) (c : Bool) (k : Nat) :
    (flagBit m c).getLsbD k = (c && m.getLsbD k) := by cases c <;> simp [flagBit]

@[simp] theorem sign_getLsbD (v : Byte) (k : Nat) :
    (sign v).getLsbD k = (v.getLsbD k && (0x80#8).getLsbD k) := by simp [sign]

@[simp] theorem zero_getLsbD (v : Byte) (k : Nat) :
    (zero v).getLsbD k = (v == 0#8 && (0x40#8).getLsbD k) := by simp [zero]

@[simp] theorem x5_getLsbD (v : Byte) (k : Nat) :
    (x5 v).getLsbD k = (v.getLsbD k && (0x20#8).getLsbD k) := by simp [x5]

@[simp] theorem x3_getLsbD (v : Byte) (k : Nat) :
    (x3 v).getLsbD k = (v.getLsbD k && (0x08#8).getLsbD k) := by simp [x3]

@[simp] theorem parity_getLsbD (v : Byte) (k : Nat) :
    (parity v).getLsbD k = (evenOnes v && (0x04#8).getLsbD k) := by simp [parity]

@[simp] theorem halfCarry_getLsbD (c : Bool) (k : Nat) :
    (halfCarry c).getLsbD k = (c && (0x10#8).getLsbD k) := by simp [halfCarry]

@[simp] theorem carry_getLsbD (c : Bool) (k : Nat) :
    (carry c).getLsbD k = (c && (0x01#8).getLsbD k) := by simp [carry]

@[simp] theorem overflow_getLsbD (c : Bool) (k : Nat) :
    (overflow c).getLsbD k = (c && (0x04#8).getLsbD k) := by simp [overflow]

@[simp] theorem subtract_getLsbD (c : Bool) (k : Nat) :
    (subtract c).getLsbD k = (c && (0x02#8).getLsbD k) := by simp [subtract]

@[simp] theorem unaffectedMask_getLsbD (f m : Byte) (k : Nat) :
    (unaffectedMask f m).getLsbD k = (f.getLsbD k && m.getLsbD k) := by simp [unaffectedMask]

@[simp] theorem sz53_getLsbD (v : Byte) (k : Nat) :
    (sz53 v).getLsbD k = (v.getLsbD k && (0xA8#8).getLsbD k || v == 0#8 && (0x40#8).getLsbD k) := by
  have h : (0xA8#8).getLsbD k
      = ((0x80#8).getLsbD k || (0x20#8).getLsbD k || (0x08#8).getLsbD k) := by
    rw [← BitVec.getLsbD_or, ← BitVec.getLsbD_or]; rfl
  rw [h, sz53]
  simp only [BitVec.getLsbD_or, sign_getLsbD, zero_getLsbD, x5_getLsbD, x3_getLsbD]
  cases v.getLsbD k <;> cases v == 0#8 <;> simp [Bool.or_comm, Bool.or_left_comm]

@[simp] theorem x53_getLsbD (v : Byte) (k : Nat) :
    (x53 v).getLsbD k = (v.getLsbD k && (0x28#8).getLsbD k) := by
  have h : (0x28#8).getLsbD k = ((0x20#8).getLsbD k || (0x08#8).getLsbD k) := by
    rw [← BitVec.getLsbD_or]; rfl
  rw [h, x53]
  simp only [BitVec.getLsbD_or, x5_getLsbD, x3_getLsbD]
  cases v.getLsbD k <;> simp

@[simp] theorem sz53p_getLsbD (v : Byte) (k : Nat) :
    (sz53p v).getLsbD k = (v.getLsbD k && (0xA8#8).getLsbD k || v == 0#8 && (0x40#8).getLsbD k
      || evenOnes v && (0x04#8).getLsbD k) := by simp [sz53p]

end Sys2Proof.Machine
end

