-- ==== Sys2Proof/Laws/PerInstr.lean ====
section
/-! SUPPORT. A law of every instruction: it is encoded in one to four bytes (R200). -/

set_option linter.style.nameCheck false

namespace Sys2Proof.Laws.Lengths

/-- An instruction takes 1 to 4 bytes (R200). -/
def Statement (i : Instr) : Prop := 1 ≤ (encode i).length ∧ (encode i).length ≤ 4

theorem nop (p : IndexByte) : Statement (.nop p) := by
  cases p <;> exact ⟨Nat.le_of_ble_eq_true rfl, Nat.le_of_ble_eq_true rfl⟩
theorem ld_bc_nn (p : IndexByte) (nn : Word) : Statement (.ld_bc_nn p nn) := by
  cases p <;> exact ⟨Nat.le_of_ble_eq_true rfl, Nat.le_of_ble_eq_true rfl⟩
theorem ld__bc__a (p : IndexByte) : Statement (.ld__bc__a p) := by
  cases p <;> exact ⟨Nat.le_of_ble_eq_true rfl, Nat.le_of_ble_eq_true rfl⟩
theorem inc_bc (p : IndexByte) : Statement (.inc_bc p) := by
  cases p <;> exact ⟨Nat.le_of_ble_eq_true rfl, Nat.le_of_ble_eq_true rfl⟩
theorem inc_b (p : IndexByte) : Statement (.inc_b p) := by
  cases p <;> exact ⟨Nat.le_of_ble_eq_true rfl, Nat.le_of_ble_eq_true rfl⟩
theorem dec_b (p : IndexByte) : Statement (.dec_b p) := by
  cases p <;> exact ⟨Nat.le_of_ble_eq_true rfl, Nat.le_of_ble_eq_true rfl⟩
theorem ld_b_n (p : IndexByte) (n : Byte) : Statement (.ld_b_n p n) := by
  cases p <;> exact ⟨Nat.le_of_ble_eq_true rfl, Nat.le_of_ble_eq_true rfl⟩
theorem rlca (p : IndexByte) : Statement (.rlca p) := by
  cases p <;> exact ⟨Nat.le_of_ble_eq_true rfl, Nat.le_of_ble_eq_true rfl⟩
theorem ex_af_af (p : IndexByte) : Statement (.ex_af_af p) := by
  cases p <;> exact ⟨Nat.le_of_ble_eq_true rfl, Nat.le_of_ble_eq_true rfl⟩
theorem add_hl_bc : Statement .add_hl_bc :=
  ⟨Nat.le_of_ble_eq_true rfl, Nat.le_of_ble_eq_true rfl⟩
theorem ld_a__bc (p : IndexByte) : Statement (.ld_a__bc p) := by
  cases p <;> exact ⟨Nat.le_of_ble_eq_true rfl, Nat.le_of_ble_eq_true rfl⟩
theorem dec_bc (p : IndexByte) : Statement (.dec_bc p) := by
  cases p <;> exact ⟨Nat.le_of_ble_eq_true rfl, Nat.le_of_ble_eq_true rfl⟩
theorem inc_c (p : IndexByte) : Statement (.inc_c p) := by
  cases p <;> exact ⟨Nat.le_of_ble_eq_true rfl, Nat.le_of_ble_eq_true rfl⟩
theorem dec_c (p : IndexByte) : Statement (.dec_c p) := by
  cases p <;> exact ⟨Nat.le_of_ble_eq_true rfl, Nat.le_of_ble_eq_true rfl⟩
theorem ld_c_n (p : IndexByte) (n : Byte) : Statement (.ld_c_n p n) := by
  cases p <;> exact ⟨Nat.le_of_ble_eq_true rfl, Nat.le_of_ble_eq_true rfl⟩
theorem rrca (p : IndexByte) : Statement (.rrca p) := by
  cases p <;> exact ⟨Nat.le_of_ble_eq_true rfl, Nat.le_of_ble_eq_true rfl⟩
theorem djnz_e (p : IndexByte) (e : Byte) : Statement (.djnz_e p e) := by
  cases p <;> exact ⟨Nat.le_of_ble_eq_true rfl, Nat.le_of_ble_eq_true rfl⟩
theorem ld_de_nn (p : IndexByte) (nn : Word) : Statement (.ld_de_nn p nn) := by
  cases p <;> exact ⟨Nat.le_of_ble_eq_true rfl, Nat.le_of_ble_eq_true rfl⟩
theorem ld__de__a (p : IndexByte) : Statement (.ld__de__a p) := by
  cases p <;> exact ⟨Nat.le_of_ble_eq_true rfl, Nat.le_of_ble_eq_true rfl⟩
theorem inc_de (p : IndexByte) : Statement (.inc_de p) := by
  cases p <;> exact ⟨Nat.le_of_ble_eq_true rfl, Nat.le_of_ble_eq_true rfl⟩
theorem inc_d (p : IndexByte) : Statement (.inc_d p) := by
  cases p <;> exact ⟨Nat.le_of_ble_eq_true rfl, Nat.le_of_ble_eq_true rfl⟩
theorem dec_d (p : IndexByte) : Statement (.dec_d p) := by
  cases p <;> exact ⟨Nat.le_of_ble_eq_true rfl, Nat.le_of_ble_eq_true rfl⟩
theorem ld_d_n (p : IndexByte) (n : Byte) : Statement (.ld_d_n p n) := by
  cases p <;> exact ⟨Nat.le_of_ble_eq_true rfl, Nat.le_of_ble_eq_true rfl⟩
theorem rla (p : IndexByte) : Statement (.rla p) := by
  cases p <;> exact ⟨Nat.le_of_ble_eq_true rfl, Nat.le_of_ble_eq_true rfl⟩
theorem jr_e (p : IndexByte) (e : Byte) : Statement (.jr_e p e) := by
  cases p <;> exact ⟨Nat.le_of_ble_eq_true rfl, Nat.le_of_ble_eq_true rfl⟩
theorem add_hl_de : Statement .add_hl_de :=
  ⟨Nat.le_of_ble_eq_true rfl, Nat.le_of_ble_eq_true rfl⟩
theorem ld_a__de (p : IndexByte) : Statement (.ld_a__de p) := by
  cases p <;> exact ⟨Nat.le_of_ble_eq_true rfl, Nat.le_of_ble_eq_true rfl⟩
theorem dec_de (p : IndexByte) : Statement (.dec_de p) := by
  cases p <;> exact ⟨Nat.le_of_ble_eq_true rfl, Nat.le_of_ble_eq_true rfl⟩
theorem inc_e (p : IndexByte) : Statement (.inc_e p) := by
  cases p <;> exact ⟨Nat.le_of_ble_eq_true rfl, Nat.le_of_ble_eq_true rfl⟩
theorem dec_e (p : IndexByte) : Statement (.dec_e p) := by
  cases p <;> exact ⟨Nat.le_of_ble_eq_true rfl, Nat.le_of_ble_eq_true rfl⟩
theorem ld_e_n (p : IndexByte) (n : Byte) : Statement (.ld_e_n p n) := by
  cases p <;> exact ⟨Nat.le_of_ble_eq_true rfl, Nat.le_of_ble_eq_true rfl⟩
theorem rra (p : IndexByte) : Statement (.rra p) := by
  cases p <;> exact ⟨Nat.le_of_ble_eq_true rfl, Nat.le_of_ble_eq_true rfl⟩
theorem jr_nz_e (p : IndexByte) (e : Byte) : Statement (.jr_nz_e p e) := by
  cases p <;> exact ⟨Nat.le_of_ble_eq_true rfl, Nat.le_of_ble_eq_true rfl⟩
theorem ld_hl_nn (nn : Word) : Statement (.ld_hl_nn nn) :=
  ⟨Nat.le_of_ble_eq_true rfl, Nat.le_of_ble_eq_true rfl⟩
theorem ld__nn__hl (nn : Word) : Statement (.ld__nn__hl nn) :=
  ⟨Nat.le_of_ble_eq_true rfl, Nat.le_of_ble_eq_true rfl⟩
theorem inc_hl : Statement .inc_hl :=
  ⟨Nat.le_of_ble_eq_true rfl, Nat.le_of_ble_eq_true rfl⟩
theorem inc_h : Statement .inc_h :=
  ⟨Nat.le_of_ble_eq_true rfl, Nat.le_of_ble_eq_true rfl⟩
theorem dec_h : Statement .dec_h :=
  ⟨Nat.le_of_ble_eq_true rfl, Nat.le_of_ble_eq_true rfl⟩
theorem ld_h_n (n : Byte) : Statement (.ld_h_n n) :=
  ⟨Nat.le_of_ble_eq_true rfl, Nat.le_of_ble_eq_true rfl⟩
theorem daa (p : IndexByte) : Statement (.daa p) := by
  cases p <;> exact ⟨Nat.le_of_ble_eq_true rfl, Nat.le_of_ble_eq_true rfl⟩
theorem jr_z_e (p : IndexByte) (e : Byte) : Statement (.jr_z_e p e) := by
  cases p <;> exact ⟨Nat.le_of_ble_eq_true rfl, Nat.le_of_ble_eq_true rfl⟩
theorem add_hl_hl : Statement .add_hl_hl :=
  ⟨Nat.le_of_ble_eq_true rfl, Nat.le_of_ble_eq_true rfl⟩
theorem ld_hl__nn (nn : Word) : Statement (.ld_hl__nn nn) :=
  ⟨Nat.le_of_ble_eq_true rfl, Nat.le_of_ble_eq_true rfl⟩
theorem dec_hl : Statement .dec_hl :=
  ⟨Nat.le_of_ble_eq_true rfl, Nat.le_of_ble_eq_true rfl⟩
theorem inc_l : Statement .inc_l :=
  ⟨Nat.le_of_ble_eq_true rfl, Nat.le_of_ble_eq_true rfl⟩
theorem dec_l : Statement .dec_l :=
  ⟨Nat.le_of_ble_eq_true rfl, Nat.le_of_ble_eq_true rfl⟩
theorem ld_l_n (n : Byte) : Statement (.ld_l_n n) :=
  ⟨Nat.le_of_ble_eq_true rfl, Nat.le_of_ble_eq_true rfl⟩
theorem cpl (p : IndexByte) : Statement (.cpl p) := by
  cases p <;> exact ⟨Nat.le_of_ble_eq_true rfl, Nat.le_of_ble_eq_true rfl⟩
theorem jr_nc_e (p : IndexByte) (e : Byte) : Statement (.jr_nc_e p e) := by
  cases p <;> exact ⟨Nat.le_of_ble_eq_true rfl, Nat.le_of_ble_eq_true rfl⟩
theorem ld_sp_nn (p : IndexByte) (nn : Word) : Statement (.ld_sp_nn p nn) := by
  cases p <;> exact ⟨Nat.le_of_ble_eq_true rfl, Nat.le_of_ble_eq_true rfl⟩
theorem ld__nn__a (p : IndexByte) (nn : Word) : Statement (.ld__nn__a p nn) := by
  cases p <;> exact ⟨Nat.le_of_ble_eq_true rfl, Nat.le_of_ble_eq_true rfl⟩
theorem inc_sp (p : IndexByte) : Statement (.inc_sp p) := by
  cases p <;> exact ⟨Nat.le_of_ble_eq_true rfl, Nat.le_of_ble_eq_true rfl⟩
theorem inc__hl : Statement .inc__hl :=
  ⟨Nat.le_of_ble_eq_true rfl, Nat.le_of_ble_eq_true rfl⟩
theorem dec__hl : Statement .dec__hl :=
  ⟨Nat.le_of_ble_eq_true rfl, Nat.le_of_ble_eq_true rfl⟩
theorem ld__hl__n (n : Byte) : Statement (.ld__hl__n n) :=
  ⟨Nat.le_of_ble_eq_true rfl, Nat.le_of_ble_eq_true rfl⟩
theorem scf (p : IndexByte) : Statement (.scf p) := by
  cases p <;> exact ⟨Nat.le_of_ble_eq_true rfl, Nat.le_of_ble_eq_true rfl⟩
theorem jr_c_e (p : IndexByte) (e : Byte) : Statement (.jr_c_e p e) := by
  cases p <;> exact ⟨Nat.le_of_ble_eq_true rfl, Nat.le_of_ble_eq_true rfl⟩
theorem add_hl_sp : Statement .add_hl_sp :=
  ⟨Nat.le_of_ble_eq_true rfl, Nat.le_of_ble_eq_true rfl⟩
theorem ld_a__nn (p : IndexByte) (nn : Word) : Statement (.ld_a__nn p nn) := by
  cases p <;> exact ⟨Nat.le_of_ble_eq_true rfl, Nat.le_of_ble_eq_true rfl⟩
theorem dec_sp (p : IndexByte) : Statement (.dec_sp p) := by
  cases p <;> exact ⟨Nat.le_of_ble_eq_true rfl, Nat.le_of_ble_eq_true rfl⟩
theorem inc_a (p : IndexByte) : Statement (.inc_a p) := by
  cases p <;> exact ⟨Nat.le_of_ble_eq_true rfl, Nat.le_of_ble_eq_true rfl⟩
theorem dec_a (p : IndexByte) : Statement (.dec_a p) := by
  cases p <;> exact ⟨Nat.le_of_ble_eq_true rfl, Nat.le_of_ble_eq_true rfl⟩
theorem ld_a_n (p : IndexByte) (n : Byte) : Statement (.ld_a_n p n) := by
  cases p <;> exact ⟨Nat.le_of_ble_eq_true rfl, Nat.le_of_ble_eq_true rfl⟩
theorem ccf (p : IndexByte) : Statement (.ccf p) := by
  cases p <;> exact ⟨Nat.le_of_ble_eq_true rfl, Nat.le_of_ble_eq_true rfl⟩
theorem ld_b_b (p : IndexByte) : Statement (.ld_b_b p) := by
  cases p <;> exact ⟨Nat.le_of_ble_eq_true rfl, Nat.le_of_ble_eq_true rfl⟩
theorem ld_b_c (p : IndexByte) : Statement (.ld_b_c p) := by
  cases p <;> exact ⟨Nat.le_of_ble_eq_true rfl, Nat.le_of_ble_eq_true rfl⟩
theorem ld_b_d (p : IndexByte) : Statement (.ld_b_d p) := by
  cases p <;> exact ⟨Nat.le_of_ble_eq_true rfl, Nat.le_of_ble_eq_true rfl⟩
theorem ld_b_e (p : IndexByte) : Statement (.ld_b_e p) := by
  cases p <;> exact ⟨Nat.le_of_ble_eq_true rfl, Nat.le_of_ble_eq_true rfl⟩
theorem ld_b_h : Statement .ld_b_h :=
  ⟨Nat.le_of_ble_eq_true rfl, Nat.le_of_ble_eq_true rfl⟩
theorem ld_b_l : Statement .ld_b_l :=
  ⟨Nat.le_of_ble_eq_true rfl, Nat.le_of_ble_eq_true rfl⟩
theorem ld_b__hl : Statement .ld_b__hl :=
  ⟨Nat.le_of_ble_eq_true rfl, Nat.le_of_ble_eq_true rfl⟩
theorem ld_b_a (p : IndexByte) : Statement (.ld_b_a p) := by
  cases p <;> exact ⟨Nat.le_of_ble_eq_true rfl, Nat.le_of_ble_eq_true rfl⟩
theorem ld_c_b (p : IndexByte) : Statement (.ld_c_b p) := by
  cases p <;> exact ⟨Nat.le_of_ble_eq_true rfl, Nat.le_of_ble_eq_true rfl⟩
theorem ld_c_c (p : IndexByte) : Statement (.ld_c_c p) := by
  cases p <;> exact ⟨Nat.le_of_ble_eq_true rfl, Nat.le_of_ble_eq_true rfl⟩
theorem ld_c_d (p : IndexByte) : Statement (.ld_c_d p) := by
  cases p <;> exact ⟨Nat.le_of_ble_eq_true rfl, Nat.le_of_ble_eq_true rfl⟩
theorem ld_c_e (p : IndexByte) : Statement (.ld_c_e p) := by
  cases p <;> exact ⟨Nat.le_of_ble_eq_true rfl, Nat.le_of_ble_eq_true rfl⟩
theorem ld_c_h : Statement .ld_c_h :=
  ⟨Nat.le_of_ble_eq_true rfl, Nat.le_of_ble_eq_true rfl⟩
theorem ld_c_l : Statement .ld_c_l :=
  ⟨Nat.le_of_ble_eq_true rfl, Nat.le_of_ble_eq_true rfl⟩
theorem ld_c__hl : Statement .ld_c__hl :=
  ⟨Nat.le_of_ble_eq_true rfl, Nat.le_of_ble_eq_true rfl⟩
theorem ld_c_a (p : IndexByte) : Statement (.ld_c_a p) := by
  cases p <;> exact ⟨Nat.le_of_ble_eq_true rfl, Nat.le_of_ble_eq_true rfl⟩
theorem ld_d_b (p : IndexByte) : Statement (.ld_d_b p) := by
  cases p <;> exact ⟨Nat.le_of_ble_eq_true rfl, Nat.le_of_ble_eq_true rfl⟩
theorem ld_d_c (p : IndexByte) : Statement (.ld_d_c p) := by
  cases p <;> exact ⟨Nat.le_of_ble_eq_true rfl, Nat.le_of_ble_eq_true rfl⟩
theorem ld_d_d (p : IndexByte) : Statement (.ld_d_d p) := by
  cases p <;> exact ⟨Nat.le_of_ble_eq_true rfl, Nat.le_of_ble_eq_true rfl⟩
theorem ld_d_e (p : IndexByte) : Statement (.ld_d_e p) := by
  cases p <;> exact ⟨Nat.le_of_ble_eq_true rfl, Nat.le_of_ble_eq_true rfl⟩
theorem ld_d_h : Statement .ld_d_h :=
  ⟨Nat.le_of_ble_eq_true rfl, Nat.le_of_ble_eq_true rfl⟩
theorem ld_d_l : Statement .ld_d_l :=
  ⟨Nat.le_of_ble_eq_true rfl, Nat.le_of_ble_eq_true rfl⟩
theorem ld_d__hl : Statement .ld_d__hl :=
  ⟨Nat.le_of_ble_eq_true rfl, Nat.le_of_ble_eq_true rfl⟩
theorem ld_d_a (p : IndexByte) : Statement (.ld_d_a p) := by
  cases p <;> exact ⟨Nat.le_of_ble_eq_true rfl, Nat.le_of_ble_eq_true rfl⟩
theorem ld_e_b (p : IndexByte) : Statement (.ld_e_b p) := by
  cases p <;> exact ⟨Nat.le_of_ble_eq_true rfl, Nat.le_of_ble_eq_true rfl⟩
theorem ld_e_c (p : IndexByte) : Statement (.ld_e_c p) := by
  cases p <;> exact ⟨Nat.le_of_ble_eq_true rfl, Nat.le_of_ble_eq_true rfl⟩
theorem ld_e_d (p : IndexByte) : Statement (.ld_e_d p) := by
  cases p <;> exact ⟨Nat.le_of_ble_eq_true rfl, Nat.le_of_ble_eq_true rfl⟩
theorem ld_e_e (p : IndexByte) : Statement (.ld_e_e p) := by
  cases p <;> exact ⟨Nat.le_of_ble_eq_true rfl, Nat.le_of_ble_eq_true rfl⟩
theorem ld_e_h : Statement .ld_e_h :=
  ⟨Nat.le_of_ble_eq_true rfl, Nat.le_of_ble_eq_true rfl⟩
theorem ld_e_l : Statement .ld_e_l :=
  ⟨Nat.le_of_ble_eq_true rfl, Nat.le_of_ble_eq_true rfl⟩
theorem ld_e__hl : Statement .ld_e__hl :=
  ⟨Nat.le_of_ble_eq_true rfl, Nat.le_of_ble_eq_true rfl⟩
theorem ld_e_a (p : IndexByte) : Statement (.ld_e_a p) := by
  cases p <;> exact ⟨Nat.le_of_ble_eq_true rfl, Nat.le_of_ble_eq_true rfl⟩
theorem ld_h_b : Statement .ld_h_b :=
  ⟨Nat.le_of_ble_eq_true rfl, Nat.le_of_ble_eq_true rfl⟩
theorem ld_h_c : Statement .ld_h_c :=
  ⟨Nat.le_of_ble_eq_true rfl, Nat.le_of_ble_eq_true rfl⟩
theorem ld_h_d : Statement .ld_h_d :=
  ⟨Nat.le_of_ble_eq_true rfl, Nat.le_of_ble_eq_true rfl⟩
theorem ld_h_e : Statement .ld_h_e :=
  ⟨Nat.le_of_ble_eq_true rfl, Nat.le_of_ble_eq_true rfl⟩
theorem ld_h_h : Statement .ld_h_h :=
  ⟨Nat.le_of_ble_eq_true rfl, Nat.le_of_ble_eq_true rfl⟩
theorem ld_h_l : Statement .ld_h_l :=
  ⟨Nat.le_of_ble_eq_true rfl, Nat.le_of_ble_eq_true rfl⟩
theorem ld_h__hl : Statement .ld_h__hl :=
  ⟨Nat.le_of_ble_eq_true rfl, Nat.le_of_ble_eq_true rfl⟩
theorem ld_h_a : Statement .ld_h_a :=
  ⟨Nat.le_of_ble_eq_true rfl, Nat.le_of_ble_eq_true rfl⟩
theorem ld_l_b : Statement .ld_l_b :=
  ⟨Nat.le_of_ble_eq_true rfl, Nat.le_of_ble_eq_true rfl⟩
theorem ld_l_c : Statement .ld_l_c :=
  ⟨Nat.le_of_ble_eq_true rfl, Nat.le_of_ble_eq_true rfl⟩
theorem ld_l_d : Statement .ld_l_d :=
  ⟨Nat.le_of_ble_eq_true rfl, Nat.le_of_ble_eq_true rfl⟩
theorem ld_l_e : Statement .ld_l_e :=
  ⟨Nat.le_of_ble_eq_true rfl, Nat.le_of_ble_eq_true rfl⟩
theorem ld_l_h : Statement .ld_l_h :=
  ⟨Nat.le_of_ble_eq_true rfl, Nat.le_of_ble_eq_true rfl⟩
theorem ld_l_l : Statement .ld_l_l :=
  ⟨Nat.le_of_ble_eq_true rfl, Nat.le_of_ble_eq_true rfl⟩
theorem ld_l__hl : Statement .ld_l__hl :=
  ⟨Nat.le_of_ble_eq_true rfl, Nat.le_of_ble_eq_true rfl⟩
theorem ld_l_a : Statement .ld_l_a :=
  ⟨Nat.le_of_ble_eq_true rfl, Nat.le_of_ble_eq_true rfl⟩
theorem ld__hl__b : Statement .ld__hl__b :=
  ⟨Nat.le_of_ble_eq_true rfl, Nat.le_of_ble_eq_true rfl⟩
theorem ld__hl__c : Statement .ld__hl__c :=
  ⟨Nat.le_of_ble_eq_true rfl, Nat.le_of_ble_eq_true rfl⟩
theorem ld__hl__d : Statement .ld__hl__d :=
  ⟨Nat.le_of_ble_eq_true rfl, Nat.le_of_ble_eq_true rfl⟩
theorem ld__hl__e : Statement .ld__hl__e :=
  ⟨Nat.le_of_ble_eq_true rfl, Nat.le_of_ble_eq_true rfl⟩
theorem ld__hl__h : Statement .ld__hl__h :=
  ⟨Nat.le_of_ble_eq_true rfl, Nat.le_of_ble_eq_true rfl⟩
theorem ld__hl__l : Statement .ld__hl__l :=
  ⟨Nat.le_of_ble_eq_true rfl, Nat.le_of_ble_eq_true rfl⟩
theorem halt (p : IndexByte) : Statement (.halt p) := by
  cases p <;> exact ⟨Nat.le_of_ble_eq_true rfl, Nat.le_of_ble_eq_true rfl⟩
theorem ld__hl__a : Statement .ld__hl__a :=
  ⟨Nat.le_of_ble_eq_true rfl, Nat.le_of_ble_eq_true rfl⟩
theorem ld_a_b (p : IndexByte) : Statement (.ld_a_b p) := by
  cases p <;> exact ⟨Nat.le_of_ble_eq_true rfl, Nat.le_of_ble_eq_true rfl⟩
theorem ld_a_c (p : IndexByte) : Statement (.ld_a_c p) := by
  cases p <;> exact ⟨Nat.le_of_ble_eq_true rfl, Nat.le_of_ble_eq_true rfl⟩
theorem ld_a_d (p : IndexByte) : Statement (.ld_a_d p) := by
  cases p <;> exact ⟨Nat.le_of_ble_eq_true rfl, Nat.le_of_ble_eq_true rfl⟩
theorem ld_a_e (p : IndexByte) : Statement (.ld_a_e p) := by
  cases p <;> exact ⟨Nat.le_of_ble_eq_true rfl, Nat.le_of_ble_eq_true rfl⟩
theorem ld_a_h : Statement .ld_a_h :=
  ⟨Nat.le_of_ble_eq_true rfl, Nat.le_of_ble_eq_true rfl⟩
theorem ld_a_l : Statement .ld_a_l :=
  ⟨Nat.le_of_ble_eq_true rfl, Nat.le_of_ble_eq_true rfl⟩
theorem ld_a__hl : Statement .ld_a__hl :=
  ⟨Nat.le_of_ble_eq_true rfl, Nat.le_of_ble_eq_true rfl⟩
theorem ld_a_a (p : IndexByte) : Statement (.ld_a_a p) := by
  cases p <;> exact ⟨Nat.le_of_ble_eq_true rfl, Nat.le_of_ble_eq_true rfl⟩
theorem add_a_b (p : IndexByte) : Statement (.add_a_b p) := by
  cases p <;> exact ⟨Nat.le_of_ble_eq_true rfl, Nat.le_of_ble_eq_true rfl⟩
theorem add_a_c (p : IndexByte) : Statement (.add_a_c p) := by
  cases p <;> exact ⟨Nat.le_of_ble_eq_true rfl, Nat.le_of_ble_eq_true rfl⟩
theorem add_a_d (p : IndexByte) : Statement (.add_a_d p) := by
  cases p <;> exact ⟨Nat.le_of_ble_eq_true rfl, Nat.le_of_ble_eq_true rfl⟩
theorem add_a_e (p : IndexByte) : Statement (.add_a_e p) := by
  cases p <;> exact ⟨Nat.le_of_ble_eq_true rfl, Nat.le_of_ble_eq_true rfl⟩
theorem add_a_h : Statement .add_a_h :=
  ⟨Nat.le_of_ble_eq_true rfl, Nat.le_of_ble_eq_true rfl⟩
theorem add_a_l : Statement .add_a_l :=
  ⟨Nat.le_of_ble_eq_true rfl, Nat.le_of_ble_eq_true rfl⟩
theorem add_a__hl : Statement .add_a__hl :=
  ⟨Nat.le_of_ble_eq_true rfl, Nat.le_of_ble_eq_true rfl⟩
theorem add_a_a (p : IndexByte) : Statement (.add_a_a p) := by
  cases p <;> exact ⟨Nat.le_of_ble_eq_true rfl, Nat.le_of_ble_eq_true rfl⟩
theorem adc_a_b (p : IndexByte) : Statement (.adc_a_b p) := by
  cases p <;> exact ⟨Nat.le_of_ble_eq_true rfl, Nat.le_of_ble_eq_true rfl⟩
theorem adc_a_c (p : IndexByte) : Statement (.adc_a_c p) := by
  cases p <;> exact ⟨Nat.le_of_ble_eq_true rfl, Nat.le_of_ble_eq_true rfl⟩
theorem adc_a_d (p : IndexByte) : Statement (.adc_a_d p) := by
  cases p <;> exact ⟨Nat.le_of_ble_eq_true rfl, Nat.le_of_ble_eq_true rfl⟩
theorem adc_a_e (p : IndexByte) : Statement (.adc_a_e p) := by
  cases p <;> exact ⟨Nat.le_of_ble_eq_true rfl, Nat.le_of_ble_eq_true rfl⟩
theorem adc_a_h : Statement .adc_a_h :=
  ⟨Nat.le_of_ble_eq_true rfl, Nat.le_of_ble_eq_true rfl⟩
theorem adc_a_l : Statement .adc_a_l :=
  ⟨Nat.le_of_ble_eq_true rfl, Nat.le_of_ble_eq_true rfl⟩
theorem adc_a__hl : Statement .adc_a__hl :=
  ⟨Nat.le_of_ble_eq_true rfl, Nat.le_of_ble_eq_true rfl⟩
theorem adc_a_a (p : IndexByte) : Statement (.adc_a_a p) := by
  cases p <;> exact ⟨Nat.le_of_ble_eq_true rfl, Nat.le_of_ble_eq_true rfl⟩
theorem sub_b (p : IndexByte) : Statement (.sub_b p) := by
  cases p <;> exact ⟨Nat.le_of_ble_eq_true rfl, Nat.le_of_ble_eq_true rfl⟩
theorem sub_c (p : IndexByte) : Statement (.sub_c p) := by
  cases p <;> exact ⟨Nat.le_of_ble_eq_true rfl, Nat.le_of_ble_eq_true rfl⟩
theorem sub_d (p : IndexByte) : Statement (.sub_d p) := by
  cases p <;> exact ⟨Nat.le_of_ble_eq_true rfl, Nat.le_of_ble_eq_true rfl⟩
theorem sub_e (p : IndexByte) : Statement (.sub_e p) := by
  cases p <;> exact ⟨Nat.le_of_ble_eq_true rfl, Nat.le_of_ble_eq_true rfl⟩
theorem sub_h : Statement .sub_h :=
  ⟨Nat.le_of_ble_eq_true rfl, Nat.le_of_ble_eq_true rfl⟩
theorem sub_l : Statement .sub_l :=
  ⟨Nat.le_of_ble_eq_true rfl, Nat.le_of_ble_eq_true rfl⟩
theorem sub__hl : Statement .sub__hl :=
  ⟨Nat.le_of_ble_eq_true rfl, Nat.le_of_ble_eq_true rfl⟩
theorem sub_a (p : IndexByte) : Statement (.sub_a p) := by
  cases p <;> exact ⟨Nat.le_of_ble_eq_true rfl, Nat.le_of_ble_eq_true rfl⟩
theorem sbc_a_b (p : IndexByte) : Statement (.sbc_a_b p) := by
  cases p <;> exact ⟨Nat.le_of_ble_eq_true rfl, Nat.le_of_ble_eq_true rfl⟩
theorem sbc_a_c (p : IndexByte) : Statement (.sbc_a_c p) := by
  cases p <;> exact ⟨Nat.le_of_ble_eq_true rfl, Nat.le_of_ble_eq_true rfl⟩
theorem sbc_a_d (p : IndexByte) : Statement (.sbc_a_d p) := by
  cases p <;> exact ⟨Nat.le_of_ble_eq_true rfl, Nat.le_of_ble_eq_true rfl⟩
theorem sbc_a_e (p : IndexByte) : Statement (.sbc_a_e p) := by
  cases p <;> exact ⟨Nat.le_of_ble_eq_true rfl, Nat.le_of_ble_eq_true rfl⟩
theorem sbc_a_h : Statement .sbc_a_h :=
  ⟨Nat.le_of_ble_eq_true rfl, Nat.le_of_ble_eq_true rfl⟩
theorem sbc_a_l : Statement .sbc_a_l :=
  ⟨Nat.le_of_ble_eq_true rfl, Nat.le_of_ble_eq_true rfl⟩
theorem sbc_a__hl : Statement .sbc_a__hl :=
  ⟨Nat.le_of_ble_eq_true rfl, Nat.le_of_ble_eq_true rfl⟩
theorem sbc_a_a (p : IndexByte) : Statement (.sbc_a_a p) := by
  cases p <;> exact ⟨Nat.le_of_ble_eq_true rfl, Nat.le_of_ble_eq_true rfl⟩
theorem and_b (p : IndexByte) : Statement (.and_b p) := by
  cases p <;> exact ⟨Nat.le_of_ble_eq_true rfl, Nat.le_of_ble_eq_true rfl⟩
theorem and_c (p : IndexByte) : Statement (.and_c p) := by
  cases p <;> exact ⟨Nat.le_of_ble_eq_true rfl, Nat.le_of_ble_eq_true rfl⟩
theorem and_d (p : IndexByte) : Statement (.and_d p) := by
  cases p <;> exact ⟨Nat.le_of_ble_eq_true rfl, Nat.le_of_ble_eq_true rfl⟩
theorem and_e (p : IndexByte) : Statement (.and_e p) := by
  cases p <;> exact ⟨Nat.le_of_ble_eq_true rfl, Nat.le_of_ble_eq_true rfl⟩
theorem and_h : Statement .and_h :=
  ⟨Nat.le_of_ble_eq_true rfl, Nat.le_of_ble_eq_true rfl⟩
theorem and_l : Statement .and_l :=
  ⟨Nat.le_of_ble_eq_true rfl, Nat.le_of_ble_eq_true rfl⟩
theorem and__hl : Statement .and__hl :=
  ⟨Nat.le_of_ble_eq_true rfl, Nat.le_of_ble_eq_true rfl⟩
theorem and_a (p : IndexByte) : Statement (.and_a p) := by
  cases p <;> exact ⟨Nat.le_of_ble_eq_true rfl, Nat.le_of_ble_eq_true rfl⟩
theorem xor_b (p : IndexByte) : Statement (.xor_b p) := by
  cases p <;> exact ⟨Nat.le_of_ble_eq_true rfl, Nat.le_of_ble_eq_true rfl⟩
theorem xor_c (p : IndexByte) : Statement (.xor_c p) := by
  cases p <;> exact ⟨Nat.le_of_ble_eq_true rfl, Nat.le_of_ble_eq_true rfl⟩
theorem xor_d (p : IndexByte) : Statement (.xor_d p) := by
  cases p <;> exact ⟨Nat.le_of_ble_eq_true rfl, Nat.le_of_ble_eq_true rfl⟩
theorem xor_e (p : IndexByte) : Statement (.xor_e p) := by
  cases p <;> exact ⟨Nat.le_of_ble_eq_true rfl, Nat.le_of_ble_eq_true rfl⟩
theorem xor_h : Statement .xor_h :=
  ⟨Nat.le_of_ble_eq_true rfl, Nat.le_of_ble_eq_true rfl⟩
theorem xor_l : Statement .xor_l :=
  ⟨Nat.le_of_ble_eq_true rfl, Nat.le_of_ble_eq_true rfl⟩
theorem xor__hl : Statement .xor__hl :=
  ⟨Nat.le_of_ble_eq_true rfl, Nat.le_of_ble_eq_true rfl⟩
theorem xor_a (p : IndexByte) : Statement (.xor_a p) := by
  cases p <;> exact ⟨Nat.le_of_ble_eq_true rfl, Nat.le_of_ble_eq_true rfl⟩
theorem or_b (p : IndexByte) : Statement (.or_b p) := by
  cases p <;> exact ⟨Nat.le_of_ble_eq_true rfl, Nat.le_of_ble_eq_true rfl⟩
theorem or_c (p : IndexByte) : Statement (.or_c p) := by
  cases p <;> exact ⟨Nat.le_of_ble_eq_true rfl, Nat.le_of_ble_eq_true rfl⟩
theorem or_d (p : IndexByte) : Statement (.or_d p) := by
  cases p <;> exact ⟨Nat.le_of_ble_eq_true rfl, Nat.le_of_ble_eq_true rfl⟩
theorem or_e (p : IndexByte) : Statement (.or_e p) := by
  cases p <;> exact ⟨Nat.le_of_ble_eq_true rfl, Nat.le_of_ble_eq_true rfl⟩
theorem or_h : Statement .or_h :=
  ⟨Nat.le_of_ble_eq_true rfl, Nat.le_of_ble_eq_true rfl⟩
theorem or_l : Statement .or_l :=
  ⟨Nat.le_of_ble_eq_true rfl, Nat.le_of_ble_eq_true rfl⟩
theorem or__hl : Statement .or__hl :=
  ⟨Nat.le_of_ble_eq_true rfl, Nat.le_of_ble_eq_true rfl⟩
theorem or_a (p : IndexByte) : Statement (.or_a p) := by
  cases p <;> exact ⟨Nat.le_of_ble_eq_true rfl, Nat.le_of_ble_eq_true rfl⟩
theorem cp_b (p : IndexByte) : Statement (.cp_b p) := by
  cases p <;> exact ⟨Nat.le_of_ble_eq_true rfl, Nat.le_of_ble_eq_true rfl⟩
theorem cp_c (p : IndexByte) : Statement (.cp_c p) := by
  cases p <;> exact ⟨Nat.le_of_ble_eq_true rfl, Nat.le_of_ble_eq_true rfl⟩
theorem cp_d (p : IndexByte) : Statement (.cp_d p) := by
  cases p <;> exact ⟨Nat.le_of_ble_eq_true rfl, Nat.le_of_ble_eq_true rfl⟩
theorem cp_e (p : IndexByte) : Statement (.cp_e p) := by
  cases p <;> exact ⟨Nat.le_of_ble_eq_true rfl, Nat.le_of_ble_eq_true rfl⟩
theorem cp_h : Statement .cp_h :=
  ⟨Nat.le_of_ble_eq_true rfl, Nat.le_of_ble_eq_true rfl⟩
theorem cp_l : Statement .cp_l :=
  ⟨Nat.le_of_ble_eq_true rfl, Nat.le_of_ble_eq_true rfl⟩
theorem cp__hl : Statement .cp__hl :=
  ⟨Nat.le_of_ble_eq_true rfl, Nat.le_of_ble_eq_true rfl⟩
theorem cp_a (p : IndexByte) : Statement (.cp_a p) := by
  cases p <;> exact ⟨Nat.le_of_ble_eq_true rfl, Nat.le_of_ble_eq_true rfl⟩
theorem ret_nz (p : IndexByte) : Statement (.ret_nz p) := by
  cases p <;> exact ⟨Nat.le_of_ble_eq_true rfl, Nat.le_of_ble_eq_true rfl⟩
theorem pop_bc (p : IndexByte) : Statement (.pop_bc p) := by
  cases p <;> exact ⟨Nat.le_of_ble_eq_true rfl, Nat.le_of_ble_eq_true rfl⟩
theorem jp_nz_nn (p : IndexByte) (nn : Word) : Statement (.jp_nz_nn p nn) := by
  cases p <;> exact ⟨Nat.le_of_ble_eq_true rfl, Nat.le_of_ble_eq_true rfl⟩
theorem jp_nn (p : IndexByte) (nn : Word) : Statement (.jp_nn p nn) := by
  cases p <;> exact ⟨Nat.le_of_ble_eq_true rfl, Nat.le_of_ble_eq_true rfl⟩
theorem call_nz_nn (p : IndexByte) (nn : Word) : Statement (.call_nz_nn p nn) := by
  cases p <;> exact ⟨Nat.le_of_ble_eq_true rfl, Nat.le_of_ble_eq_true rfl⟩
theorem push_bc (p : IndexByte) : Statement (.push_bc p) := by
  cases p <;> exact ⟨Nat.le_of_ble_eq_true rfl, Nat.le_of_ble_eq_true rfl⟩
theorem add_a_n (p : IndexByte) (n : Byte) : Statement (.add_a_n p n) := by
  cases p <;> exact ⟨Nat.le_of_ble_eq_true rfl, Nat.le_of_ble_eq_true rfl⟩
theorem rst_00h (p : IndexByte) : Statement (.rst_00h p) := by
  cases p <;> exact ⟨Nat.le_of_ble_eq_true rfl, Nat.le_of_ble_eq_true rfl⟩
theorem ret_z (p : IndexByte) : Statement (.ret_z p) := by
  cases p <;> exact ⟨Nat.le_of_ble_eq_true rfl, Nat.le_of_ble_eq_true rfl⟩
theorem ret (p : IndexByte) : Statement (.ret p) := by
  cases p <;> exact ⟨Nat.le_of_ble_eq_true rfl, Nat.le_of_ble_eq_true rfl⟩
theorem jp_z_nn (p : IndexByte) (nn : Word) : Statement (.jp_z_nn p nn) := by
  cases p <;> exact ⟨Nat.le_of_ble_eq_true rfl, Nat.le_of_ble_eq_true rfl⟩
theorem prefix_cb : Statement .prefix_cb :=
  ⟨Nat.le_of_ble_eq_true rfl, Nat.le_of_ble_eq_true rfl⟩
theorem call_z_nn (p : IndexByte) (nn : Word) : Statement (.call_z_nn p nn) := by
  cases p <;> exact ⟨Nat.le_of_ble_eq_true rfl, Nat.le_of_ble_eq_true rfl⟩
theorem call_nn (p : IndexByte) (nn : Word) : Statement (.call_nn p nn) := by
  cases p <;> exact ⟨Nat.le_of_ble_eq_true rfl, Nat.le_of_ble_eq_true rfl⟩
theorem adc_a_n (p : IndexByte) (n : Byte) : Statement (.adc_a_n p n) := by
  cases p <;> exact ⟨Nat.le_of_ble_eq_true rfl, Nat.le_of_ble_eq_true rfl⟩
theorem rst_08h (p : IndexByte) : Statement (.rst_08h p) := by
  cases p <;> exact ⟨Nat.le_of_ble_eq_true rfl, Nat.le_of_ble_eq_true rfl⟩
theorem ret_nc (p : IndexByte) : Statement (.ret_nc p) := by
  cases p <;> exact ⟨Nat.le_of_ble_eq_true rfl, Nat.le_of_ble_eq_true rfl⟩
theorem pop_de (p : IndexByte) : Statement (.pop_de p) := by
  cases p <;> exact ⟨Nat.le_of_ble_eq_true rfl, Nat.le_of_ble_eq_true rfl⟩
theorem jp_nc_nn (p : IndexByte) (nn : Word) : Statement (.jp_nc_nn p nn) := by
  cases p <;> exact ⟨Nat.le_of_ble_eq_true rfl, Nat.le_of_ble_eq_true rfl⟩
theorem out__n__a (p : IndexByte) (n : Byte) : Statement (.out__n__a p n) := by
  cases p <;> exact ⟨Nat.le_of_ble_eq_true rfl, Nat.le_of_ble_eq_true rfl⟩
theorem call_nc_nn (p : IndexByte) (nn : Word) : Statement (.call_nc_nn p nn) := by
  cases p <;> exact ⟨Nat.le_of_ble_eq_true rfl, Nat.le_of_ble_eq_true rfl⟩
theorem push_de (p : IndexByte) : Statement (.push_de p) := by
  cases p <;> exact ⟨Nat.le_of_ble_eq_true rfl, Nat.le_of_ble_eq_true rfl⟩
theorem sub_n (p : IndexByte) (n : Byte) : Statement (.sub_n p n) := by
  cases p <;> exact ⟨Nat.le_of_ble_eq_true rfl, Nat.le_of_ble_eq_true rfl⟩
theorem rst_10h (p : IndexByte) : Statement (.rst_10h p) := by
  cases p <;> exact ⟨Nat.le_of_ble_eq_true rfl, Nat.le_of_ble_eq_true rfl⟩
theorem ret_c (p : IndexByte) : Statement (.ret_c p) := by
  cases p <;> exact ⟨Nat.le_of_ble_eq_true rfl, Nat.le_of_ble_eq_true rfl⟩
theorem exx (p : IndexByte) : Statement (.exx p) := by
  cases p <;> exact ⟨Nat.le_of_ble_eq_true rfl, Nat.le_of_ble_eq_true rfl⟩
theorem jp_c_nn (p : IndexByte) (nn : Word) : Statement (.jp_c_nn p nn) := by
  cases p <;> exact ⟨Nat.le_of_ble_eq_true rfl, Nat.le_of_ble_eq_true rfl⟩
theorem in_a__n (p : IndexByte) (n : Byte) : Statement (.in_a__n p n) := by
  cases p <;> exact ⟨Nat.le_of_ble_eq_true rfl, Nat.le_of_ble_eq_true rfl⟩
theorem call_c_nn (p : IndexByte) (nn : Word) : Statement (.call_c_nn p nn) := by
  cases p <;> exact ⟨Nat.le_of_ble_eq_true rfl, Nat.le_of_ble_eq_true rfl⟩
theorem prefix_dd : Statement .prefix_dd :=
  ⟨Nat.le_of_ble_eq_true rfl, Nat.le_of_ble_eq_true rfl⟩
theorem sbc_a_n (p : IndexByte) (n : Byte) : Statement (.sbc_a_n p n) := by
  cases p <;> exact ⟨Nat.le_of_ble_eq_true rfl, Nat.le_of_ble_eq_true rfl⟩
theorem rst_18h (p : IndexByte) : Statement (.rst_18h p) := by
  cases p <;> exact ⟨Nat.le_of_ble_eq_true rfl, Nat.le_of_ble_eq_true rfl⟩
theorem ret_po (p : IndexByte) : Statement (.ret_po p) := by
  cases p <;> exact ⟨Nat.le_of_ble_eq_true rfl, Nat.le_of_ble_eq_true rfl⟩
theorem pop_hl : Statement .pop_hl :=
  ⟨Nat.le_of_ble_eq_true rfl, Nat.le_of_ble_eq_true rfl⟩
theorem jp_po_nn (p : IndexByte) (nn : Word) : Statement (.jp_po_nn p nn) := by
  cases p <;> exact ⟨Nat.le_of_ble_eq_true rfl, Nat.le_of_ble_eq_true rfl⟩
theorem ex__sp__hl : Statement .ex__sp__hl :=
  ⟨Nat.le_of_ble_eq_true rfl, Nat.le_of_ble_eq_true rfl⟩
theorem call_po_nn (p : IndexByte) (nn : Word) : Statement (.call_po_nn p nn) := by
  cases p <;> exact ⟨Nat.le_of_ble_eq_true rfl, Nat.le_of_ble_eq_true rfl⟩
theorem push_hl : Statement .push_hl :=
  ⟨Nat.le_of_ble_eq_true rfl, Nat.le_of_ble_eq_true rfl⟩
theorem and_n (p : IndexByte) (n : Byte) : Statement (.and_n p n) := by
  cases p <;> exact ⟨Nat.le_of_ble_eq_true rfl, Nat.le_of_ble_eq_true rfl⟩
theorem rst_20h (p : IndexByte) : Statement (.rst_20h p) := by
  cases p <;> exact ⟨Nat.le_of_ble_eq_true rfl, Nat.le_of_ble_eq_true rfl⟩
theorem ret_pe (p : IndexByte) : Statement (.ret_pe p) := by
  cases p <;> exact ⟨Nat.le_of_ble_eq_true rfl, Nat.le_of_ble_eq_true rfl⟩
theorem jp__hl : Statement .jp__hl :=
  ⟨Nat.le_of_ble_eq_true rfl, Nat.le_of_ble_eq_true rfl⟩
theorem jp_pe_nn (p : IndexByte) (nn : Word) : Statement (.jp_pe_nn p nn) := by
  cases p <;> exact ⟨Nat.le_of_ble_eq_true rfl, Nat.le_of_ble_eq_true rfl⟩
theorem ex_de_hl (p : IndexByte) : Statement (.ex_de_hl p) := by
  cases p <;> exact ⟨Nat.le_of_ble_eq_true rfl, Nat.le_of_ble_eq_true rfl⟩
theorem call_pe_nn (p : IndexByte) (nn : Word) : Statement (.call_pe_nn p nn) := by
  cases p <;> exact ⟨Nat.le_of_ble_eq_true rfl, Nat.le_of_ble_eq_true rfl⟩
theorem prefix_ed : Statement .prefix_ed :=
  ⟨Nat.le_of_ble_eq_true rfl, Nat.le_of_ble_eq_true rfl⟩
theorem xor_n (p : IndexByte) (n : Byte) : Statement (.xor_n p n) := by
  cases p <;> exact ⟨Nat.le_of_ble_eq_true rfl, Nat.le_of_ble_eq_true rfl⟩
theorem rst_28h (p : IndexByte) : Statement (.rst_28h p) := by
  cases p <;> exact ⟨Nat.le_of_ble_eq_true rfl, Nat.le_of_ble_eq_true rfl⟩
theorem ret_p (p : IndexByte) : Statement (.ret_p p) := by
  cases p <;> exact ⟨Nat.le_of_ble_eq_true rfl, Nat.le_of_ble_eq_true rfl⟩
theorem pop_af (p : IndexByte) : Statement (.pop_af p) := by
  cases p <;> exact ⟨Nat.le_of_ble_eq_true rfl, Nat.le_of_ble_eq_true rfl⟩
theorem jp_p_nn (p : IndexByte) (nn : Word) : Statement (.jp_p_nn p nn) := by
  cases p <;> exact ⟨Nat.le_of_ble_eq_true rfl, Nat.le_of_ble_eq_true rfl⟩
theorem di (p : IndexByte) : Statement (.di p) := by
  cases p <;> exact ⟨Nat.le_of_ble_eq_true rfl, Nat.le_of_ble_eq_true rfl⟩
theorem call_p_nn (p : IndexByte) (nn : Word) : Statement (.call_p_nn p nn) := by
  cases p <;> exact ⟨Nat.le_of_ble_eq_true rfl, Nat.le_of_ble_eq_true rfl⟩
theorem push_af (p : IndexByte) : Statement (.push_af p) := by
  cases p <;> exact ⟨Nat.le_of_ble_eq_true rfl, Nat.le_of_ble_eq_true rfl⟩
theorem or_n (p : IndexByte) (n : Byte) : Statement (.or_n p n) := by
  cases p <;> exact ⟨Nat.le_of_ble_eq_true rfl, Nat.le_of_ble_eq_true rfl⟩
theorem rst_30h (p : IndexByte) : Statement (.rst_30h p) := by
  cases p <;> exact ⟨Nat.le_of_ble_eq_true rfl, Nat.le_of_ble_eq_true rfl⟩
theorem ret_m (p : IndexByte) : Statement (.ret_m p) := by
  cases p <;> exact ⟨Nat.le_of_ble_eq_true rfl, Nat.le_of_ble_eq_true rfl⟩
theorem ld_sp_hl : Statement .ld_sp_hl :=
  ⟨Nat.le_of_ble_eq_true rfl, Nat.le_of_ble_eq_true rfl⟩
theorem jp_m_nn (p : IndexByte) (nn : Word) : Statement (.jp_m_nn p nn) := by
  cases p <;> exact ⟨Nat.le_of_ble_eq_true rfl, Nat.le_of_ble_eq_true rfl⟩
theorem ei (p : IndexByte) : Statement (.ei p) := by
  cases p <;> exact ⟨Nat.le_of_ble_eq_true rfl, Nat.le_of_ble_eq_true rfl⟩
theorem call_m_nn (p : IndexByte) (nn : Word) : Statement (.call_m_nn p nn) := by
  cases p <;> exact ⟨Nat.le_of_ble_eq_true rfl, Nat.le_of_ble_eq_true rfl⟩
theorem prefix_fd : Statement .prefix_fd :=
  ⟨Nat.le_of_ble_eq_true rfl, Nat.le_of_ble_eq_true rfl⟩
theorem cp_n (p : IndexByte) (n : Byte) : Statement (.cp_n p n) := by
  cases p <;> exact ⟨Nat.le_of_ble_eq_true rfl, Nat.le_of_ble_eq_true rfl⟩
theorem rst_38h (p : IndexByte) : Statement (.rst_38h p) := by
  cases p <;> exact ⟨Nat.le_of_ble_eq_true rfl, Nat.le_of_ble_eq_true rfl⟩
theorem rlc_b : Statement .rlc_b :=
  ⟨Nat.le_of_ble_eq_true rfl, Nat.le_of_ble_eq_true rfl⟩
theorem rlc_c : Statement .rlc_c :=
  ⟨Nat.le_of_ble_eq_true rfl, Nat.le_of_ble_eq_true rfl⟩
theorem rlc_d : Statement .rlc_d :=
  ⟨Nat.le_of_ble_eq_true rfl, Nat.le_of_ble_eq_true rfl⟩
theorem rlc_e : Statement .rlc_e :=
  ⟨Nat.le_of_ble_eq_true rfl, Nat.le_of_ble_eq_true rfl⟩
theorem rlc_h : Statement .rlc_h :=
  ⟨Nat.le_of_ble_eq_true rfl, Nat.le_of_ble_eq_true rfl⟩
theorem rlc_l : Statement .rlc_l :=
  ⟨Nat.le_of_ble_eq_true rfl, Nat.le_of_ble_eq_true rfl⟩
theorem rlc__hl : Statement .rlc__hl :=
  ⟨Nat.le_of_ble_eq_true rfl, Nat.le_of_ble_eq_true rfl⟩
theorem rlc_a : Statement .rlc_a :=
  ⟨Nat.le_of_ble_eq_true rfl, Nat.le_of_ble_eq_true rfl⟩
theorem rrc_b : Statement .rrc_b :=
  ⟨Nat.le_of_ble_eq_true rfl, Nat.le_of_ble_eq_true rfl⟩
theorem rrc_c : Statement .rrc_c :=
  ⟨Nat.le_of_ble_eq_true rfl, Nat.le_of_ble_eq_true rfl⟩
theorem rrc_d : Statement .rrc_d :=
  ⟨Nat.le_of_ble_eq_true rfl, Nat.le_of_ble_eq_true rfl⟩
theorem rrc_e : Statement .rrc_e :=
  ⟨Nat.le_of_ble_eq_true rfl, Nat.le_of_ble_eq_true rfl⟩
theorem rrc_h : Statement .rrc_h :=
  ⟨Nat.le_of_ble_eq_true rfl, Nat.le_of_ble_eq_true rfl⟩
theorem rrc_l : Statement .rrc_l :=
  ⟨Nat.le_of_ble_eq_true rfl, Nat.le_of_ble_eq_true rfl⟩
theorem rrc__hl : Statement .rrc__hl :=
  ⟨Nat.le_of_ble_eq_true rfl, Nat.le_of_ble_eq_true rfl⟩
theorem rrc_a : Statement .rrc_a :=
  ⟨Nat.le_of_ble_eq_true rfl, Nat.le_of_ble_eq_true rfl⟩
theorem rl_b : Statement .rl_b :=
  ⟨Nat.le_of_ble_eq_true rfl, Nat.le_of_ble_eq_true rfl⟩
theorem rl_c : Statement .rl_c :=
  ⟨Nat.le_of_ble_eq_true rfl, Nat.le_of_ble_eq_true rfl⟩
theorem rl_d : Statement .rl_d :=
  ⟨Nat.le_of_ble_eq_true rfl, Nat.le_of_ble_eq_true rfl⟩
theorem rl_e : Statement .rl_e :=
  ⟨Nat.le_of_ble_eq_true rfl, Nat.le_of_ble_eq_true rfl⟩
theorem rl_h : Statement .rl_h :=
  ⟨Nat.le_of_ble_eq_true rfl, Nat.le_of_ble_eq_true rfl⟩
theorem rl_l : Statement .rl_l :=
  ⟨Nat.le_of_ble_eq_true rfl, Nat.le_of_ble_eq_true rfl⟩
theorem rl__hl : Statement .rl__hl :=
  ⟨Nat.le_of_ble_eq_true rfl, Nat.le_of_ble_eq_true rfl⟩
theorem rl_a : Statement .rl_a :=
  ⟨Nat.le_of_ble_eq_true rfl, Nat.le_of_ble_eq_true rfl⟩
theorem rr_b : Statement .rr_b :=
  ⟨Nat.le_of_ble_eq_true rfl, Nat.le_of_ble_eq_true rfl⟩
theorem rr_c : Statement .rr_c :=
  ⟨Nat.le_of_ble_eq_true rfl, Nat.le_of_ble_eq_true rfl⟩
theorem rr_d : Statement .rr_d :=
  ⟨Nat.le_of_ble_eq_true rfl, Nat.le_of_ble_eq_true rfl⟩
theorem rr_e : Statement .rr_e :=
  ⟨Nat.le_of_ble_eq_true rfl, Nat.le_of_ble_eq_true rfl⟩
theorem rr_h : Statement .rr_h :=
  ⟨Nat.le_of_ble_eq_true rfl, Nat.le_of_ble_eq_true rfl⟩
theorem rr_l : Statement .rr_l :=
  ⟨Nat.le_of_ble_eq_true rfl, Nat.le_of_ble_eq_true rfl⟩
theorem rr__hl : Statement .rr__hl :=
  ⟨Nat.le_of_ble_eq_true rfl, Nat.le_of_ble_eq_true rfl⟩
theorem rr_a : Statement .rr_a :=
  ⟨Nat.le_of_ble_eq_true rfl, Nat.le_of_ble_eq_true rfl⟩
theorem sla_b : Statement .sla_b :=
  ⟨Nat.le_of_ble_eq_true rfl, Nat.le_of_ble_eq_true rfl⟩
theorem sla_c : Statement .sla_c :=
  ⟨Nat.le_of_ble_eq_true rfl, Nat.le_of_ble_eq_true rfl⟩
theorem sla_d : Statement .sla_d :=
  ⟨Nat.le_of_ble_eq_true rfl, Nat.le_of_ble_eq_true rfl⟩
theorem sla_e : Statement .sla_e :=
  ⟨Nat.le_of_ble_eq_true rfl, Nat.le_of_ble_eq_true rfl⟩
theorem sla_h : Statement .sla_h :=
  ⟨Nat.le_of_ble_eq_true rfl, Nat.le_of_ble_eq_true rfl⟩
theorem sla_l : Statement .sla_l :=
  ⟨Nat.le_of_ble_eq_true rfl, Nat.le_of_ble_eq_true rfl⟩
theorem sla__hl : Statement .sla__hl :=
  ⟨Nat.le_of_ble_eq_true rfl, Nat.le_of_ble_eq_true rfl⟩
theorem sla_a : Statement .sla_a :=
  ⟨Nat.le_of_ble_eq_true rfl, Nat.le_of_ble_eq_true rfl⟩
theorem sra_b : Statement .sra_b :=
  ⟨Nat.le_of_ble_eq_true rfl, Nat.le_of_ble_eq_true rfl⟩
theorem sra_c : Statement .sra_c :=
  ⟨Nat.le_of_ble_eq_true rfl, Nat.le_of_ble_eq_true rfl⟩
theorem sra_d : Statement .sra_d :=
  ⟨Nat.le_of_ble_eq_true rfl, Nat.le_of_ble_eq_true rfl⟩
theorem sra_e : Statement .sra_e :=
  ⟨Nat.le_of_ble_eq_true rfl, Nat.le_of_ble_eq_true rfl⟩
theorem sra_h : Statement .sra_h :=
  ⟨Nat.le_of_ble_eq_true rfl, Nat.le_of_ble_eq_true rfl⟩
theorem sra_l : Statement .sra_l :=
  ⟨Nat.le_of_ble_eq_true rfl, Nat.le_of_ble_eq_true rfl⟩
theorem sra__hl : Statement .sra__hl :=
  ⟨Nat.le_of_ble_eq_true rfl, Nat.le_of_ble_eq_true rfl⟩
theorem sra_a : Statement .sra_a :=
  ⟨Nat.le_of_ble_eq_true rfl, Nat.le_of_ble_eq_true rfl⟩
theorem sll_b : Statement .sll_b :=
  ⟨Nat.le_of_ble_eq_true rfl, Nat.le_of_ble_eq_true rfl⟩
theorem sll_c : Statement .sll_c :=
  ⟨Nat.le_of_ble_eq_true rfl, Nat.le_of_ble_eq_true rfl⟩
theorem sll_d : Statement .sll_d :=
  ⟨Nat.le_of_ble_eq_true rfl, Nat.le_of_ble_eq_true rfl⟩
theorem sll_e : Statement .sll_e :=
  ⟨Nat.le_of_ble_eq_true rfl, Nat.le_of_ble_eq_true rfl⟩
theorem sll_h : Statement .sll_h :=
  ⟨Nat.le_of_ble_eq_true rfl, Nat.le_of_ble_eq_true rfl⟩
theorem sll_l : Statement .sll_l :=
  ⟨Nat.le_of_ble_eq_true rfl, Nat.le_of_ble_eq_true rfl⟩
theorem sll__hl : Statement .sll__hl :=
  ⟨Nat.le_of_ble_eq_true rfl, Nat.le_of_ble_eq_true rfl⟩
theorem sll_a : Statement .sll_a :=
  ⟨Nat.le_of_ble_eq_true rfl, Nat.le_of_ble_eq_true rfl⟩
theorem srl_b : Statement .srl_b :=
  ⟨Nat.le_of_ble_eq_true rfl, Nat.le_of_ble_eq_true rfl⟩
theorem srl_c : Statement .srl_c :=
  ⟨Nat.le_of_ble_eq_true rfl, Nat.le_of_ble_eq_true rfl⟩
theorem srl_d : Statement .srl_d :=
  ⟨Nat.le_of_ble_eq_true rfl, Nat.le_of_ble_eq_true rfl⟩
theorem srl_e : Statement .srl_e :=
  ⟨Nat.le_of_ble_eq_true rfl, Nat.le_of_ble_eq_true rfl⟩
theorem srl_h : Statement .srl_h :=
  ⟨Nat.le_of_ble_eq_true rfl, Nat.le_of_ble_eq_true rfl⟩
theorem srl_l : Statement .srl_l :=
  ⟨Nat.le_of_ble_eq_true rfl, Nat.le_of_ble_eq_true rfl⟩
theorem srl__hl : Statement .srl__hl :=
  ⟨Nat.le_of_ble_eq_true rfl, Nat.le_of_ble_eq_true rfl⟩
theorem srl_a : Statement .srl_a :=
  ⟨Nat.le_of_ble_eq_true rfl, Nat.le_of_ble_eq_true rfl⟩
theorem bit_0_b : Statement .bit_0_b :=
  ⟨Nat.le_of_ble_eq_true rfl, Nat.le_of_ble_eq_true rfl⟩
theorem bit_0_c : Statement .bit_0_c :=
  ⟨Nat.le_of_ble_eq_true rfl, Nat.le_of_ble_eq_true rfl⟩
theorem bit_0_d : Statement .bit_0_d :=
  ⟨Nat.le_of_ble_eq_true rfl, Nat.le_of_ble_eq_true rfl⟩
theorem bit_0_e : Statement .bit_0_e :=
  ⟨Nat.le_of_ble_eq_true rfl, Nat.le_of_ble_eq_true rfl⟩
theorem bit_0_h : Statement .bit_0_h :=
  ⟨Nat.le_of_ble_eq_true rfl, Nat.le_of_ble_eq_true rfl⟩
theorem bit_0_l : Statement .bit_0_l :=
  ⟨Nat.le_of_ble_eq_true rfl, Nat.le_of_ble_eq_true rfl⟩
theorem bit_0__hl : Statement .bit_0__hl :=
  ⟨Nat.le_of_ble_eq_true rfl, Nat.le_of_ble_eq_true rfl⟩
theorem bit_0_a : Statement .bit_0_a :=
  ⟨Nat.le_of_ble_eq_true rfl, Nat.le_of_ble_eq_true rfl⟩
theorem bit_1_b : Statement .bit_1_b :=
  ⟨Nat.le_of_ble_eq_true rfl, Nat.le_of_ble_eq_true rfl⟩
theorem bit_1_c : Statement .bit_1_c :=
  ⟨Nat.le_of_ble_eq_true rfl, Nat.le_of_ble_eq_true rfl⟩
theorem bit_1_d : Statement .bit_1_d :=
  ⟨Nat.le_of_ble_eq_true rfl, Nat.le_of_ble_eq_true rfl⟩
theorem bit_1_e : Statement .bit_1_e :=
  ⟨Nat.le_of_ble_eq_true rfl, Nat.le_of_ble_eq_true rfl⟩
theorem bit_1_h : Statement .bit_1_h :=
  ⟨Nat.le_of_ble_eq_true rfl, Nat.le_of_ble_eq_true rfl⟩
theorem bit_1_l : Statement .bit_1_l :=
  ⟨Nat.le_of_ble_eq_true rfl, Nat.le_of_ble_eq_true rfl⟩
theorem bit_1__hl : Statement .bit_1__hl :=
  ⟨Nat.le_of_ble_eq_true rfl, Nat.le_of_ble_eq_true rfl⟩
theorem bit_1_a : Statement .bit_1_a :=
  ⟨Nat.le_of_ble_eq_true rfl, Nat.le_of_ble_eq_true rfl⟩
theorem bit_2_b : Statement .bit_2_b :=
  ⟨Nat.le_of_ble_eq_true rfl, Nat.le_of_ble_eq_true rfl⟩
theorem bit_2_c : Statement .bit_2_c :=
  ⟨Nat.le_of_ble_eq_true rfl, Nat.le_of_ble_eq_true rfl⟩
theorem bit_2_d : Statement .bit_2_d :=
  ⟨Nat.le_of_ble_eq_true rfl, Nat.le_of_ble_eq_true rfl⟩
theorem bit_2_e : Statement .bit_2_e :=
  ⟨Nat.le_of_ble_eq_true rfl, Nat.le_of_ble_eq_true rfl⟩
theorem bit_2_h : Statement .bit_2_h :=
  ⟨Nat.le_of_ble_eq_true rfl, Nat.le_of_ble_eq_true rfl⟩
theorem bit_2_l : Statement .bit_2_l :=
  ⟨Nat.le_of_ble_eq_true rfl, Nat.le_of_ble_eq_true rfl⟩
theorem bit_2__hl : Statement .bit_2__hl :=
  ⟨Nat.le_of_ble_eq_true rfl, Nat.le_of_ble_eq_true rfl⟩
theorem bit_2_a : Statement .bit_2_a :=
  ⟨Nat.le_of_ble_eq_true rfl, Nat.le_of_ble_eq_true rfl⟩
theorem bit_3_b : Statement .bit_3_b :=
  ⟨Nat.le_of_ble_eq_true rfl, Nat.le_of_ble_eq_true rfl⟩
theorem bit_3_c : Statement .bit_3_c :=
  ⟨Nat.le_of_ble_eq_true rfl, Nat.le_of_ble_eq_true rfl⟩
theorem bit_3_d : Statement .bit_3_d :=
  ⟨Nat.le_of_ble_eq_true rfl, Nat.le_of_ble_eq_true rfl⟩
theorem bit_3_e : Statement .bit_3_e :=
  ⟨Nat.le_of_ble_eq_true rfl, Nat.le_of_ble_eq_true rfl⟩
theorem bit_3_h : Statement .bit_3_h :=
  ⟨Nat.le_of_ble_eq_true rfl, Nat.le_of_ble_eq_true rfl⟩
theorem bit_3_l : Statement .bit_3_l :=
  ⟨Nat.le_of_ble_eq_true rfl, Nat.le_of_ble_eq_true rfl⟩
theorem bit_3__hl : Statement .bit_3__hl :=
  ⟨Nat.le_of_ble_eq_true rfl, Nat.le_of_ble_eq_true rfl⟩
theorem bit_3_a : Statement .bit_3_a :=
  ⟨Nat.le_of_ble_eq_true rfl, Nat.le_of_ble_eq_true rfl⟩
theorem bit_4_b : Statement .bit_4_b :=
  ⟨Nat.le_of_ble_eq_true rfl, Nat.le_of_ble_eq_true rfl⟩
theorem bit_4_c : Statement .bit_4_c :=
  ⟨Nat.le_of_ble_eq_true rfl, Nat.le_of_ble_eq_true rfl⟩
theorem bit_4_d : Statement .bit_4_d :=
  ⟨Nat.le_of_ble_eq_true rfl, Nat.le_of_ble_eq_true rfl⟩
theorem bit_4_e : Statement .bit_4_e :=
  ⟨Nat.le_of_ble_eq_true rfl, Nat.le_of_ble_eq_true rfl⟩
theorem bit_4_h : Statement .bit_4_h :=
  ⟨Nat.le_of_ble_eq_true rfl, Nat.le_of_ble_eq_true rfl⟩
theorem bit_4_l : Statement .bit_4_l :=
  ⟨Nat.le_of_ble_eq_true rfl, Nat.le_of_ble_eq_true rfl⟩
theorem bit_4__hl : Statement .bit_4__hl :=
  ⟨Nat.le_of_ble_eq_true rfl, Nat.le_of_ble_eq_true rfl⟩
theorem bit_4_a : Statement .bit_4_a :=
  ⟨Nat.le_of_ble_eq_true rfl, Nat.le_of_ble_eq_true rfl⟩
theorem bit_5_b : Statement .bit_5_b :=
  ⟨Nat.le_of_ble_eq_true rfl, Nat.le_of_ble_eq_true rfl⟩
theorem bit_5_c : Statement .bit_5_c :=
  ⟨Nat.le_of_ble_eq_true rfl, Nat.le_of_ble_eq_true rfl⟩
theorem bit_5_d : Statement .bit_5_d :=
  ⟨Nat.le_of_ble_eq_true rfl, Nat.le_of_ble_eq_true rfl⟩
theorem bit_5_e : Statement .bit_5_e :=
  ⟨Nat.le_of_ble_eq_true rfl, Nat.le_of_ble_eq_true rfl⟩
theorem bit_5_h : Statement .bit_5_h :=
  ⟨Nat.le_of_ble_eq_true rfl, Nat.le_of_ble_eq_true rfl⟩
theorem bit_5_l : Statement .bit_5_l :=
  ⟨Nat.le_of_ble_eq_true rfl, Nat.le_of_ble_eq_true rfl⟩
theorem bit_5__hl : Statement .bit_5__hl :=
  ⟨Nat.le_of_ble_eq_true rfl, Nat.le_of_ble_eq_true rfl⟩
theorem bit_5_a : Statement .bit_5_a :=
  ⟨Nat.le_of_ble_eq_true rfl, Nat.le_of_ble_eq_true rfl⟩
theorem bit_6_b : Statement .bit_6_b :=
  ⟨Nat.le_of_ble_eq_true rfl, Nat.le_of_ble_eq_true rfl⟩
theorem bit_6_c : Statement .bit_6_c :=
  ⟨Nat.le_of_ble_eq_true rfl, Nat.le_of_ble_eq_true rfl⟩
theorem bit_6_d : Statement .bit_6_d :=
  ⟨Nat.le_of_ble_eq_true rfl, Nat.le_of_ble_eq_true rfl⟩
theorem bit_6_e : Statement .bit_6_e :=
  ⟨Nat.le_of_ble_eq_true rfl, Nat.le_of_ble_eq_true rfl⟩
theorem bit_6_h : Statement .bit_6_h :=
  ⟨Nat.le_of_ble_eq_true rfl, Nat.le_of_ble_eq_true rfl⟩
theorem bit_6_l : Statement .bit_6_l :=
  ⟨Nat.le_of_ble_eq_true rfl, Nat.le_of_ble_eq_true rfl⟩
theorem bit_6__hl : Statement .bit_6__hl :=
  ⟨Nat.le_of_ble_eq_true rfl, Nat.le_of_ble_eq_true rfl⟩
theorem bit_6_a : Statement .bit_6_a :=
  ⟨Nat.le_of_ble_eq_true rfl, Nat.le_of_ble_eq_true rfl⟩
theorem bit_7_b : Statement .bit_7_b :=
  ⟨Nat.le_of_ble_eq_true rfl, Nat.le_of_ble_eq_true rfl⟩
theorem bit_7_c : Statement .bit_7_c :=
  ⟨Nat.le_of_ble_eq_true rfl, Nat.le_of_ble_eq_true rfl⟩
theorem bit_7_d : Statement .bit_7_d :=
  ⟨Nat.le_of_ble_eq_true rfl, Nat.le_of_ble_eq_true rfl⟩
theorem bit_7_e : Statement .bit_7_e :=
  ⟨Nat.le_of_ble_eq_true rfl, Nat.le_of_ble_eq_true rfl⟩
theorem bit_7_h : Statement .bit_7_h :=
  ⟨Nat.le_of_ble_eq_true rfl, Nat.le_of_ble_eq_true rfl⟩
theorem bit_7_l : Statement .bit_7_l :=
  ⟨Nat.le_of_ble_eq_true rfl, Nat.le_of_ble_eq_true rfl⟩
theorem bit_7__hl : Statement .bit_7__hl :=
  ⟨Nat.le_of_ble_eq_true rfl, Nat.le_of_ble_eq_true rfl⟩
theorem bit_7_a : Statement .bit_7_a :=
  ⟨Nat.le_of_ble_eq_true rfl, Nat.le_of_ble_eq_true rfl⟩
theorem res_0_b : Statement .res_0_b :=
  ⟨Nat.le_of_ble_eq_true rfl, Nat.le_of_ble_eq_true rfl⟩
theorem res_0_c : Statement .res_0_c :=
  ⟨Nat.le_of_ble_eq_true rfl, Nat.le_of_ble_eq_true rfl⟩
theorem res_0_d : Statement .res_0_d :=
  ⟨Nat.le_of_ble_eq_true rfl, Nat.le_of_ble_eq_true rfl⟩
theorem res_0_e : Statement .res_0_e :=
  ⟨Nat.le_of_ble_eq_true rfl, Nat.le_of_ble_eq_true rfl⟩
theorem res_0_h : Statement .res_0_h :=
  ⟨Nat.le_of_ble_eq_true rfl, Nat.le_of_ble_eq_true rfl⟩
theorem res_0_l : Statement .res_0_l :=
  ⟨Nat.le_of_ble_eq_true rfl, Nat.le_of_ble_eq_true rfl⟩
theorem res_0__hl : Statement .res_0__hl :=
  ⟨Nat.le_of_ble_eq_true rfl, Nat.le_of_ble_eq_true rfl⟩
theorem res_0_a : Statement .res_0_a :=
  ⟨Nat.le_of_ble_eq_true rfl, Nat.le_of_ble_eq_true rfl⟩
theorem res_1_b : Statement .res_1_b :=
  ⟨Nat.le_of_ble_eq_true rfl, Nat.le_of_ble_eq_true rfl⟩
theorem res_1_c : Statement .res_1_c :=
  ⟨Nat.le_of_ble_eq_true rfl, Nat.le_of_ble_eq_true rfl⟩
theorem res_1_d : Statement .res_1_d :=
  ⟨Nat.le_of_ble_eq_true rfl, Nat.le_of_ble_eq_true rfl⟩
theorem res_1_e : Statement .res_1_e :=
  ⟨Nat.le_of_ble_eq_true rfl, Nat.le_of_ble_eq_true rfl⟩
theorem res_1_h : Statement .res_1_h :=
  ⟨Nat.le_of_ble_eq_true rfl, Nat.le_of_ble_eq_true rfl⟩
theorem res_1_l : Statement .res_1_l :=
  ⟨Nat.le_of_ble_eq_true rfl, Nat.le_of_ble_eq_true rfl⟩
theorem res_1__hl : Statement .res_1__hl :=
  ⟨Nat.le_of_ble_eq_true rfl, Nat.le_of_ble_eq_true rfl⟩
theorem res_1_a : Statement .res_1_a :=
  ⟨Nat.le_of_ble_eq_true rfl, Nat.le_of_ble_eq_true rfl⟩
theorem res_2_b : Statement .res_2_b :=
  ⟨Nat.le_of_ble_eq_true rfl, Nat.le_of_ble_eq_true rfl⟩
theorem res_2_c : Statement .res_2_c :=
  ⟨Nat.le_of_ble_eq_true rfl, Nat.le_of_ble_eq_true rfl⟩
theorem res_2_d : Statement .res_2_d :=
  ⟨Nat.le_of_ble_eq_true rfl, Nat.le_of_ble_eq_true rfl⟩
theorem res_2_e : Statement .res_2_e :=
  ⟨Nat.le_of_ble_eq_true rfl, Nat.le_of_ble_eq_true rfl⟩
theorem res_2_h : Statement .res_2_h :=
  ⟨Nat.le_of_ble_eq_true rfl, Nat.le_of_ble_eq_true rfl⟩
theorem res_2_l : Statement .res_2_l :=
  ⟨Nat.le_of_ble_eq_true rfl, Nat.le_of_ble_eq_true rfl⟩
theorem res_2__hl : Statement .res_2__hl :=
  ⟨Nat.le_of_ble_eq_true rfl, Nat.le_of_ble_eq_true rfl⟩
theorem res_2_a : Statement .res_2_a :=
  ⟨Nat.le_of_ble_eq_true rfl, Nat.le_of_ble_eq_true rfl⟩
theorem res_3_b : Statement .res_3_b :=
  ⟨Nat.le_of_ble_eq_true rfl, Nat.le_of_ble_eq_true rfl⟩
theorem res_3_c : Statement .res_3_c :=
  ⟨Nat.le_of_ble_eq_true rfl, Nat.le_of_ble_eq_true rfl⟩
theorem res_3_d : Statement .res_3_d :=
  ⟨Nat.le_of_ble_eq_true rfl, Nat.le_of_ble_eq_true rfl⟩
theorem res_3_e : Statement .res_3_e :=
  ⟨Nat.le_of_ble_eq_true rfl, Nat.le_of_ble_eq_true rfl⟩
theorem res_3_h : Statement .res_3_h :=
  ⟨Nat.le_of_ble_eq_true rfl, Nat.le_of_ble_eq_true rfl⟩
theorem res_3_l : Statement .res_3_l :=
  ⟨Nat.le_of_ble_eq_true rfl, Nat.le_of_ble_eq_true rfl⟩
theorem res_3__hl : Statement .res_3__hl :=
  ⟨Nat.le_of_ble_eq_true rfl, Nat.le_of_ble_eq_true rfl⟩
theorem res_3_a : Statement .res_3_a :=
  ⟨Nat.le_of_ble_eq_true rfl, Nat.le_of_ble_eq_true rfl⟩
theorem res_4_b : Statement .res_4_b :=
  ⟨Nat.le_of_ble_eq_true rfl, Nat.le_of_ble_eq_true rfl⟩
theorem res_4_c : Statement .res_4_c :=
  ⟨Nat.le_of_ble_eq_true rfl, Nat.le_of_ble_eq_true rfl⟩
theorem res_4_d : Statement .res_4_d :=
  ⟨Nat.le_of_ble_eq_true rfl, Nat.le_of_ble_eq_true rfl⟩
theorem res_4_e : Statement .res_4_e :=
  ⟨Nat.le_of_ble_eq_true rfl, Nat.le_of_ble_eq_true rfl⟩
theorem res_4_h : Statement .res_4_h :=
  ⟨Nat.le_of_ble_eq_true rfl, Nat.le_of_ble_eq_true rfl⟩
theorem res_4_l : Statement .res_4_l :=
  ⟨Nat.le_of_ble_eq_true rfl, Nat.le_of_ble_eq_true rfl⟩
theorem res_4__hl : Statement .res_4__hl :=
  ⟨Nat.le_of_ble_eq_true rfl, Nat.le_of_ble_eq_true rfl⟩
theorem res_4_a : Statement .res_4_a :=
  ⟨Nat.le_of_ble_eq_true rfl, Nat.le_of_ble_eq_true rfl⟩
theorem res_5_b : Statement .res_5_b :=
  ⟨Nat.le_of_ble_eq_true rfl, Nat.le_of_ble_eq_true rfl⟩
theorem res_5_c : Statement .res_5_c :=
  ⟨Nat.le_of_ble_eq_true rfl, Nat.le_of_ble_eq_true rfl⟩
theorem res_5_d : Statement .res_5_d :=
  ⟨Nat.le_of_ble_eq_true rfl, Nat.le_of_ble_eq_true rfl⟩
theorem res_5_e : Statement .res_5_e :=
  ⟨Nat.le_of_ble_eq_true rfl, Nat.le_of_ble_eq_true rfl⟩
theorem res_5_h : Statement .res_5_h :=
  ⟨Nat.le_of_ble_eq_true rfl, Nat.le_of_ble_eq_true rfl⟩
theorem res_5_l : Statement .res_5_l :=
  ⟨Nat.le_of_ble_eq_true rfl, Nat.le_of_ble_eq_true rfl⟩
theorem res_5__hl : Statement .res_5__hl :=
  ⟨Nat.le_of_ble_eq_true rfl, Nat.le_of_ble_eq_true rfl⟩
theorem res_5_a : Statement .res_5_a :=
  ⟨Nat.le_of_ble_eq_true rfl, Nat.le_of_ble_eq_true rfl⟩
theorem res_6_b : Statement .res_6_b :=
  ⟨Nat.le_of_ble_eq_true rfl, Nat.le_of_ble_eq_true rfl⟩
theorem res_6_c : Statement .res_6_c :=
  ⟨Nat.le_of_ble_eq_true rfl, Nat.le_of_ble_eq_true rfl⟩
theorem res_6_d : Statement .res_6_d :=
  ⟨Nat.le_of_ble_eq_true rfl, Nat.le_of_ble_eq_true rfl⟩
theorem res_6_e : Statement .res_6_e :=
  ⟨Nat.le_of_ble_eq_true rfl, Nat.le_of_ble_eq_true rfl⟩
theorem res_6_h : Statement .res_6_h :=
  ⟨Nat.le_of_ble_eq_true rfl, Nat.le_of_ble_eq_true rfl⟩
theorem res_6_l : Statement .res_6_l :=
  ⟨Nat.le_of_ble_eq_true rfl, Nat.le_of_ble_eq_true rfl⟩
theorem res_6__hl : Statement .res_6__hl :=
  ⟨Nat.le_of_ble_eq_true rfl, Nat.le_of_ble_eq_true rfl⟩
theorem res_6_a : Statement .res_6_a :=
  ⟨Nat.le_of_ble_eq_true rfl, Nat.le_of_ble_eq_true rfl⟩
theorem res_7_b : Statement .res_7_b :=
  ⟨Nat.le_of_ble_eq_true rfl, Nat.le_of_ble_eq_true rfl⟩
theorem res_7_c : Statement .res_7_c :=
  ⟨Nat.le_of_ble_eq_true rfl, Nat.le_of_ble_eq_true rfl⟩
theorem res_7_d : Statement .res_7_d :=
  ⟨Nat.le_of_ble_eq_true rfl, Nat.le_of_ble_eq_true rfl⟩
theorem res_7_e : Statement .res_7_e :=
  ⟨Nat.le_of_ble_eq_true rfl, Nat.le_of_ble_eq_true rfl⟩
theorem res_7_h : Statement .res_7_h :=
  ⟨Nat.le_of_ble_eq_true rfl, Nat.le_of_ble_eq_true rfl⟩
theorem res_7_l : Statement .res_7_l :=
  ⟨Nat.le_of_ble_eq_true rfl, Nat.le_of_ble_eq_true rfl⟩
theorem res_7__hl : Statement .res_7__hl :=
  ⟨Nat.le_of_ble_eq_true rfl, Nat.le_of_ble_eq_true rfl⟩
theorem res_7_a : Statement .res_7_a :=
  ⟨Nat.le_of_ble_eq_true rfl, Nat.le_of_ble_eq_true rfl⟩
theorem set_0_b : Statement .set_0_b :=
  ⟨Nat.le_of_ble_eq_true rfl, Nat.le_of_ble_eq_true rfl⟩
theorem set_0_c : Statement .set_0_c :=
  ⟨Nat.le_of_ble_eq_true rfl, Nat.le_of_ble_eq_true rfl⟩
theorem set_0_d : Statement .set_0_d :=
  ⟨Nat.le_of_ble_eq_true rfl, Nat.le_of_ble_eq_true rfl⟩
theorem set_0_e : Statement .set_0_e :=
  ⟨Nat.le_of_ble_eq_true rfl, Nat.le_of_ble_eq_true rfl⟩
theorem set_0_h : Statement .set_0_h :=
  ⟨Nat.le_of_ble_eq_true rfl, Nat.le_of_ble_eq_true rfl⟩
theorem set_0_l : Statement .set_0_l :=
  ⟨Nat.le_of_ble_eq_true rfl, Nat.le_of_ble_eq_true rfl⟩
theorem set_0__hl : Statement .set_0__hl :=
  ⟨Nat.le_of_ble_eq_true rfl, Nat.le_of_ble_eq_true rfl⟩
theorem set_0_a : Statement .set_0_a :=
  ⟨Nat.le_of_ble_eq_true rfl, Nat.le_of_ble_eq_true rfl⟩
theorem set_1_b : Statement .set_1_b :=
  ⟨Nat.le_of_ble_eq_true rfl, Nat.le_of_ble_eq_true rfl⟩
theorem set_1_c : Statement .set_1_c :=
  ⟨Nat.le_of_ble_eq_true rfl, Nat.le_of_ble_eq_true rfl⟩
theorem set_1_d : Statement .set_1_d :=
  ⟨Nat.le_of_ble_eq_true rfl, Nat.le_of_ble_eq_true rfl⟩
theorem set_1_e : Statement .set_1_e :=
  ⟨Nat.le_of_ble_eq_true rfl, Nat.le_of_ble_eq_true rfl⟩
theorem set_1_h : Statement .set_1_h :=
  ⟨Nat.le_of_ble_eq_true rfl, Nat.le_of_ble_eq_true rfl⟩
theorem set_1_l : Statement .set_1_l :=
  ⟨Nat.le_of_ble_eq_true rfl, Nat.le_of_ble_eq_true rfl⟩
theorem set_1__hl : Statement .set_1__hl :=
  ⟨Nat.le_of_ble_eq_true rfl, Nat.le_of_ble_eq_true rfl⟩
theorem set_1_a : Statement .set_1_a :=
  ⟨Nat.le_of_ble_eq_true rfl, Nat.le_of_ble_eq_true rfl⟩
theorem set_2_b : Statement .set_2_b :=
  ⟨Nat.le_of_ble_eq_true rfl, Nat.le_of_ble_eq_true rfl⟩
theorem set_2_c : Statement .set_2_c :=
  ⟨Nat.le_of_ble_eq_true rfl, Nat.le_of_ble_eq_true rfl⟩
theorem set_2_d : Statement .set_2_d :=
  ⟨Nat.le_of_ble_eq_true rfl, Nat.le_of_ble_eq_true rfl⟩
theorem set_2_e : Statement .set_2_e :=
  ⟨Nat.le_of_ble_eq_true rfl, Nat.le_of_ble_eq_true rfl⟩
theorem set_2_h : Statement .set_2_h :=
  ⟨Nat.le_of_ble_eq_true rfl, Nat.le_of_ble_eq_true rfl⟩
theorem set_2_l : Statement .set_2_l :=
  ⟨Nat.le_of_ble_eq_true rfl, Nat.le_of_ble_eq_true rfl⟩
theorem set_2__hl : Statement .set_2__hl :=
  ⟨Nat.le_of_ble_eq_true rfl, Nat.le_of_ble_eq_true rfl⟩
theorem set_2_a : Statement .set_2_a :=
  ⟨Nat.le_of_ble_eq_true rfl, Nat.le_of_ble_eq_true rfl⟩
theorem set_3_b : Statement .set_3_b :=
  ⟨Nat.le_of_ble_eq_true rfl, Nat.le_of_ble_eq_true rfl⟩
theorem set_3_c : Statement .set_3_c :=
  ⟨Nat.le_of_ble_eq_true rfl, Nat.le_of_ble_eq_true rfl⟩
theorem set_3_d : Statement .set_3_d :=
  ⟨Nat.le_of_ble_eq_true rfl, Nat.le_of_ble_eq_true rfl⟩
theorem set_3_e : Statement .set_3_e :=
  ⟨Nat.le_of_ble_eq_true rfl, Nat.le_of_ble_eq_true rfl⟩
theorem set_3_h : Statement .set_3_h :=
  ⟨Nat.le_of_ble_eq_true rfl, Nat.le_of_ble_eq_true rfl⟩
theorem set_3_l : Statement .set_3_l :=
  ⟨Nat.le_of_ble_eq_true rfl, Nat.le_of_ble_eq_true rfl⟩
theorem set_3__hl : Statement .set_3__hl :=
  ⟨Nat.le_of_ble_eq_true rfl, Nat.le_of_ble_eq_true rfl⟩
theorem set_3_a : Statement .set_3_a :=
  ⟨Nat.le_of_ble_eq_true rfl, Nat.le_of_ble_eq_true rfl⟩
theorem set_4_b : Statement .set_4_b :=
  ⟨Nat.le_of_ble_eq_true rfl, Nat.le_of_ble_eq_true rfl⟩
theorem set_4_c : Statement .set_4_c :=
  ⟨Nat.le_of_ble_eq_true rfl, Nat.le_of_ble_eq_true rfl⟩
theorem set_4_d : Statement .set_4_d :=
  ⟨Nat.le_of_ble_eq_true rfl, Nat.le_of_ble_eq_true rfl⟩
theorem set_4_e : Statement .set_4_e :=
  ⟨Nat.le_of_ble_eq_true rfl, Nat.le_of_ble_eq_true rfl⟩
theorem set_4_h : Statement .set_4_h :=
  ⟨Nat.le_of_ble_eq_true rfl, Nat.le_of_ble_eq_true rfl⟩
theorem set_4_l : Statement .set_4_l :=
  ⟨Nat.le_of_ble_eq_true rfl, Nat.le_of_ble_eq_true rfl⟩
theorem set_4__hl : Statement .set_4__hl :=
  ⟨Nat.le_of_ble_eq_true rfl, Nat.le_of_ble_eq_true rfl⟩
theorem set_4_a : Statement .set_4_a :=
  ⟨Nat.le_of_ble_eq_true rfl, Nat.le_of_ble_eq_true rfl⟩
theorem set_5_b : Statement .set_5_b :=
  ⟨Nat.le_of_ble_eq_true rfl, Nat.le_of_ble_eq_true rfl⟩
theorem set_5_c : Statement .set_5_c :=
  ⟨Nat.le_of_ble_eq_true rfl, Nat.le_of_ble_eq_true rfl⟩
theorem set_5_d : Statement .set_5_d :=
  ⟨Nat.le_of_ble_eq_true rfl, Nat.le_of_ble_eq_true rfl⟩
theorem set_5_e : Statement .set_5_e :=
  ⟨Nat.le_of_ble_eq_true rfl, Nat.le_of_ble_eq_true rfl⟩
theorem set_5_h : Statement .set_5_h :=
  ⟨Nat.le_of_ble_eq_true rfl, Nat.le_of_ble_eq_true rfl⟩
theorem set_5_l : Statement .set_5_l :=
  ⟨Nat.le_of_ble_eq_true rfl, Nat.le_of_ble_eq_true rfl⟩
theorem set_5__hl : Statement .set_5__hl :=
  ⟨Nat.le_of_ble_eq_true rfl, Nat.le_of_ble_eq_true rfl⟩
theorem set_5_a : Statement .set_5_a :=
  ⟨Nat.le_of_ble_eq_true rfl, Nat.le_of_ble_eq_true rfl⟩
theorem set_6_b : Statement .set_6_b :=
  ⟨Nat.le_of_ble_eq_true rfl, Nat.le_of_ble_eq_true rfl⟩
theorem set_6_c : Statement .set_6_c :=
  ⟨Nat.le_of_ble_eq_true rfl, Nat.le_of_ble_eq_true rfl⟩
theorem set_6_d : Statement .set_6_d :=
  ⟨Nat.le_of_ble_eq_true rfl, Nat.le_of_ble_eq_true rfl⟩
theorem set_6_e : Statement .set_6_e :=
  ⟨Nat.le_of_ble_eq_true rfl, Nat.le_of_ble_eq_true rfl⟩
theorem set_6_h : Statement .set_6_h :=
  ⟨Nat.le_of_ble_eq_true rfl, Nat.le_of_ble_eq_true rfl⟩
theorem set_6_l : Statement .set_6_l :=
  ⟨Nat.le_of_ble_eq_true rfl, Nat.le_of_ble_eq_true rfl⟩
theorem set_6__hl : Statement .set_6__hl :=
  ⟨Nat.le_of_ble_eq_true rfl, Nat.le_of_ble_eq_true rfl⟩
theorem set_6_a : Statement .set_6_a :=
  ⟨Nat.le_of_ble_eq_true rfl, Nat.le_of_ble_eq_true rfl⟩
theorem set_7_b : Statement .set_7_b :=
  ⟨Nat.le_of_ble_eq_true rfl, Nat.le_of_ble_eq_true rfl⟩
theorem set_7_c : Statement .set_7_c :=
  ⟨Nat.le_of_ble_eq_true rfl, Nat.le_of_ble_eq_true rfl⟩
theorem set_7_d : Statement .set_7_d :=
  ⟨Nat.le_of_ble_eq_true rfl, Nat.le_of_ble_eq_true rfl⟩
theorem set_7_e : Statement .set_7_e :=
  ⟨Nat.le_of_ble_eq_true rfl, Nat.le_of_ble_eq_true rfl⟩
theorem set_7_h : Statement .set_7_h :=
  ⟨Nat.le_of_ble_eq_true rfl, Nat.le_of_ble_eq_true rfl⟩
theorem set_7_l : Statement .set_7_l :=
  ⟨Nat.le_of_ble_eq_true rfl, Nat.le_of_ble_eq_true rfl⟩
theorem set_7__hl : Statement .set_7__hl :=
  ⟨Nat.le_of_ble_eq_true rfl, Nat.le_of_ble_eq_true rfl⟩
theorem set_7_a : Statement .set_7_a :=
  ⟨Nat.le_of_ble_eq_true rfl, Nat.le_of_ble_eq_true rfl⟩
theorem nop__ed (op : Byte) : Statement (.nop__ed op) :=
  ⟨Nat.le_of_ble_eq_true rfl, Nat.le_of_ble_eq_true rfl⟩
theorem in_b__c : Statement .in_b__c :=
  ⟨Nat.le_of_ble_eq_true rfl, Nat.le_of_ble_eq_true rfl⟩
theorem out__c__b : Statement .out__c__b :=
  ⟨Nat.le_of_ble_eq_true rfl, Nat.le_of_ble_eq_true rfl⟩
theorem sbc_hl_bc : Statement .sbc_hl_bc :=
  ⟨Nat.le_of_ble_eq_true rfl, Nat.le_of_ble_eq_true rfl⟩
theorem ld__nn__bc (nn : Word) : Statement (.ld__nn__bc nn) :=
  ⟨Nat.le_of_ble_eq_true rfl, Nat.le_of_ble_eq_true rfl⟩
theorem neg (op : Byte) : Statement (.neg op) :=
  ⟨Nat.le_of_ble_eq_true rfl, Nat.le_of_ble_eq_true rfl⟩
theorem retn (op : Byte) : Statement (.retn op) :=
  ⟨Nat.le_of_ble_eq_true rfl, Nat.le_of_ble_eq_true rfl⟩
theorem im_0 (op : Byte) : Statement (.im_0 op) :=
  ⟨Nat.le_of_ble_eq_true rfl, Nat.le_of_ble_eq_true rfl⟩
theorem ld_i_a : Statement .ld_i_a :=
  ⟨Nat.le_of_ble_eq_true rfl, Nat.le_of_ble_eq_true rfl⟩
theorem in_c__c : Statement .in_c__c :=
  ⟨Nat.le_of_ble_eq_true rfl, Nat.le_of_ble_eq_true rfl⟩
theorem out__c__c : Statement .out__c__c :=
  ⟨Nat.le_of_ble_eq_true rfl, Nat.le_of_ble_eq_true rfl⟩
theorem adc_hl_bc : Statement .adc_hl_bc :=
  ⟨Nat.le_of_ble_eq_true rfl, Nat.le_of_ble_eq_true rfl⟩
theorem ld_bc__nn (nn : Word) : Statement (.ld_bc__nn nn) :=
  ⟨Nat.le_of_ble_eq_true rfl, Nat.le_of_ble_eq_true rfl⟩
theorem reti : Statement .reti :=
  ⟨Nat.le_of_ble_eq_true rfl, Nat.le_of_ble_eq_true rfl⟩
theorem ld_r_a : Statement .ld_r_a :=
  ⟨Nat.le_of_ble_eq_true rfl, Nat.le_of_ble_eq_true rfl⟩
theorem in_d__c : Statement .in_d__c :=
  ⟨Nat.le_of_ble_eq_true rfl, Nat.le_of_ble_eq_true rfl⟩
theorem out__c__d : Statement .out__c__d :=
  ⟨Nat.le_of_ble_eq_true rfl, Nat.le_of_ble_eq_true rfl⟩
theorem sbc_hl_de : Statement .sbc_hl_de :=
  ⟨Nat.le_of_ble_eq_true rfl, Nat.le_of_ble_eq_true rfl⟩
theorem ld__nn__de (nn : Word) : Statement (.ld__nn__de nn) :=
  ⟨Nat.le_of_ble_eq_true rfl, Nat.le_of_ble_eq_true rfl⟩
theorem im_1 (op : Byte) : Statement (.im_1 op) :=
  ⟨Nat.le_of_ble_eq_true rfl, Nat.le_of_ble_eq_true rfl⟩
theorem ld_a_i : Statement .ld_a_i :=
  ⟨Nat.le_of_ble_eq_true rfl, Nat.le_of_ble_eq_true rfl⟩
theorem in_e__c : Statement .in_e__c :=
  ⟨Nat.le_of_ble_eq_true rfl, Nat.le_of_ble_eq_true rfl⟩
theorem out__c__e : Statement .out__c__e :=
  ⟨Nat.le_of_ble_eq_true rfl, Nat.le_of_ble_eq_true rfl⟩
theorem adc_hl_de : Statement .adc_hl_de :=
  ⟨Nat.le_of_ble_eq_true rfl, Nat.le_of_ble_eq_true rfl⟩
theorem ld_de__nn (nn : Word) : Statement (.ld_de__nn nn) :=
  ⟨Nat.le_of_ble_eq_true rfl, Nat.le_of_ble_eq_true rfl⟩
theorem im_2 (op : Byte) : Statement (.im_2 op) :=
  ⟨Nat.le_of_ble_eq_true rfl, Nat.le_of_ble_eq_true rfl⟩
theorem ld_a_r : Statement .ld_a_r :=
  ⟨Nat.le_of_ble_eq_true rfl, Nat.le_of_ble_eq_true rfl⟩
theorem in_h__c : Statement .in_h__c :=
  ⟨Nat.le_of_ble_eq_true rfl, Nat.le_of_ble_eq_true rfl⟩
theorem out__c__h : Statement .out__c__h :=
  ⟨Nat.le_of_ble_eq_true rfl, Nat.le_of_ble_eq_true rfl⟩
theorem sbc_hl_hl : Statement .sbc_hl_hl :=
  ⟨Nat.le_of_ble_eq_true rfl, Nat.le_of_ble_eq_true rfl⟩
theorem ld__nn__hl_ed (nn : Word) : Statement (.ld__nn__hl_ed nn) :=
  ⟨Nat.le_of_ble_eq_true rfl, Nat.le_of_ble_eq_true rfl⟩
theorem rrd : Statement .rrd :=
  ⟨Nat.le_of_ble_eq_true rfl, Nat.le_of_ble_eq_true rfl⟩
theorem in_l__c : Statement .in_l__c :=
  ⟨Nat.le_of_ble_eq_true rfl, Nat.le_of_ble_eq_true rfl⟩
theorem out__c__l : Statement .out__c__l :=
  ⟨Nat.le_of_ble_eq_true rfl, Nat.le_of_ble_eq_true rfl⟩
theorem adc_hl_hl : Statement .adc_hl_hl :=
  ⟨Nat.le_of_ble_eq_true rfl, Nat.le_of_ble_eq_true rfl⟩
theorem ld_hl__nn_ed (nn : Word) : Statement (.ld_hl__nn_ed nn) :=
  ⟨Nat.le_of_ble_eq_true rfl, Nat.le_of_ble_eq_true rfl⟩
theorem rld : Statement .rld :=
  ⟨Nat.le_of_ble_eq_true rfl, Nat.le_of_ble_eq_true rfl⟩
theorem in_f__c : Statement .in_f__c :=
  ⟨Nat.le_of_ble_eq_true rfl, Nat.le_of_ble_eq_true rfl⟩
theorem out__c__0 : Statement .out__c__0 :=
  ⟨Nat.le_of_ble_eq_true rfl, Nat.le_of_ble_eq_true rfl⟩
theorem sbc_hl_sp : Statement .sbc_hl_sp :=
  ⟨Nat.le_of_ble_eq_true rfl, Nat.le_of_ble_eq_true rfl⟩
theorem ld__nn__sp (nn : Word) : Statement (.ld__nn__sp nn) :=
  ⟨Nat.le_of_ble_eq_true rfl, Nat.le_of_ble_eq_true rfl⟩
theorem in_a__c : Statement .in_a__c :=
  ⟨Nat.le_of_ble_eq_true rfl, Nat.le_of_ble_eq_true rfl⟩
theorem out__c__a : Statement .out__c__a :=
  ⟨Nat.le_of_ble_eq_true rfl, Nat.le_of_ble_eq_true rfl⟩
theorem adc_hl_sp : Statement .adc_hl_sp :=
  ⟨Nat.le_of_ble_eq_true rfl, Nat.le_of_ble_eq_true rfl⟩
theorem ld_sp__nn (nn : Word) : Statement (.ld_sp__nn nn) :=
  ⟨Nat.le_of_ble_eq_true rfl, Nat.le_of_ble_eq_true rfl⟩
theorem ldi : Statement .ldi :=
  ⟨Nat.le_of_ble_eq_true rfl, Nat.le_of_ble_eq_true rfl⟩
theorem cpi : Statement .cpi :=
  ⟨Nat.le_of_ble_eq_true rfl, Nat.le_of_ble_eq_true rfl⟩
theorem ini : Statement .ini :=
  ⟨Nat.le_of_ble_eq_true rfl, Nat.le_of_ble_eq_true rfl⟩
theorem outi : Statement .outi :=
  ⟨Nat.le_of_ble_eq_true rfl, Nat.le_of_ble_eq_true rfl⟩
theorem ldd : Statement .ldd :=
  ⟨Nat.le_of_ble_eq_true rfl, Nat.le_of_ble_eq_true rfl⟩
theorem cpd : Statement .cpd :=
  ⟨Nat.le_of_ble_eq_true rfl, Nat.le_of_ble_eq_true rfl⟩
theorem ind : Statement .ind :=
  ⟨Nat.le_of_ble_eq_true rfl, Nat.le_of_ble_eq_true rfl⟩
theorem outd : Statement .outd :=
  ⟨Nat.le_of_ble_eq_true rfl, Nat.le_of_ble_eq_true rfl⟩
theorem ldir : Statement .ldir :=
  ⟨Nat.le_of_ble_eq_true rfl, Nat.le_of_ble_eq_true rfl⟩
theorem cpir : Statement .cpir :=
  ⟨Nat.le_of_ble_eq_true rfl, Nat.le_of_ble_eq_true rfl⟩
theorem inir : Statement .inir :=
  ⟨Nat.le_of_ble_eq_true rfl, Nat.le_of_ble_eq_true rfl⟩
theorem otir : Statement .otir :=
  ⟨Nat.le_of_ble_eq_true rfl, Nat.le_of_ble_eq_true rfl⟩
theorem lddr : Statement .lddr :=
  ⟨Nat.le_of_ble_eq_true rfl, Nat.le_of_ble_eq_true rfl⟩
theorem cpdr : Statement .cpdr :=
  ⟨Nat.le_of_ble_eq_true rfl, Nat.le_of_ble_eq_true rfl⟩
theorem indr : Statement .indr :=
  ⟨Nat.le_of_ble_eq_true rfl, Nat.le_of_ble_eq_true rfl⟩
theorem otdr : Statement .otdr :=
  ⟨Nat.le_of_ble_eq_true rfl, Nat.le_of_ble_eq_true rfl⟩
theorem add_ix_bc : Statement .add_ix_bc :=
  ⟨Nat.le_of_ble_eq_true rfl, Nat.le_of_ble_eq_true rfl⟩
theorem add_ix_de : Statement .add_ix_de :=
  ⟨Nat.le_of_ble_eq_true rfl, Nat.le_of_ble_eq_true rfl⟩
theorem ld_ix_nn (nn : Word) : Statement (.ld_ix_nn nn) :=
  ⟨Nat.le_of_ble_eq_true rfl, Nat.le_of_ble_eq_true rfl⟩
theorem ld__nn__ix (nn : Word) : Statement (.ld__nn__ix nn) :=
  ⟨Nat.le_of_ble_eq_true rfl, Nat.le_of_ble_eq_true rfl⟩
theorem inc_ix : Statement .inc_ix :=
  ⟨Nat.le_of_ble_eq_true rfl, Nat.le_of_ble_eq_true rfl⟩
theorem inc_ixh : Statement .inc_ixh :=
  ⟨Nat.le_of_ble_eq_true rfl, Nat.le_of_ble_eq_true rfl⟩
theorem dec_ixh : Statement .dec_ixh :=
  ⟨Nat.le_of_ble_eq_true rfl, Nat.le_of_ble_eq_true rfl⟩
theorem ld_ixh_n (n : Byte) : Statement (.ld_ixh_n n) :=
  ⟨Nat.le_of_ble_eq_true rfl, Nat.le_of_ble_eq_true rfl⟩
theorem add_ix_ix : Statement .add_ix_ix :=
  ⟨Nat.le_of_ble_eq_true rfl, Nat.le_of_ble_eq_true rfl⟩
theorem ld_ix__nn (nn : Word) : Statement (.ld_ix__nn nn) :=
  ⟨Nat.le_of_ble_eq_true rfl, Nat.le_of_ble_eq_true rfl⟩
theorem dec_ix : Statement .dec_ix :=
  ⟨Nat.le_of_ble_eq_true rfl, Nat.le_of_ble_eq_true rfl⟩
theorem inc_ixl : Statement .inc_ixl :=
  ⟨Nat.le_of_ble_eq_true rfl, Nat.le_of_ble_eq_true rfl⟩
theorem dec_ixl : Statement .dec_ixl :=
  ⟨Nat.le_of_ble_eq_true rfl, Nat.le_of_ble_eq_true rfl⟩
theorem ld_ixl_n (n : Byte) : Statement (.ld_ixl_n n) :=
  ⟨Nat.le_of_ble_eq_true rfl, Nat.le_of_ble_eq_true rfl⟩
theorem inc__ixd (d : Byte) : Statement (.inc__ixd d) :=
  ⟨Nat.le_of_ble_eq_true rfl, Nat.le_of_ble_eq_true rfl⟩
theorem dec__ixd (d : Byte) : Statement (.dec__ixd d) :=
  ⟨Nat.le_of_ble_eq_true rfl, Nat.le_of_ble_eq_true rfl⟩
theorem ld__ixd__n (d : Byte) (n : Byte) : Statement (.ld__ixd__n d n) :=
  ⟨Nat.le_of_ble_eq_true rfl, Nat.le_of_ble_eq_true rfl⟩
theorem add_ix_sp : Statement .add_ix_sp :=
  ⟨Nat.le_of_ble_eq_true rfl, Nat.le_of_ble_eq_true rfl⟩
theorem ld_b_ixh : Statement .ld_b_ixh :=
  ⟨Nat.le_of_ble_eq_true rfl, Nat.le_of_ble_eq_true rfl⟩
theorem ld_b_ixl : Statement .ld_b_ixl :=
  ⟨Nat.le_of_ble_eq_true rfl, Nat.le_of_ble_eq_true rfl⟩
theorem ld_b__ixd (d : Byte) : Statement (.ld_b__ixd d) :=
  ⟨Nat.le_of_ble_eq_true rfl, Nat.le_of_ble_eq_true rfl⟩
theorem ld_c_ixh : Statement .ld_c_ixh :=
  ⟨Nat.le_of_ble_eq_true rfl, Nat.le_of_ble_eq_true rfl⟩
theorem ld_c_ixl : Statement .ld_c_ixl :=
  ⟨Nat.le_of_ble_eq_true rfl, Nat.le_of_ble_eq_true rfl⟩
theorem ld_c__ixd (d : Byte) : Statement (.ld_c__ixd d) :=
  ⟨Nat.le_of_ble_eq_true rfl, Nat.le_of_ble_eq_true rfl⟩
theorem ld_d_ixh : Statement .ld_d_ixh :=
  ⟨Nat.le_of_ble_eq_true rfl, Nat.le_of_ble_eq_true rfl⟩
theorem ld_d_ixl : Statement .ld_d_ixl :=
  ⟨Nat.le_of_ble_eq_true rfl, Nat.le_of_ble_eq_true rfl⟩
theorem ld_d__ixd (d : Byte) : Statement (.ld_d__ixd d) :=
  ⟨Nat.le_of_ble_eq_true rfl, Nat.le_of_ble_eq_true rfl⟩
theorem ld_e_ixh : Statement .ld_e_ixh :=
  ⟨Nat.le_of_ble_eq_true rfl, Nat.le_of_ble_eq_true rfl⟩
theorem ld_e_ixl : Statement .ld_e_ixl :=
  ⟨Nat.le_of_ble_eq_true rfl, Nat.le_of_ble_eq_true rfl⟩
theorem ld_e__ixd (d : Byte) : Statement (.ld_e__ixd d) :=
  ⟨Nat.le_of_ble_eq_true rfl, Nat.le_of_ble_eq_true rfl⟩
theorem ld_ixh_b : Statement .ld_ixh_b :=
  ⟨Nat.le_of_ble_eq_true rfl, Nat.le_of_ble_eq_true rfl⟩
theorem ld_ixh_c : Statement .ld_ixh_c :=
  ⟨Nat.le_of_ble_eq_true rfl, Nat.le_of_ble_eq_true rfl⟩
theorem ld_ixh_d : Statement .ld_ixh_d :=
  ⟨Nat.le_of_ble_eq_true rfl, Nat.le_of_ble_eq_true rfl⟩
theorem ld_ixh_e : Statement .ld_ixh_e :=
  ⟨Nat.le_of_ble_eq_true rfl, Nat.le_of_ble_eq_true rfl⟩
theorem ld_ixh_ixh : Statement .ld_ixh_ixh :=
  ⟨Nat.le_of_ble_eq_true rfl, Nat.le_of_ble_eq_true rfl⟩
theorem ld_ixh_ixl : Statement .ld_ixh_ixl :=
  ⟨Nat.le_of_ble_eq_true rfl, Nat.le_of_ble_eq_true rfl⟩
theorem ld_h__ixd (d : Byte) : Statement (.ld_h__ixd d) :=
  ⟨Nat.le_of_ble_eq_true rfl, Nat.le_of_ble_eq_true rfl⟩
theorem ld_ixh_a : Statement .ld_ixh_a :=
  ⟨Nat.le_of_ble_eq_true rfl, Nat.le_of_ble_eq_true rfl⟩
theorem ld_ixl_b : Statement .ld_ixl_b :=
  ⟨Nat.le_of_ble_eq_true rfl, Nat.le_of_ble_eq_true rfl⟩
theorem ld_ixl_c : Statement .ld_ixl_c :=
  ⟨Nat.le_of_ble_eq_true rfl, Nat.le_of_ble_eq_true rfl⟩
theorem ld_ixl_d : Statement .ld_ixl_d :=
  ⟨Nat.le_of_ble_eq_true rfl, Nat.le_of_ble_eq_true rfl⟩
theorem ld_ixl_e : Statement .ld_ixl_e :=
  ⟨Nat.le_of_ble_eq_true rfl, Nat.le_of_ble_eq_true rfl⟩
theorem ld_ixl_ixh : Statement .ld_ixl_ixh :=
  ⟨Nat.le_of_ble_eq_true rfl, Nat.le_of_ble_eq_true rfl⟩
theorem ld_ixl_ixl : Statement .ld_ixl_ixl :=
  ⟨Nat.le_of_ble_eq_true rfl, Nat.le_of_ble_eq_true rfl⟩
theorem ld_l__ixd (d : Byte) : Statement (.ld_l__ixd d) :=
  ⟨Nat.le_of_ble_eq_true rfl, Nat.le_of_ble_eq_true rfl⟩
theorem ld_ixl_a : Statement .ld_ixl_a :=
  ⟨Nat.le_of_ble_eq_true rfl, Nat.le_of_ble_eq_true rfl⟩
theorem ld__ixd__b (d : Byte) : Statement (.ld__ixd__b d) :=
  ⟨Nat.le_of_ble_eq_true rfl, Nat.le_of_ble_eq_true rfl⟩
theorem ld__ixd__c (d : Byte) : Statement (.ld__ixd__c d) :=
  ⟨Nat.le_of_ble_eq_true rfl, Nat.le_of_ble_eq_true rfl⟩
theorem ld__ixd__d (d : Byte) : Statement (.ld__ixd__d d) :=
  ⟨Nat.le_of_ble_eq_true rfl, Nat.le_of_ble_eq_true rfl⟩
theorem ld__ixd__e (d : Byte) : Statement (.ld__ixd__e d) :=
  ⟨Nat.le_of_ble_eq_true rfl, Nat.le_of_ble_eq_true rfl⟩
theorem ld__ixd__h (d : Byte) : Statement (.ld__ixd__h d) :=
  ⟨Nat.le_of_ble_eq_true rfl, Nat.le_of_ble_eq_true rfl⟩
theorem ld__ixd__l (d : Byte) : Statement (.ld__ixd__l d) :=
  ⟨Nat.le_of_ble_eq_true rfl, Nat.le_of_ble_eq_true rfl⟩
theorem ld__ixd__a (d : Byte) : Statement (.ld__ixd__a d) :=
  ⟨Nat.le_of_ble_eq_true rfl, Nat.le_of_ble_eq_true rfl⟩
theorem ld_a_ixh : Statement .ld_a_ixh :=
  ⟨Nat.le_of_ble_eq_true rfl, Nat.le_of_ble_eq_true rfl⟩
theorem ld_a_ixl : Statement .ld_a_ixl :=
  ⟨Nat.le_of_ble_eq_true rfl, Nat.le_of_ble_eq_true rfl⟩
theorem ld_a__ixd (d : Byte) : Statement (.ld_a__ixd d) :=
  ⟨Nat.le_of_ble_eq_true rfl, Nat.le_of_ble_eq_true rfl⟩
theorem add_a_ixh : Statement .add_a_ixh :=
  ⟨Nat.le_of_ble_eq_true rfl, Nat.le_of_ble_eq_true rfl⟩
theorem add_a_ixl : Statement .add_a_ixl :=
  ⟨Nat.le_of_ble_eq_true rfl, Nat.le_of_ble_eq_true rfl⟩
theorem add_a__ixd (d : Byte) : Statement (.add_a__ixd d) :=
  ⟨Nat.le_of_ble_eq_true rfl, Nat.le_of_ble_eq_true rfl⟩
theorem adc_a_ixh : Statement .adc_a_ixh :=
  ⟨Nat.le_of_ble_eq_true rfl, Nat.le_of_ble_eq_true rfl⟩
theorem adc_a_ixl : Statement .adc_a_ixl :=
  ⟨Nat.le_of_ble_eq_true rfl, Nat.le_of_ble_eq_true rfl⟩
theorem adc_a__ixd (d : Byte) : Statement (.adc_a__ixd d) :=
  ⟨Nat.le_of_ble_eq_true rfl, Nat.le_of_ble_eq_true rfl⟩
theorem sub_ixh : Statement .sub_ixh :=
  ⟨Nat.le_of_ble_eq_true rfl, Nat.le_of_ble_eq_true rfl⟩
theorem sub_ixl : Statement .sub_ixl :=
  ⟨Nat.le_of_ble_eq_true rfl, Nat.le_of_ble_eq_true rfl⟩
theorem sub__ixd (d : Byte) : Statement (.sub__ixd d) :=
  ⟨Nat.le_of_ble_eq_true rfl, Nat.le_of_ble_eq_true rfl⟩
theorem sbc_a_ixh : Statement .sbc_a_ixh :=
  ⟨Nat.le_of_ble_eq_true rfl, Nat.le_of_ble_eq_true rfl⟩
theorem sbc_a_ixl : Statement .sbc_a_ixl :=
  ⟨Nat.le_of_ble_eq_true rfl, Nat.le_of_ble_eq_true rfl⟩
theorem sbc_a__ixd (d : Byte) : Statement (.sbc_a__ixd d) :=
  ⟨Nat.le_of_ble_eq_true rfl, Nat.le_of_ble_eq_true rfl⟩
theorem and_ixh : Statement .and_ixh :=
  ⟨Nat.le_of_ble_eq_true rfl, Nat.le_of_ble_eq_true rfl⟩
theorem and_ixl : Statement .and_ixl :=
  ⟨Nat.le_of_ble_eq_true rfl, Nat.le_of_ble_eq_true rfl⟩
theorem and__ixd (d : Byte) : Statement (.and__ixd d) :=
  ⟨Nat.le_of_ble_eq_true rfl, Nat.le_of_ble_eq_true rfl⟩
theorem xor_ixh : Statement .xor_ixh :=
  ⟨Nat.le_of_ble_eq_true rfl, Nat.le_of_ble_eq_true rfl⟩
theorem xor_ixl : Statement .xor_ixl :=
  ⟨Nat.le_of_ble_eq_true rfl, Nat.le_of_ble_eq_true rfl⟩
theorem xor__ixd (d : Byte) : Statement (.xor__ixd d) :=
  ⟨Nat.le_of_ble_eq_true rfl, Nat.le_of_ble_eq_true rfl⟩
theorem or_ixh : Statement .or_ixh :=
  ⟨Nat.le_of_ble_eq_true rfl, Nat.le_of_ble_eq_true rfl⟩
theorem or_ixl : Statement .or_ixl :=
  ⟨Nat.le_of_ble_eq_true rfl, Nat.le_of_ble_eq_true rfl⟩
theorem or__ixd (d : Byte) : Statement (.or__ixd d) :=
  ⟨Nat.le_of_ble_eq_true rfl, Nat.le_of_ble_eq_true rfl⟩
theorem cp_ixh : Statement .cp_ixh :=
  ⟨Nat.le_of_ble_eq_true rfl, Nat.le_of_ble_eq_true rfl⟩
theorem cp_ixl : Statement .cp_ixl :=
  ⟨Nat.le_of_ble_eq_true rfl, Nat.le_of_ble_eq_true rfl⟩
theorem cp__ixd (d : Byte) : Statement (.cp__ixd d) :=
  ⟨Nat.le_of_ble_eq_true rfl, Nat.le_of_ble_eq_true rfl⟩
theorem prefix_ddcb : Statement .prefix_ddcb :=
  ⟨Nat.le_of_ble_eq_true rfl, Nat.le_of_ble_eq_true rfl⟩
theorem prefix_dd__supersedes (x : IdxReg) : Statement (.prefix_dd__supersedes x) :=
  ⟨Nat.le_of_ble_eq_true rfl, Nat.le_of_ble_eq_true rfl⟩
theorem pop_ix : Statement .pop_ix :=
  ⟨Nat.le_of_ble_eq_true rfl, Nat.le_of_ble_eq_true rfl⟩
theorem ex__sp__ix : Statement .ex__sp__ix :=
  ⟨Nat.le_of_ble_eq_true rfl, Nat.le_of_ble_eq_true rfl⟩
theorem push_ix : Statement .push_ix :=
  ⟨Nat.le_of_ble_eq_true rfl, Nat.le_of_ble_eq_true rfl⟩
theorem jp__ix : Statement .jp__ix :=
  ⟨Nat.le_of_ble_eq_true rfl, Nat.le_of_ble_eq_true rfl⟩
theorem prefix_ed__index_prefix_dropped (x : IdxReg) : Statement (.prefix_ed__index_prefix_dropped x) :=
  ⟨Nat.le_of_ble_eq_true rfl, Nat.le_of_ble_eq_true rfl⟩
theorem ld_sp_ix : Statement .ld_sp_ix :=
  ⟨Nat.le_of_ble_eq_true rfl, Nat.le_of_ble_eq_true rfl⟩
theorem prefix_fd__supersedes (x : IdxReg) : Statement (.prefix_fd__supersedes x) :=
  ⟨Nat.le_of_ble_eq_true rfl, Nat.le_of_ble_eq_true rfl⟩
theorem add_iy_bc : Statement .add_iy_bc :=
  ⟨Nat.le_of_ble_eq_true rfl, Nat.le_of_ble_eq_true rfl⟩
theorem add_iy_de : Statement .add_iy_de :=
  ⟨Nat.le_of_ble_eq_true rfl, Nat.le_of_ble_eq_true rfl⟩
theorem ld_iy_nn (nn : Word) : Statement (.ld_iy_nn nn) :=
  ⟨Nat.le_of_ble_eq_true rfl, Nat.le_of_ble_eq_true rfl⟩
theorem ld__nn__iy (nn : Word) : Statement (.ld__nn__iy nn) :=
  ⟨Nat.le_of_ble_eq_true rfl, Nat.le_of_ble_eq_true rfl⟩
theorem inc_iy : Statement .inc_iy :=
  ⟨Nat.le_of_ble_eq_true rfl, Nat.le_of_ble_eq_true rfl⟩
theorem inc_iyh : Statement .inc_iyh :=
  ⟨Nat.le_of_ble_eq_true rfl, Nat.le_of_ble_eq_true rfl⟩
theorem dec_iyh : Statement .dec_iyh :=
  ⟨Nat.le_of_ble_eq_true rfl, Nat.le_of_ble_eq_true rfl⟩
theorem ld_iyh_n (n : Byte) : Statement (.ld_iyh_n n) :=
  ⟨Nat.le_of_ble_eq_true rfl, Nat.le_of_ble_eq_true rfl⟩
theorem add_iy_iy : Statement .add_iy_iy :=
  ⟨Nat.le_of_ble_eq_true rfl, Nat.le_of_ble_eq_true rfl⟩
theorem ld_iy__nn (nn : Word) : Statement (.ld_iy__nn nn) :=
  ⟨Nat.le_of_ble_eq_true rfl, Nat.le_of_ble_eq_true rfl⟩
theorem dec_iy : Statement .dec_iy :=
  ⟨Nat.le_of_ble_eq_true rfl, Nat.le_of_ble_eq_true rfl⟩
theorem inc_iyl : Statement .inc_iyl :=
  ⟨Nat.le_of_ble_eq_true rfl, Nat.le_of_ble_eq_true rfl⟩
theorem dec_iyl : Statement .dec_iyl :=
  ⟨Nat.le_of_ble_eq_true rfl, Nat.le_of_ble_eq_true rfl⟩
theorem ld_iyl_n (n : Byte) : Statement (.ld_iyl_n n) :=
  ⟨Nat.le_of_ble_eq_true rfl, Nat.le_of_ble_eq_true rfl⟩
theorem inc__iyd (d : Byte) : Statement (.inc__iyd d) :=
  ⟨Nat.le_of_ble_eq_true rfl, Nat.le_of_ble_eq_true rfl⟩
theorem dec__iyd (d : Byte) : Statement (.dec__iyd d) :=
  ⟨Nat.le_of_ble_eq_true rfl, Nat.le_of_ble_eq_true rfl⟩
theorem ld__iyd__n (d : Byte) (n : Byte) : Statement (.ld__iyd__n d n) :=
  ⟨Nat.le_of_ble_eq_true rfl, Nat.le_of_ble_eq_true rfl⟩
theorem add_iy_sp : Statement .add_iy_sp :=
  ⟨Nat.le_of_ble_eq_true rfl, Nat.le_of_ble_eq_true rfl⟩
theorem ld_b_iyh : Statement .ld_b_iyh :=
  ⟨Nat.le_of_ble_eq_true rfl, Nat.le_of_ble_eq_true rfl⟩
theorem ld_b_iyl : Statement .ld_b_iyl :=
  ⟨Nat.le_of_ble_eq_true rfl, Nat.le_of_ble_eq_true rfl⟩
theorem ld_b__iyd (d : Byte) : Statement (.ld_b__iyd d) :=
  ⟨Nat.le_of_ble_eq_true rfl, Nat.le_of_ble_eq_true rfl⟩
theorem ld_c_iyh : Statement .ld_c_iyh :=
  ⟨Nat.le_of_ble_eq_true rfl, Nat.le_of_ble_eq_true rfl⟩
theorem ld_c_iyl : Statement .ld_c_iyl :=
  ⟨Nat.le_of_ble_eq_true rfl, Nat.le_of_ble_eq_true rfl⟩
theorem ld_c__iyd (d : Byte) : Statement (.ld_c__iyd d) :=
  ⟨Nat.le_of_ble_eq_true rfl, Nat.le_of_ble_eq_true rfl⟩
theorem ld_d_iyh : Statement .ld_d_iyh :=
  ⟨Nat.le_of_ble_eq_true rfl, Nat.le_of_ble_eq_true rfl⟩
theorem ld_d_iyl : Statement .ld_d_iyl :=
  ⟨Nat.le_of_ble_eq_true rfl, Nat.le_of_ble_eq_true rfl⟩
theorem ld_d__iyd (d : Byte) : Statement (.ld_d__iyd d) :=
  ⟨Nat.le_of_ble_eq_true rfl, Nat.le_of_ble_eq_true rfl⟩
theorem ld_e_iyh : Statement .ld_e_iyh :=
  ⟨Nat.le_of_ble_eq_true rfl, Nat.le_of_ble_eq_true rfl⟩
theorem ld_e_iyl : Statement .ld_e_iyl :=
  ⟨Nat.le_of_ble_eq_true rfl, Nat.le_of_ble_eq_true rfl⟩
theorem ld_e__iyd (d : Byte) : Statement (.ld_e__iyd d) :=
  ⟨Nat.le_of_ble_eq_true rfl, Nat.le_of_ble_eq_true rfl⟩
theorem ld_iyh_b : Statement .ld_iyh_b :=
  ⟨Nat.le_of_ble_eq_true rfl, Nat.le_of_ble_eq_true rfl⟩
theorem ld_iyh_c : Statement .ld_iyh_c :=
  ⟨Nat.le_of_ble_eq_true rfl, Nat.le_of_ble_eq_true rfl⟩
theorem ld_iyh_d : Statement .ld_iyh_d :=
  ⟨Nat.le_of_ble_eq_true rfl, Nat.le_of_ble_eq_true rfl⟩
theorem ld_iyh_e : Statement .ld_iyh_e :=
  ⟨Nat.le_of_ble_eq_true rfl, Nat.le_of_ble_eq_true rfl⟩
theorem ld_iyh_iyh : Statement .ld_iyh_iyh :=
  ⟨Nat.le_of_ble_eq_true rfl, Nat.le_of_ble_eq_true rfl⟩
theorem ld_iyh_iyl : Statement .ld_iyh_iyl :=
  ⟨Nat.le_of_ble_eq_true rfl, Nat.le_of_ble_eq_true rfl⟩
theorem ld_h__iyd (d : Byte) : Statement (.ld_h__iyd d) :=
  ⟨Nat.le_of_ble_eq_true rfl, Nat.le_of_ble_eq_true rfl⟩
theorem ld_iyh_a : Statement .ld_iyh_a :=
  ⟨Nat.le_of_ble_eq_true rfl, Nat.le_of_ble_eq_true rfl⟩
theorem ld_iyl_b : Statement .ld_iyl_b :=
  ⟨Nat.le_of_ble_eq_true rfl, Nat.le_of_ble_eq_true rfl⟩
theorem ld_iyl_c : Statement .ld_iyl_c :=
  ⟨Nat.le_of_ble_eq_true rfl, Nat.le_of_ble_eq_true rfl⟩
theorem ld_iyl_d : Statement .ld_iyl_d :=
  ⟨Nat.le_of_ble_eq_true rfl, Nat.le_of_ble_eq_true rfl⟩
theorem ld_iyl_e : Statement .ld_iyl_e :=
  ⟨Nat.le_of_ble_eq_true rfl, Nat.le_of_ble_eq_true rfl⟩
theorem ld_iyl_iyh : Statement .ld_iyl_iyh :=
  ⟨Nat.le_of_ble_eq_true rfl, Nat.le_of_ble_eq_true rfl⟩
theorem ld_iyl_iyl : Statement .ld_iyl_iyl :=
  ⟨Nat.le_of_ble_eq_true rfl, Nat.le_of_ble_eq_true rfl⟩
theorem ld_l__iyd (d : Byte) : Statement (.ld_l__iyd d) :=
  ⟨Nat.le_of_ble_eq_true rfl, Nat.le_of_ble_eq_true rfl⟩
theorem ld_iyl_a : Statement .ld_iyl_a :=
  ⟨Nat.le_of_ble_eq_true rfl, Nat.le_of_ble_eq_true rfl⟩
theorem ld__iyd__b (d : Byte) : Statement (.ld__iyd__b d) :=
  ⟨Nat.le_of_ble_eq_true rfl, Nat.le_of_ble_eq_true rfl⟩
theorem ld__iyd__c (d : Byte) : Statement (.ld__iyd__c d) :=
  ⟨Nat.le_of_ble_eq_true rfl, Nat.le_of_ble_eq_true rfl⟩
theorem ld__iyd__d (d : Byte) : Statement (.ld__iyd__d d) :=
  ⟨Nat.le_of_ble_eq_true rfl, Nat.le_of_ble_eq_true rfl⟩
theorem ld__iyd__e (d : Byte) : Statement (.ld__iyd__e d) :=
  ⟨Nat.le_of_ble_eq_true rfl, Nat.le_of_ble_eq_true rfl⟩
theorem ld__iyd__h (d : Byte) : Statement (.ld__iyd__h d) :=
  ⟨Nat.le_of_ble_eq_true rfl, Nat.le_of_ble_eq_true rfl⟩
theorem ld__iyd__l (d : Byte) : Statement (.ld__iyd__l d) :=
  ⟨Nat.le_of_ble_eq_true rfl, Nat.le_of_ble_eq_true rfl⟩
theorem ld__iyd__a (d : Byte) : Statement (.ld__iyd__a d) :=
  ⟨Nat.le_of_ble_eq_true rfl, Nat.le_of_ble_eq_true rfl⟩
theorem ld_a_iyh : Statement .ld_a_iyh :=
  ⟨Nat.le_of_ble_eq_true rfl, Nat.le_of_ble_eq_true rfl⟩
theorem ld_a_iyl : Statement .ld_a_iyl :=
  ⟨Nat.le_of_ble_eq_true rfl, Nat.le_of_ble_eq_true rfl⟩
theorem ld_a__iyd (d : Byte) : Statement (.ld_a__iyd d) :=
  ⟨Nat.le_of_ble_eq_true rfl, Nat.le_of_ble_eq_true rfl⟩
theorem add_a_iyh : Statement .add_a_iyh :=
  ⟨Nat.le_of_ble_eq_true rfl, Nat.le_of_ble_eq_true rfl⟩
theorem add_a_iyl : Statement .add_a_iyl :=
  ⟨Nat.le_of_ble_eq_true rfl, Nat.le_of_ble_eq_true rfl⟩
theorem add_a__iyd (d : Byte) : Statement (.add_a__iyd d) :=
  ⟨Nat.le_of_ble_eq_true rfl, Nat.le_of_ble_eq_true rfl⟩
theorem adc_a_iyh : Statement .adc_a_iyh :=
  ⟨Nat.le_of_ble_eq_true rfl, Nat.le_of_ble_eq_true rfl⟩
theorem adc_a_iyl : Statement .adc_a_iyl :=
  ⟨Nat.le_of_ble_eq_true rfl, Nat.le_of_ble_eq_true rfl⟩
theorem adc_a__iyd (d : Byte) : Statement (.adc_a__iyd d) :=
  ⟨Nat.le_of_ble_eq_true rfl, Nat.le_of_ble_eq_true rfl⟩
theorem sub_iyh : Statement .sub_iyh :=
  ⟨Nat.le_of_ble_eq_true rfl, Nat.le_of_ble_eq_true rfl⟩
theorem sub_iyl : Statement .sub_iyl :=
  ⟨Nat.le_of_ble_eq_true rfl, Nat.le_of_ble_eq_true rfl⟩
theorem sub__iyd (d : Byte) : Statement (.sub__iyd d) :=
  ⟨Nat.le_of_ble_eq_true rfl, Nat.le_of_ble_eq_true rfl⟩
theorem sbc_a_iyh : Statement .sbc_a_iyh :=
  ⟨Nat.le_of_ble_eq_true rfl, Nat.le_of_ble_eq_true rfl⟩
theorem sbc_a_iyl : Statement .sbc_a_iyl :=
  ⟨Nat.le_of_ble_eq_true rfl, Nat.le_of_ble_eq_true rfl⟩
theorem sbc_a__iyd (d : Byte) : Statement (.sbc_a__iyd d) :=
  ⟨Nat.le_of_ble_eq_true rfl, Nat.le_of_ble_eq_true rfl⟩
theorem and_iyh : Statement .and_iyh :=
  ⟨Nat.le_of_ble_eq_true rfl, Nat.le_of_ble_eq_true rfl⟩
theorem and_iyl : Statement .and_iyl :=
  ⟨Nat.le_of_ble_eq_true rfl, Nat.le_of_ble_eq_true rfl⟩
theorem and__iyd (d : Byte) : Statement (.and__iyd d) :=
  ⟨Nat.le_of_ble_eq_true rfl, Nat.le_of_ble_eq_true rfl⟩
theorem xor_iyh : Statement .xor_iyh :=
  ⟨Nat.le_of_ble_eq_true rfl, Nat.le_of_ble_eq_true rfl⟩
theorem xor_iyl : Statement .xor_iyl :=
  ⟨Nat.le_of_ble_eq_true rfl, Nat.le_of_ble_eq_true rfl⟩
theorem xor__iyd (d : Byte) : Statement (.xor__iyd d) :=
  ⟨Nat.le_of_ble_eq_true rfl, Nat.le_of_ble_eq_true rfl⟩
theorem or_iyh : Statement .or_iyh :=
  ⟨Nat.le_of_ble_eq_true rfl, Nat.le_of_ble_eq_true rfl⟩
theorem or_iyl : Statement .or_iyl :=
  ⟨Nat.le_of_ble_eq_true rfl, Nat.le_of_ble_eq_true rfl⟩
theorem or__iyd (d : Byte) : Statement (.or__iyd d) :=
  ⟨Nat.le_of_ble_eq_true rfl, Nat.le_of_ble_eq_true rfl⟩
theorem cp_iyh : Statement .cp_iyh :=
  ⟨Nat.le_of_ble_eq_true rfl, Nat.le_of_ble_eq_true rfl⟩
theorem cp_iyl : Statement .cp_iyl :=
  ⟨Nat.le_of_ble_eq_true rfl, Nat.le_of_ble_eq_true rfl⟩
theorem cp__iyd (d : Byte) : Statement (.cp__iyd d) :=
  ⟨Nat.le_of_ble_eq_true rfl, Nat.le_of_ble_eq_true rfl⟩
theorem prefix_fdcb : Statement .prefix_fdcb :=
  ⟨Nat.le_of_ble_eq_true rfl, Nat.le_of_ble_eq_true rfl⟩
theorem pop_iy : Statement .pop_iy :=
  ⟨Nat.le_of_ble_eq_true rfl, Nat.le_of_ble_eq_true rfl⟩
theorem ex__sp__iy : Statement .ex__sp__iy :=
  ⟨Nat.le_of_ble_eq_true rfl, Nat.le_of_ble_eq_true rfl⟩
theorem push_iy : Statement .push_iy :=
  ⟨Nat.le_of_ble_eq_true rfl, Nat.le_of_ble_eq_true rfl⟩
theorem jp__iy : Statement .jp__iy :=
  ⟨Nat.le_of_ble_eq_true rfl, Nat.le_of_ble_eq_true rfl⟩
theorem ld_sp_iy : Statement .ld_sp_iy :=
  ⟨Nat.le_of_ble_eq_true rfl, Nat.le_of_ble_eq_true rfl⟩
theorem rlc__ixd__b (d : Byte) : Statement (.rlc__ixd__b d) :=
  ⟨Nat.le_of_ble_eq_true rfl, Nat.le_of_ble_eq_true rfl⟩
theorem rlc__ixd__c (d : Byte) : Statement (.rlc__ixd__c d) :=
  ⟨Nat.le_of_ble_eq_true rfl, Nat.le_of_ble_eq_true rfl⟩
theorem rlc__ixd__d (d : Byte) : Statement (.rlc__ixd__d d) :=
  ⟨Nat.le_of_ble_eq_true rfl, Nat.le_of_ble_eq_true rfl⟩
theorem rlc__ixd__e (d : Byte) : Statement (.rlc__ixd__e d) :=
  ⟨Nat.le_of_ble_eq_true rfl, Nat.le_of_ble_eq_true rfl⟩
theorem rlc__ixd__h (d : Byte) : Statement (.rlc__ixd__h d) :=
  ⟨Nat.le_of_ble_eq_true rfl, Nat.le_of_ble_eq_true rfl⟩
theorem rlc__ixd__l (d : Byte) : Statement (.rlc__ixd__l d) :=
  ⟨Nat.le_of_ble_eq_true rfl, Nat.le_of_ble_eq_true rfl⟩
theorem rlc__ixd (d : Byte) : Statement (.rlc__ixd d) :=
  ⟨Nat.le_of_ble_eq_true rfl, Nat.le_of_ble_eq_true rfl⟩
theorem rlc__ixd__a (d : Byte) : Statement (.rlc__ixd__a d) :=
  ⟨Nat.le_of_ble_eq_true rfl, Nat.le_of_ble_eq_true rfl⟩
theorem rrc__ixd__b (d : Byte) : Statement (.rrc__ixd__b d) :=
  ⟨Nat.le_of_ble_eq_true rfl, Nat.le_of_ble_eq_true rfl⟩
theorem rrc__ixd__c (d : Byte) : Statement (.rrc__ixd__c d) :=
  ⟨Nat.le_of_ble_eq_true rfl, Nat.le_of_ble_eq_true rfl⟩
theorem rrc__ixd__d (d : Byte) : Statement (.rrc__ixd__d d) :=
  ⟨Nat.le_of_ble_eq_true rfl, Nat.le_of_ble_eq_true rfl⟩
theorem rrc__ixd__e (d : Byte) : Statement (.rrc__ixd__e d) :=
  ⟨Nat.le_of_ble_eq_true rfl, Nat.le_of_ble_eq_true rfl⟩
theorem rrc__ixd__h (d : Byte) : Statement (.rrc__ixd__h d) :=
  ⟨Nat.le_of_ble_eq_true rfl, Nat.le_of_ble_eq_true rfl⟩
theorem rrc__ixd__l (d : Byte) : Statement (.rrc__ixd__l d) :=
  ⟨Nat.le_of_ble_eq_true rfl, Nat.le_of_ble_eq_true rfl⟩
theorem rrc__ixd (d : Byte) : Statement (.rrc__ixd d) :=
  ⟨Nat.le_of_ble_eq_true rfl, Nat.le_of_ble_eq_true rfl⟩
theorem rrc__ixd__a (d : Byte) : Statement (.rrc__ixd__a d) :=
  ⟨Nat.le_of_ble_eq_true rfl, Nat.le_of_ble_eq_true rfl⟩
theorem rl__ixd__b (d : Byte) : Statement (.rl__ixd__b d) :=
  ⟨Nat.le_of_ble_eq_true rfl, Nat.le_of_ble_eq_true rfl⟩
theorem rl__ixd__c (d : Byte) : Statement (.rl__ixd__c d) :=
  ⟨Nat.le_of_ble_eq_true rfl, Nat.le_of_ble_eq_true rfl⟩
theorem rl__ixd__d (d : Byte) : Statement (.rl__ixd__d d) :=
  ⟨Nat.le_of_ble_eq_true rfl, Nat.le_of_ble_eq_true rfl⟩
theorem rl__ixd__e (d : Byte) : Statement (.rl__ixd__e d) :=
  ⟨Nat.le_of_ble_eq_true rfl, Nat.le_of_ble_eq_true rfl⟩
theorem rl__ixd__h (d : Byte) : Statement (.rl__ixd__h d) :=
  ⟨Nat.le_of_ble_eq_true rfl, Nat.le_of_ble_eq_true rfl⟩
theorem rl__ixd__l (d : Byte) : Statement (.rl__ixd__l d) :=
  ⟨Nat.le_of_ble_eq_true rfl, Nat.le_of_ble_eq_true rfl⟩
theorem rl__ixd (d : Byte) : Statement (.rl__ixd d) :=
  ⟨Nat.le_of_ble_eq_true rfl, Nat.le_of_ble_eq_true rfl⟩
theorem rl__ixd__a (d : Byte) : Statement (.rl__ixd__a d) :=
  ⟨Nat.le_of_ble_eq_true rfl, Nat.le_of_ble_eq_true rfl⟩
theorem rr__ixd__b (d : Byte) : Statement (.rr__ixd__b d) :=
  ⟨Nat.le_of_ble_eq_true rfl, Nat.le_of_ble_eq_true rfl⟩
theorem rr__ixd__c (d : Byte) : Statement (.rr__ixd__c d) :=
  ⟨Nat.le_of_ble_eq_true rfl, Nat.le_of_ble_eq_true rfl⟩
theorem rr__ixd__d (d : Byte) : Statement (.rr__ixd__d d) :=
  ⟨Nat.le_of_ble_eq_true rfl, Nat.le_of_ble_eq_true rfl⟩
theorem rr__ixd__e (d : Byte) : Statement (.rr__ixd__e d) :=
  ⟨Nat.le_of_ble_eq_true rfl, Nat.le_of_ble_eq_true rfl⟩
theorem rr__ixd__h (d : Byte) : Statement (.rr__ixd__h d) :=
  ⟨Nat.le_of_ble_eq_true rfl, Nat.le_of_ble_eq_true rfl⟩
theorem rr__ixd__l (d : Byte) : Statement (.rr__ixd__l d) :=
  ⟨Nat.le_of_ble_eq_true rfl, Nat.le_of_ble_eq_true rfl⟩
theorem rr__ixd (d : Byte) : Statement (.rr__ixd d) :=
  ⟨Nat.le_of_ble_eq_true rfl, Nat.le_of_ble_eq_true rfl⟩
theorem rr__ixd__a (d : Byte) : Statement (.rr__ixd__a d) :=
  ⟨Nat.le_of_ble_eq_true rfl, Nat.le_of_ble_eq_true rfl⟩
theorem sla__ixd__b (d : Byte) : Statement (.sla__ixd__b d) :=
  ⟨Nat.le_of_ble_eq_true rfl, Nat.le_of_ble_eq_true rfl⟩
theorem sla__ixd__c (d : Byte) : Statement (.sla__ixd__c d) :=
  ⟨Nat.le_of_ble_eq_true rfl, Nat.le_of_ble_eq_true rfl⟩
theorem sla__ixd__d (d : Byte) : Statement (.sla__ixd__d d) :=
  ⟨Nat.le_of_ble_eq_true rfl, Nat.le_of_ble_eq_true rfl⟩
theorem sla__ixd__e (d : Byte) : Statement (.sla__ixd__e d) :=
  ⟨Nat.le_of_ble_eq_true rfl, Nat.le_of_ble_eq_true rfl⟩
theorem sla__ixd__h (d : Byte) : Statement (.sla__ixd__h d) :=
  ⟨Nat.le_of_ble_eq_true rfl, Nat.le_of_ble_eq_true rfl⟩
theorem sla__ixd__l (d : Byte) : Statement (.sla__ixd__l d) :=
  ⟨Nat.le_of_ble_eq_true rfl, Nat.le_of_ble_eq_true rfl⟩
theorem sla__ixd (d : Byte) : Statement (.sla__ixd d) :=
  ⟨Nat.le_of_ble_eq_true rfl, Nat.le_of_ble_eq_true rfl⟩
theorem sla__ixd__a (d : Byte) : Statement (.sla__ixd__a d) :=
  ⟨Nat.le_of_ble_eq_true rfl, Nat.le_of_ble_eq_true rfl⟩
theorem sra__ixd__b (d : Byte) : Statement (.sra__ixd__b d) :=
  ⟨Nat.le_of_ble_eq_true rfl, Nat.le_of_ble_eq_true rfl⟩
theorem sra__ixd__c (d : Byte) : Statement (.sra__ixd__c d) :=
  ⟨Nat.le_of_ble_eq_true rfl, Nat.le_of_ble_eq_true rfl⟩
theorem sra__ixd__d (d : Byte) : Statement (.sra__ixd__d d) :=
  ⟨Nat.le_of_ble_eq_true rfl, Nat.le_of_ble_eq_true rfl⟩
theorem sra__ixd__e (d : Byte) : Statement (.sra__ixd__e d) :=
  ⟨Nat.le_of_ble_eq_true rfl, Nat.le_of_ble_eq_true rfl⟩
theorem sra__ixd__h (d : Byte) : Statement (.sra__ixd__h d) :=
  ⟨Nat.le_of_ble_eq_true rfl, Nat.le_of_ble_eq_true rfl⟩
theorem sra__ixd__l (d : Byte) : Statement (.sra__ixd__l d) :=
  ⟨Nat.le_of_ble_eq_true rfl, Nat.le_of_ble_eq_true rfl⟩
theorem sra__ixd (d : Byte) : Statement (.sra__ixd d) :=
  ⟨Nat.le_of_ble_eq_true rfl, Nat.le_of_ble_eq_true rfl⟩
theorem sra__ixd__a (d : Byte) : Statement (.sra__ixd__a d) :=
  ⟨Nat.le_of_ble_eq_true rfl, Nat.le_of_ble_eq_true rfl⟩
theorem sll__ixd__b (d : Byte) : Statement (.sll__ixd__b d) :=
  ⟨Nat.le_of_ble_eq_true rfl, Nat.le_of_ble_eq_true rfl⟩
theorem sll__ixd__c (d : Byte) : Statement (.sll__ixd__c d) :=
  ⟨Nat.le_of_ble_eq_true rfl, Nat.le_of_ble_eq_true rfl⟩
theorem sll__ixd__d (d : Byte) : Statement (.sll__ixd__d d) :=
  ⟨Nat.le_of_ble_eq_true rfl, Nat.le_of_ble_eq_true rfl⟩
theorem sll__ixd__e (d : Byte) : Statement (.sll__ixd__e d) :=
  ⟨Nat.le_of_ble_eq_true rfl, Nat.le_of_ble_eq_true rfl⟩
theorem sll__ixd__h (d : Byte) : Statement (.sll__ixd__h d) :=
  ⟨Nat.le_of_ble_eq_true rfl, Nat.le_of_ble_eq_true rfl⟩
theorem sll__ixd__l (d : Byte) : Statement (.sll__ixd__l d) :=
  ⟨Nat.le_of_ble_eq_true rfl, Nat.le_of_ble_eq_true rfl⟩
theorem sll__ixd (d : Byte) : Statement (.sll__ixd d) :=
  ⟨Nat.le_of_ble_eq_true rfl, Nat.le_of_ble_eq_true rfl⟩
theorem sll__ixd__a (d : Byte) : Statement (.sll__ixd__a d) :=
  ⟨Nat.le_of_ble_eq_true rfl, Nat.le_of_ble_eq_true rfl⟩
theorem srl__ixd__b (d : Byte) : Statement (.srl__ixd__b d) :=
  ⟨Nat.le_of_ble_eq_true rfl, Nat.le_of_ble_eq_true rfl⟩
theorem srl__ixd__c (d : Byte) : Statement (.srl__ixd__c d) :=
  ⟨Nat.le_of_ble_eq_true rfl, Nat.le_of_ble_eq_true rfl⟩
theorem srl__ixd__d (d : Byte) : Statement (.srl__ixd__d d) :=
  ⟨Nat.le_of_ble_eq_true rfl, Nat.le_of_ble_eq_true rfl⟩
theorem srl__ixd__e (d : Byte) : Statement (.srl__ixd__e d) :=
  ⟨Nat.le_of_ble_eq_true rfl, Nat.le_of_ble_eq_true rfl⟩
theorem srl__ixd__h (d : Byte) : Statement (.srl__ixd__h d) :=
  ⟨Nat.le_of_ble_eq_true rfl, Nat.le_of_ble_eq_true rfl⟩
theorem srl__ixd__l (d : Byte) : Statement (.srl__ixd__l d) :=
  ⟨Nat.le_of_ble_eq_true rfl, Nat.le_of_ble_eq_true rfl⟩
theorem srl__ixd (d : Byte) : Statement (.srl__ixd d) :=
  ⟨Nat.le_of_ble_eq_true rfl, Nat.le_of_ble_eq_true rfl⟩
theorem srl__ixd__a (d : Byte) : Statement (.srl__ixd__a d) :=
  ⟨Nat.le_of_ble_eq_true rfl, Nat.le_of_ble_eq_true rfl⟩
theorem bit_0__ixd (z : BitVec 3) (d : Byte) : Statement (.bit_0__ixd z d) :=
  ⟨Nat.le_of_ble_eq_true rfl, Nat.le_of_ble_eq_true rfl⟩
theorem bit_1__ixd (z : BitVec 3) (d : Byte) : Statement (.bit_1__ixd z d) :=
  ⟨Nat.le_of_ble_eq_true rfl, Nat.le_of_ble_eq_true rfl⟩
theorem bit_2__ixd (z : BitVec 3) (d : Byte) : Statement (.bit_2__ixd z d) :=
  ⟨Nat.le_of_ble_eq_true rfl, Nat.le_of_ble_eq_true rfl⟩
theorem bit_3__ixd (z : BitVec 3) (d : Byte) : Statement (.bit_3__ixd z d) :=
  ⟨Nat.le_of_ble_eq_true rfl, Nat.le_of_ble_eq_true rfl⟩
theorem bit_4__ixd (z : BitVec 3) (d : Byte) : Statement (.bit_4__ixd z d) :=
  ⟨Nat.le_of_ble_eq_true rfl, Nat.le_of_ble_eq_true rfl⟩
theorem bit_5__ixd (z : BitVec 3) (d : Byte) : Statement (.bit_5__ixd z d) :=
  ⟨Nat.le_of_ble_eq_true rfl, Nat.le_of_ble_eq_true rfl⟩
theorem bit_6__ixd (z : BitVec 3) (d : Byte) : Statement (.bit_6__ixd z d) :=
  ⟨Nat.le_of_ble_eq_true rfl, Nat.le_of_ble_eq_true rfl⟩
theorem bit_7__ixd (z : BitVec 3) (d : Byte) : Statement (.bit_7__ixd z d) :=
  ⟨Nat.le_of_ble_eq_true rfl, Nat.le_of_ble_eq_true rfl⟩
theorem res_0__ixd__b (d : Byte) : Statement (.res_0__ixd__b d) :=
  ⟨Nat.le_of_ble_eq_true rfl, Nat.le_of_ble_eq_true rfl⟩
theorem res_0__ixd__c (d : Byte) : Statement (.res_0__ixd__c d) :=
  ⟨Nat.le_of_ble_eq_true rfl, Nat.le_of_ble_eq_true rfl⟩
theorem res_0__ixd__d (d : Byte) : Statement (.res_0__ixd__d d) :=
  ⟨Nat.le_of_ble_eq_true rfl, Nat.le_of_ble_eq_true rfl⟩
theorem res_0__ixd__e (d : Byte) : Statement (.res_0__ixd__e d) :=
  ⟨Nat.le_of_ble_eq_true rfl, Nat.le_of_ble_eq_true rfl⟩
theorem res_0__ixd__h (d : Byte) : Statement (.res_0__ixd__h d) :=
  ⟨Nat.le_of_ble_eq_true rfl, Nat.le_of_ble_eq_true rfl⟩
theorem res_0__ixd__l (d : Byte) : Statement (.res_0__ixd__l d) :=
  ⟨Nat.le_of_ble_eq_true rfl, Nat.le_of_ble_eq_true rfl⟩
theorem res_0__ixd (d : Byte) : Statement (.res_0__ixd d) :=
  ⟨Nat.le_of_ble_eq_true rfl, Nat.le_of_ble_eq_true rfl⟩
theorem res_0__ixd__a (d : Byte) : Statement (.res_0__ixd__a d) :=
  ⟨Nat.le_of_ble_eq_true rfl, Nat.le_of_ble_eq_true rfl⟩
theorem res_1__ixd__b (d : Byte) : Statement (.res_1__ixd__b d) :=
  ⟨Nat.le_of_ble_eq_true rfl, Nat.le_of_ble_eq_true rfl⟩
theorem res_1__ixd__c (d : Byte) : Statement (.res_1__ixd__c d) :=
  ⟨Nat.le_of_ble_eq_true rfl, Nat.le_of_ble_eq_true rfl⟩
theorem res_1__ixd__d (d : Byte) : Statement (.res_1__ixd__d d) :=
  ⟨Nat.le_of_ble_eq_true rfl, Nat.le_of_ble_eq_true rfl⟩
theorem res_1__ixd__e (d : Byte) : Statement (.res_1__ixd__e d) :=
  ⟨Nat.le_of_ble_eq_true rfl, Nat.le_of_ble_eq_true rfl⟩
theorem res_1__ixd__h (d : Byte) : Statement (.res_1__ixd__h d) :=
  ⟨Nat.le_of_ble_eq_true rfl, Nat.le_of_ble_eq_true rfl⟩
theorem res_1__ixd__l (d : Byte) : Statement (.res_1__ixd__l d) :=
  ⟨Nat.le_of_ble_eq_true rfl, Nat.le_of_ble_eq_true rfl⟩
theorem res_1__ixd (d : Byte) : Statement (.res_1__ixd d) :=
  ⟨Nat.le_of_ble_eq_true rfl, Nat.le_of_ble_eq_true rfl⟩
theorem res_1__ixd__a (d : Byte) : Statement (.res_1__ixd__a d) :=
  ⟨Nat.le_of_ble_eq_true rfl, Nat.le_of_ble_eq_true rfl⟩
theorem res_2__ixd__b (d : Byte) : Statement (.res_2__ixd__b d) :=
  ⟨Nat.le_of_ble_eq_true rfl, Nat.le_of_ble_eq_true rfl⟩
theorem res_2__ixd__c (d : Byte) : Statement (.res_2__ixd__c d) :=
  ⟨Nat.le_of_ble_eq_true rfl, Nat.le_of_ble_eq_true rfl⟩
theorem res_2__ixd__d (d : Byte) : Statement (.res_2__ixd__d d) :=
  ⟨Nat.le_of_ble_eq_true rfl, Nat.le_of_ble_eq_true rfl⟩
theorem res_2__ixd__e (d : Byte) : Statement (.res_2__ixd__e d) :=
  ⟨Nat.le_of_ble_eq_true rfl, Nat.le_of_ble_eq_true rfl⟩
theorem res_2__ixd__h (d : Byte) : Statement (.res_2__ixd__h d) :=
  ⟨Nat.le_of_ble_eq_true rfl, Nat.le_of_ble_eq_true rfl⟩
theorem res_2__ixd__l (d : Byte) : Statement (.res_2__ixd__l d) :=
  ⟨Nat.le_of_ble_eq_true rfl, Nat.le_of_ble_eq_true rfl⟩
theorem res_2__ixd (d : Byte) : Statement (.res_2__ixd d) :=
  ⟨Nat.le_of_ble_eq_true rfl, Nat.le_of_ble_eq_true rfl⟩
theorem res_2__ixd__a (d : Byte) : Statement (.res_2__ixd__a d) :=
  ⟨Nat.le_of_ble_eq_true rfl, Nat.le_of_ble_eq_true rfl⟩
theorem res_3__ixd__b (d : Byte) : Statement (.res_3__ixd__b d) :=
  ⟨Nat.le_of_ble_eq_true rfl, Nat.le_of_ble_eq_true rfl⟩
theorem res_3__ixd__c (d : Byte) : Statement (.res_3__ixd__c d) :=
  ⟨Nat.le_of_ble_eq_true rfl, Nat.le_of_ble_eq_true rfl⟩
theorem res_3__ixd__d (d : Byte) : Statement (.res_3__ixd__d d) :=
  ⟨Nat.le_of_ble_eq_true rfl, Nat.le_of_ble_eq_true rfl⟩
theorem res_3__ixd__e (d : Byte) : Statement (.res_3__ixd__e d) :=
  ⟨Nat.le_of_ble_eq_true rfl, Nat.le_of_ble_eq_true rfl⟩
theorem res_3__ixd__h (d : Byte) : Statement (.res_3__ixd__h d) :=
  ⟨Nat.le_of_ble_eq_true rfl, Nat.le_of_ble_eq_true rfl⟩
theorem res_3__ixd__l (d : Byte) : Statement (.res_3__ixd__l d) :=
  ⟨Nat.le_of_ble_eq_true rfl, Nat.le_of_ble_eq_true rfl⟩
theorem res_3__ixd (d : Byte) : Statement (.res_3__ixd d) :=
  ⟨Nat.le_of_ble_eq_true rfl, Nat.le_of_ble_eq_true rfl⟩
theorem res_3__ixd__a (d : Byte) : Statement (.res_3__ixd__a d) :=
  ⟨Nat.le_of_ble_eq_true rfl, Nat.le_of_ble_eq_true rfl⟩
theorem res_4__ixd__b (d : Byte) : Statement (.res_4__ixd__b d) :=
  ⟨Nat.le_of_ble_eq_true rfl, Nat.le_of_ble_eq_true rfl⟩
theorem res_4__ixd__c (d : Byte) : Statement (.res_4__ixd__c d) :=
  ⟨Nat.le_of_ble_eq_true rfl, Nat.le_of_ble_eq_true rfl⟩
theorem res_4__ixd__d (d : Byte) : Statement (.res_4__ixd__d d) :=
  ⟨Nat.le_of_ble_eq_true rfl, Nat.le_of_ble_eq_true rfl⟩
theorem res_4__ixd__e (d : Byte) : Statement (.res_4__ixd__e d) :=
  ⟨Nat.le_of_ble_eq_true rfl, Nat.le_of_ble_eq_true rfl⟩
theorem res_4__ixd__h (d : Byte) : Statement (.res_4__ixd__h d) :=
  ⟨Nat.le_of_ble_eq_true rfl, Nat.le_of_ble_eq_true rfl⟩
theorem res_4__ixd__l (d : Byte) : Statement (.res_4__ixd__l d) :=
  ⟨Nat.le_of_ble_eq_true rfl, Nat.le_of_ble_eq_true rfl⟩
theorem res_4__ixd (d : Byte) : Statement (.res_4__ixd d) :=
  ⟨Nat.le_of_ble_eq_true rfl, Nat.le_of_ble_eq_true rfl⟩
theorem res_4__ixd__a (d : Byte) : Statement (.res_4__ixd__a d) :=
  ⟨Nat.le_of_ble_eq_true rfl, Nat.le_of_ble_eq_true rfl⟩
theorem res_5__ixd__b (d : Byte) : Statement (.res_5__ixd__b d) :=
  ⟨Nat.le_of_ble_eq_true rfl, Nat.le_of_ble_eq_true rfl⟩
theorem res_5__ixd__c (d : Byte) : Statement (.res_5__ixd__c d) :=
  ⟨Nat.le_of_ble_eq_true rfl, Nat.le_of_ble_eq_true rfl⟩
theorem res_5__ixd__d (d : Byte) : Statement (.res_5__ixd__d d) :=
  ⟨Nat.le_of_ble_eq_true rfl, Nat.le_of_ble_eq_true rfl⟩
theorem res_5__ixd__e (d : Byte) : Statement (.res_5__ixd__e d) :=
  ⟨Nat.le_of_ble_eq_true rfl, Nat.le_of_ble_eq_true rfl⟩
theorem res_5__ixd__h (d : Byte) : Statement (.res_5__ixd__h d) :=
  ⟨Nat.le_of_ble_eq_true rfl, Nat.le_of_ble_eq_true rfl⟩
theorem res_5__ixd__l (d : Byte) : Statement (.res_5__ixd__l d) :=
  ⟨Nat.le_of_ble_eq_true rfl, Nat.le_of_ble_eq_true rfl⟩
theorem res_5__ixd (d : Byte) : Statement (.res_5__ixd d) :=
  ⟨Nat.le_of_ble_eq_true rfl, Nat.le_of_ble_eq_true rfl⟩
theorem res_5__ixd__a (d : Byte) : Statement (.res_5__ixd__a d) :=
  ⟨Nat.le_of_ble_eq_true rfl, Nat.le_of_ble_eq_true rfl⟩
theorem res_6__ixd__b (d : Byte) : Statement (.res_6__ixd__b d) :=
  ⟨Nat.le_of_ble_eq_true rfl, Nat.le_of_ble_eq_true rfl⟩
theorem res_6__ixd__c (d : Byte) : Statement (.res_6__ixd__c d) :=
  ⟨Nat.le_of_ble_eq_true rfl, Nat.le_of_ble_eq_true rfl⟩
theorem res_6__ixd__d (d : Byte) : Statement (.res_6__ixd__d d) :=
  ⟨Nat.le_of_ble_eq_true rfl, Nat.le_of_ble_eq_true rfl⟩
theorem res_6__ixd__e (d : Byte) : Statement (.res_6__ixd__e d) :=
  ⟨Nat.le_of_ble_eq_true rfl, Nat.le_of_ble_eq_true rfl⟩
theorem res_6__ixd__h (d : Byte) : Statement (.res_6__ixd__h d) :=
  ⟨Nat.le_of_ble_eq_true rfl, Nat.le_of_ble_eq_true rfl⟩
theorem res_6__ixd__l (d : Byte) : Statement (.res_6__ixd__l d) :=
  ⟨Nat.le_of_ble_eq_true rfl, Nat.le_of_ble_eq_true rfl⟩
theorem res_6__ixd (d : Byte) : Statement (.res_6__ixd d) :=
  ⟨Nat.le_of_ble_eq_true rfl, Nat.le_of_ble_eq_true rfl⟩
theorem res_6__ixd__a (d : Byte) : Statement (.res_6__ixd__a d) :=
  ⟨Nat.le_of_ble_eq_true rfl, Nat.le_of_ble_eq_true rfl⟩
theorem res_7__ixd__b (d : Byte) : Statement (.res_7__ixd__b d) :=
  ⟨Nat.le_of_ble_eq_true rfl, Nat.le_of_ble_eq_true rfl⟩
theorem res_7__ixd__c (d : Byte) : Statement (.res_7__ixd__c d) :=
  ⟨Nat.le_of_ble_eq_true rfl, Nat.le_of_ble_eq_true rfl⟩
theorem res_7__ixd__d (d : Byte) : Statement (.res_7__ixd__d d) :=
  ⟨Nat.le_of_ble_eq_true rfl, Nat.le_of_ble_eq_true rfl⟩
theorem res_7__ixd__e (d : Byte) : Statement (.res_7__ixd__e d) :=
  ⟨Nat.le_of_ble_eq_true rfl, Nat.le_of_ble_eq_true rfl⟩
theorem res_7__ixd__h (d : Byte) : Statement (.res_7__ixd__h d) :=
  ⟨Nat.le_of_ble_eq_true rfl, Nat.le_of_ble_eq_true rfl⟩
theorem res_7__ixd__l (d : Byte) : Statement (.res_7__ixd__l d) :=
  ⟨Nat.le_of_ble_eq_true rfl, Nat.le_of_ble_eq_true rfl⟩
theorem res_7__ixd (d : Byte) : Statement (.res_7__ixd d) :=
  ⟨Nat.le_of_ble_eq_true rfl, Nat.le_of_ble_eq_true rfl⟩
theorem res_7__ixd__a (d : Byte) : Statement (.res_7__ixd__a d) :=
  ⟨Nat.le_of_ble_eq_true rfl, Nat.le_of_ble_eq_true rfl⟩
theorem set_0__ixd__b (d : Byte) : Statement (.set_0__ixd__b d) :=
  ⟨Nat.le_of_ble_eq_true rfl, Nat.le_of_ble_eq_true rfl⟩
theorem set_0__ixd__c (d : Byte) : Statement (.set_0__ixd__c d) :=
  ⟨Nat.le_of_ble_eq_true rfl, Nat.le_of_ble_eq_true rfl⟩
theorem set_0__ixd__d (d : Byte) : Statement (.set_0__ixd__d d) :=
  ⟨Nat.le_of_ble_eq_true rfl, Nat.le_of_ble_eq_true rfl⟩
theorem set_0__ixd__e (d : Byte) : Statement (.set_0__ixd__e d) :=
  ⟨Nat.le_of_ble_eq_true rfl, Nat.le_of_ble_eq_true rfl⟩
theorem set_0__ixd__h (d : Byte) : Statement (.set_0__ixd__h d) :=
  ⟨Nat.le_of_ble_eq_true rfl, Nat.le_of_ble_eq_true rfl⟩
theorem set_0__ixd__l (d : Byte) : Statement (.set_0__ixd__l d) :=
  ⟨Nat.le_of_ble_eq_true rfl, Nat.le_of_ble_eq_true rfl⟩
theorem set_0__ixd (d : Byte) : Statement (.set_0__ixd d) :=
  ⟨Nat.le_of_ble_eq_true rfl, Nat.le_of_ble_eq_true rfl⟩
theorem set_0__ixd__a (d : Byte) : Statement (.set_0__ixd__a d) :=
  ⟨Nat.le_of_ble_eq_true rfl, Nat.le_of_ble_eq_true rfl⟩
theorem set_1__ixd__b (d : Byte) : Statement (.set_1__ixd__b d) :=
  ⟨Nat.le_of_ble_eq_true rfl, Nat.le_of_ble_eq_true rfl⟩
theorem set_1__ixd__c (d : Byte) : Statement (.set_1__ixd__c d) :=
  ⟨Nat.le_of_ble_eq_true rfl, Nat.le_of_ble_eq_true rfl⟩
theorem set_1__ixd__d (d : Byte) : Statement (.set_1__ixd__d d) :=
  ⟨Nat.le_of_ble_eq_true rfl, Nat.le_of_ble_eq_true rfl⟩
theorem set_1__ixd__e (d : Byte) : Statement (.set_1__ixd__e d) :=
  ⟨Nat.le_of_ble_eq_true rfl, Nat.le_of_ble_eq_true rfl⟩
theorem set_1__ixd__h (d : Byte) : Statement (.set_1__ixd__h d) :=
  ⟨Nat.le_of_ble_eq_true rfl, Nat.le_of_ble_eq_true rfl⟩
theorem set_1__ixd__l (d : Byte) : Statement (.set_1__ixd__l d) :=
  ⟨Nat.le_of_ble_eq_true rfl, Nat.le_of_ble_eq_true rfl⟩
theorem set_1__ixd (d : Byte) : Statement (.set_1__ixd d) :=
  ⟨Nat.le_of_ble_eq_true rfl, Nat.le_of_ble_eq_true rfl⟩
theorem set_1__ixd__a (d : Byte) : Statement (.set_1__ixd__a d) :=
  ⟨Nat.le_of_ble_eq_true rfl, Nat.le_of_ble_eq_true rfl⟩
theorem set_2__ixd__b (d : Byte) : Statement (.set_2__ixd__b d) :=
  ⟨Nat.le_of_ble_eq_true rfl, Nat.le_of_ble_eq_true rfl⟩
theorem set_2__ixd__c (d : Byte) : Statement (.set_2__ixd__c d) :=
  ⟨Nat.le_of_ble_eq_true rfl, Nat.le_of_ble_eq_true rfl⟩
theorem set_2__ixd__d (d : Byte) : Statement (.set_2__ixd__d d) :=
  ⟨Nat.le_of_ble_eq_true rfl, Nat.le_of_ble_eq_true rfl⟩
theorem set_2__ixd__e (d : Byte) : Statement (.set_2__ixd__e d) :=
  ⟨Nat.le_of_ble_eq_true rfl, Nat.le_of_ble_eq_true rfl⟩
theorem set_2__ixd__h (d : Byte) : Statement (.set_2__ixd__h d) :=
  ⟨Nat.le_of_ble_eq_true rfl, Nat.le_of_ble_eq_true rfl⟩
theorem set_2__ixd__l (d : Byte) : Statement (.set_2__ixd__l d) :=
  ⟨Nat.le_of_ble_eq_true rfl, Nat.le_of_ble_eq_true rfl⟩
theorem set_2__ixd (d : Byte) : Statement (.set_2__ixd d) :=
  ⟨Nat.le_of_ble_eq_true rfl, Nat.le_of_ble_eq_true rfl⟩
theorem set_2__ixd__a (d : Byte) : Statement (.set_2__ixd__a d) :=
  ⟨Nat.le_of_ble_eq_true rfl, Nat.le_of_ble_eq_true rfl⟩
theorem set_3__ixd__b (d : Byte) : Statement (.set_3__ixd__b d) :=
  ⟨Nat.le_of_ble_eq_true rfl, Nat.le_of_ble_eq_true rfl⟩
theorem set_3__ixd__c (d : Byte) : Statement (.set_3__ixd__c d) :=
  ⟨Nat.le_of_ble_eq_true rfl, Nat.le_of_ble_eq_true rfl⟩
theorem set_3__ixd__d (d : Byte) : Statement (.set_3__ixd__d d) :=
  ⟨Nat.le_of_ble_eq_true rfl, Nat.le_of_ble_eq_true rfl⟩
theorem set_3__ixd__e (d : Byte) : Statement (.set_3__ixd__e d) :=
  ⟨Nat.le_of_ble_eq_true rfl, Nat.le_of_ble_eq_true rfl⟩
theorem set_3__ixd__h (d : Byte) : Statement (.set_3__ixd__h d) :=
  ⟨Nat.le_of_ble_eq_true rfl, Nat.le_of_ble_eq_true rfl⟩
theorem set_3__ixd__l (d : Byte) : Statement (.set_3__ixd__l d) :=
  ⟨Nat.le_of_ble_eq_true rfl, Nat.le_of_ble_eq_true rfl⟩
theorem set_3__ixd (d : Byte) : Statement (.set_3__ixd d) :=
  ⟨Nat.le_of_ble_eq_true rfl, Nat.le_of_ble_eq_true rfl⟩
theorem set_3__ixd__a (d : Byte) : Statement (.set_3__ixd__a d) :=
  ⟨Nat.le_of_ble_eq_true rfl, Nat.le_of_ble_eq_true rfl⟩
theorem set_4__ixd__b (d : Byte) : Statement (.set_4__ixd__b d) :=
  ⟨Nat.le_of_ble_eq_true rfl, Nat.le_of_ble_eq_true rfl⟩
theorem set_4__ixd__c (d : Byte) : Statement (.set_4__ixd__c d) :=
  ⟨Nat.le_of_ble_eq_true rfl, Nat.le_of_ble_eq_true rfl⟩
theorem set_4__ixd__d (d : Byte) : Statement (.set_4__ixd__d d) :=
  ⟨Nat.le_of_ble_eq_true rfl, Nat.le_of_ble_eq_true rfl⟩
theorem set_4__ixd__e (d : Byte) : Statement (.set_4__ixd__e d) :=
  ⟨Nat.le_of_ble_eq_true rfl, Nat.le_of_ble_eq_true rfl⟩
theorem set_4__ixd__h (d : Byte) : Statement (.set_4__ixd__h d) :=
  ⟨Nat.le_of_ble_eq_true rfl, Nat.le_of_ble_eq_true rfl⟩
theorem set_4__ixd__l (d : Byte) : Statement (.set_4__ixd__l d) :=
  ⟨Nat.le_of_ble_eq_true rfl, Nat.le_of_ble_eq_true rfl⟩
theorem set_4__ixd (d : Byte) : Statement (.set_4__ixd d) :=
  ⟨Nat.le_of_ble_eq_true rfl, Nat.le_of_ble_eq_true rfl⟩
theorem set_4__ixd__a (d : Byte) : Statement (.set_4__ixd__a d) :=
  ⟨Nat.le_of_ble_eq_true rfl, Nat.le_of_ble_eq_true rfl⟩
theorem set_5__ixd__b (d : Byte) : Statement (.set_5__ixd__b d) :=
  ⟨Nat.le_of_ble_eq_true rfl, Nat.le_of_ble_eq_true rfl⟩
theorem set_5__ixd__c (d : Byte) : Statement (.set_5__ixd__c d) :=
  ⟨Nat.le_of_ble_eq_true rfl, Nat.le_of_ble_eq_true rfl⟩
theorem set_5__ixd__d (d : Byte) : Statement (.set_5__ixd__d d) :=
  ⟨Nat.le_of_ble_eq_true rfl, Nat.le_of_ble_eq_true rfl⟩
theorem set_5__ixd__e (d : Byte) : Statement (.set_5__ixd__e d) :=
  ⟨Nat.le_of_ble_eq_true rfl, Nat.le_of_ble_eq_true rfl⟩
theorem set_5__ixd__h (d : Byte) : Statement (.set_5__ixd__h d) :=
  ⟨Nat.le_of_ble_eq_true rfl, Nat.le_of_ble_eq_true rfl⟩
theorem set_5__ixd__l (d : Byte) : Statement (.set_5__ixd__l d) :=
  ⟨Nat.le_of_ble_eq_true rfl, Nat.le_of_ble_eq_true rfl⟩
theorem set_5__ixd (d : Byte) : Statement (.set_5__ixd d) :=
  ⟨Nat.le_of_ble_eq_true rfl, Nat.le_of_ble_eq_true rfl⟩
theorem set_5__ixd__a (d : Byte) : Statement (.set_5__ixd__a d) :=
  ⟨Nat.le_of_ble_eq_true rfl, Nat.le_of_ble_eq_true rfl⟩
theorem set_6__ixd__b (d : Byte) : Statement (.set_6__ixd__b d) :=
  ⟨Nat.le_of_ble_eq_true rfl, Nat.le_of_ble_eq_true rfl⟩
theorem set_6__ixd__c (d : Byte) : Statement (.set_6__ixd__c d) :=
  ⟨Nat.le_of_ble_eq_true rfl, Nat.le_of_ble_eq_true rfl⟩
theorem set_6__ixd__d (d : Byte) : Statement (.set_6__ixd__d d) :=
  ⟨Nat.le_of_ble_eq_true rfl, Nat.le_of_ble_eq_true rfl⟩
theorem set_6__ixd__e (d : Byte) : Statement (.set_6__ixd__e d) :=
  ⟨Nat.le_of_ble_eq_true rfl, Nat.le_of_ble_eq_true rfl⟩
theorem set_6__ixd__h (d : Byte) : Statement (.set_6__ixd__h d) :=
  ⟨Nat.le_of_ble_eq_true rfl, Nat.le_of_ble_eq_true rfl⟩
theorem set_6__ixd__l (d : Byte) : Statement (.set_6__ixd__l d) :=
  ⟨Nat.le_of_ble_eq_true rfl, Nat.le_of_ble_eq_true rfl⟩
theorem set_6__ixd (d : Byte) : Statement (.set_6__ixd d) :=
  ⟨Nat.le_of_ble_eq_true rfl, Nat.le_of_ble_eq_true rfl⟩
theorem set_6__ixd__a (d : Byte) : Statement (.set_6__ixd__a d) :=
  ⟨Nat.le_of_ble_eq_true rfl, Nat.le_of_ble_eq_true rfl⟩
theorem set_7__ixd__b (d : Byte) : Statement (.set_7__ixd__b d) :=
  ⟨Nat.le_of_ble_eq_true rfl, Nat.le_of_ble_eq_true rfl⟩
theorem set_7__ixd__c (d : Byte) : Statement (.set_7__ixd__c d) :=
  ⟨Nat.le_of_ble_eq_true rfl, Nat.le_of_ble_eq_true rfl⟩
theorem set_7__ixd__d (d : Byte) : Statement (.set_7__ixd__d d) :=
  ⟨Nat.le_of_ble_eq_true rfl, Nat.le_of_ble_eq_true rfl⟩
theorem set_7__ixd__e (d : Byte) : Statement (.set_7__ixd__e d) :=
  ⟨Nat.le_of_ble_eq_true rfl, Nat.le_of_ble_eq_true rfl⟩
theorem set_7__ixd__h (d : Byte) : Statement (.set_7__ixd__h d) :=
  ⟨Nat.le_of_ble_eq_true rfl, Nat.le_of_ble_eq_true rfl⟩
theorem set_7__ixd__l (d : Byte) : Statement (.set_7__ixd__l d) :=
  ⟨Nat.le_of_ble_eq_true rfl, Nat.le_of_ble_eq_true rfl⟩
theorem set_7__ixd (d : Byte) : Statement (.set_7__ixd d) :=
  ⟨Nat.le_of_ble_eq_true rfl, Nat.le_of_ble_eq_true rfl⟩
theorem set_7__ixd__a (d : Byte) : Statement (.set_7__ixd__a d) :=
  ⟨Nat.le_of_ble_eq_true rfl, Nat.le_of_ble_eq_true rfl⟩
theorem rlc__iyd__b (d : Byte) : Statement (.rlc__iyd__b d) :=
  ⟨Nat.le_of_ble_eq_true rfl, Nat.le_of_ble_eq_true rfl⟩
theorem rlc__iyd__c (d : Byte) : Statement (.rlc__iyd__c d) :=
  ⟨Nat.le_of_ble_eq_true rfl, Nat.le_of_ble_eq_true rfl⟩
theorem rlc__iyd__d (d : Byte) : Statement (.rlc__iyd__d d) :=
  ⟨Nat.le_of_ble_eq_true rfl, Nat.le_of_ble_eq_true rfl⟩
theorem rlc__iyd__e (d : Byte) : Statement (.rlc__iyd__e d) :=
  ⟨Nat.le_of_ble_eq_true rfl, Nat.le_of_ble_eq_true rfl⟩
theorem rlc__iyd__h (d : Byte) : Statement (.rlc__iyd__h d) :=
  ⟨Nat.le_of_ble_eq_true rfl, Nat.le_of_ble_eq_true rfl⟩
theorem rlc__iyd__l (d : Byte) : Statement (.rlc__iyd__l d) :=
  ⟨Nat.le_of_ble_eq_true rfl, Nat.le_of_ble_eq_true rfl⟩
theorem rlc__iyd (d : Byte) : Statement (.rlc__iyd d) :=
  ⟨Nat.le_of_ble_eq_true rfl, Nat.le_of_ble_eq_true rfl⟩
theorem rlc__iyd__a (d : Byte) : Statement (.rlc__iyd__a d) :=
  ⟨Nat.le_of_ble_eq_true rfl, Nat.le_of_ble_eq_true rfl⟩
theorem rrc__iyd__b (d : Byte) : Statement (.rrc__iyd__b d) :=
  ⟨Nat.le_of_ble_eq_true rfl, Nat.le_of_ble_eq_true rfl⟩
theorem rrc__iyd__c (d : Byte) : Statement (.rrc__iyd__c d) :=
  ⟨Nat.le_of_ble_eq_true rfl, Nat.le_of_ble_eq_true rfl⟩
theorem rrc__iyd__d (d : Byte) : Statement (.rrc__iyd__d d) :=
  ⟨Nat.le_of_ble_eq_true rfl, Nat.le_of_ble_eq_true rfl⟩
theorem rrc__iyd__e (d : Byte) : Statement (.rrc__iyd__e d) :=
  ⟨Nat.le_of_ble_eq_true rfl, Nat.le_of_ble_eq_true rfl⟩
theorem rrc__iyd__h (d : Byte) : Statement (.rrc__iyd__h d) :=
  ⟨Nat.le_of_ble_eq_true rfl, Nat.le_of_ble_eq_true rfl⟩
theorem rrc__iyd__l (d : Byte) : Statement (.rrc__iyd__l d) :=
  ⟨Nat.le_of_ble_eq_true rfl, Nat.le_of_ble_eq_true rfl⟩
theorem rrc__iyd (d : Byte) : Statement (.rrc__iyd d) :=
  ⟨Nat.le_of_ble_eq_true rfl, Nat.le_of_ble_eq_true rfl⟩
theorem rrc__iyd__a (d : Byte) : Statement (.rrc__iyd__a d) :=
  ⟨Nat.le_of_ble_eq_true rfl, Nat.le_of_ble_eq_true rfl⟩
theorem rl__iyd__b (d : Byte) : Statement (.rl__iyd__b d) :=
  ⟨Nat.le_of_ble_eq_true rfl, Nat.le_of_ble_eq_true rfl⟩
theorem rl__iyd__c (d : Byte) : Statement (.rl__iyd__c d) :=
  ⟨Nat.le_of_ble_eq_true rfl, Nat.le_of_ble_eq_true rfl⟩
theorem rl__iyd__d (d : Byte) : Statement (.rl__iyd__d d) :=
  ⟨Nat.le_of_ble_eq_true rfl, Nat.le_of_ble_eq_true rfl⟩
theorem rl__iyd__e (d : Byte) : Statement (.rl__iyd__e d) :=
  ⟨Nat.le_of_ble_eq_true rfl, Nat.le_of_ble_eq_true rfl⟩
theorem rl__iyd__h (d : Byte) : Statement (.rl__iyd__h d) :=
  ⟨Nat.le_of_ble_eq_true rfl, Nat.le_of_ble_eq_true rfl⟩
theorem rl__iyd__l (d : Byte) : Statement (.rl__iyd__l d) :=
  ⟨Nat.le_of_ble_eq_true rfl, Nat.le_of_ble_eq_true rfl⟩
theorem rl__iyd (d : Byte) : Statement (.rl__iyd d) :=
  ⟨Nat.le_of_ble_eq_true rfl, Nat.le_of_ble_eq_true rfl⟩
theorem rl__iyd__a (d : Byte) : Statement (.rl__iyd__a d) :=
  ⟨Nat.le_of_ble_eq_true rfl, Nat.le_of_ble_eq_true rfl⟩
theorem rr__iyd__b (d : Byte) : Statement (.rr__iyd__b d) :=
  ⟨Nat.le_of_ble_eq_true rfl, Nat.le_of_ble_eq_true rfl⟩
theorem rr__iyd__c (d : Byte) : Statement (.rr__iyd__c d) :=
  ⟨Nat.le_of_ble_eq_true rfl, Nat.le_of_ble_eq_true rfl⟩
theorem rr__iyd__d (d : Byte) : Statement (.rr__iyd__d d) :=
  ⟨Nat.le_of_ble_eq_true rfl, Nat.le_of_ble_eq_true rfl⟩
theorem rr__iyd__e (d : Byte) : Statement (.rr__iyd__e d) :=
  ⟨Nat.le_of_ble_eq_true rfl, Nat.le_of_ble_eq_true rfl⟩
theorem rr__iyd__h (d : Byte) : Statement (.rr__iyd__h d) :=
  ⟨Nat.le_of_ble_eq_true rfl, Nat.le_of_ble_eq_true rfl⟩
theorem rr__iyd__l (d : Byte) : Statement (.rr__iyd__l d) :=
  ⟨Nat.le_of_ble_eq_true rfl, Nat.le_of_ble_eq_true rfl⟩
theorem rr__iyd (d : Byte) : Statement (.rr__iyd d) :=
  ⟨Nat.le_of_ble_eq_true rfl, Nat.le_of_ble_eq_true rfl⟩
theorem rr__iyd__a (d : Byte) : Statement (.rr__iyd__a d) :=
  ⟨Nat.le_of_ble_eq_true rfl, Nat.le_of_ble_eq_true rfl⟩
theorem sla__iyd__b (d : Byte) : Statement (.sla__iyd__b d) :=
  ⟨Nat.le_of_ble_eq_true rfl, Nat.le_of_ble_eq_true rfl⟩
theorem sla__iyd__c (d : Byte) : Statement (.sla__iyd__c d) :=
  ⟨Nat.le_of_ble_eq_true rfl, Nat.le_of_ble_eq_true rfl⟩
theorem sla__iyd__d (d : Byte) : Statement (.sla__iyd__d d) :=
  ⟨Nat.le_of_ble_eq_true rfl, Nat.le_of_ble_eq_true rfl⟩
theorem sla__iyd__e (d : Byte) : Statement (.sla__iyd__e d) :=
  ⟨Nat.le_of_ble_eq_true rfl, Nat.le_of_ble_eq_true rfl⟩
theorem sla__iyd__h (d : Byte) : Statement (.sla__iyd__h d) :=
  ⟨Nat.le_of_ble_eq_true rfl, Nat.le_of_ble_eq_true rfl⟩
theorem sla__iyd__l (d : Byte) : Statement (.sla__iyd__l d) :=
  ⟨Nat.le_of_ble_eq_true rfl, Nat.le_of_ble_eq_true rfl⟩
theorem sla__iyd (d : Byte) : Statement (.sla__iyd d) :=
  ⟨Nat.le_of_ble_eq_true rfl, Nat.le_of_ble_eq_true rfl⟩
theorem sla__iyd__a (d : Byte) : Statement (.sla__iyd__a d) :=
  ⟨Nat.le_of_ble_eq_true rfl, Nat.le_of_ble_eq_true rfl⟩
theorem sra__iyd__b (d : Byte) : Statement (.sra__iyd__b d) :=
  ⟨Nat.le_of_ble_eq_true rfl, Nat.le_of_ble_eq_true rfl⟩
theorem sra__iyd__c (d : Byte) : Statement (.sra__iyd__c d) :=
  ⟨Nat.le_of_ble_eq_true rfl, Nat.le_of_ble_eq_true rfl⟩
theorem sra__iyd__d (d : Byte) : Statement (.sra__iyd__d d) :=
  ⟨Nat.le_of_ble_eq_true rfl, Nat.le_of_ble_eq_true rfl⟩
theorem sra__iyd__e (d : Byte) : Statement (.sra__iyd__e d) :=
  ⟨Nat.le_of_ble_eq_true rfl, Nat.le_of_ble_eq_true rfl⟩
theorem sra__iyd__h (d : Byte) : Statement (.sra__iyd__h d) :=
  ⟨Nat.le_of_ble_eq_true rfl, Nat.le_of_ble_eq_true rfl⟩
theorem sra__iyd__l (d : Byte) : Statement (.sra__iyd__l d) :=
  ⟨Nat.le_of_ble_eq_true rfl, Nat.le_of_ble_eq_true rfl⟩
theorem sra__iyd (d : Byte) : Statement (.sra__iyd d) :=
  ⟨Nat.le_of_ble_eq_true rfl, Nat.le_of_ble_eq_true rfl⟩
theorem sra__iyd__a (d : Byte) : Statement (.sra__iyd__a d) :=
  ⟨Nat.le_of_ble_eq_true rfl, Nat.le_of_ble_eq_true rfl⟩
theorem sll__iyd__b (d : Byte) : Statement (.sll__iyd__b d) :=
  ⟨Nat.le_of_ble_eq_true rfl, Nat.le_of_ble_eq_true rfl⟩
theorem sll__iyd__c (d : Byte) : Statement (.sll__iyd__c d) :=
  ⟨Nat.le_of_ble_eq_true rfl, Nat.le_of_ble_eq_true rfl⟩
theorem sll__iyd__d (d : Byte) : Statement (.sll__iyd__d d) :=
  ⟨Nat.le_of_ble_eq_true rfl, Nat.le_of_ble_eq_true rfl⟩
theorem sll__iyd__e (d : Byte) : Statement (.sll__iyd__e d) :=
  ⟨Nat.le_of_ble_eq_true rfl, Nat.le_of_ble_eq_true rfl⟩
theorem sll__iyd__h (d : Byte) : Statement (.sll__iyd__h d) :=
  ⟨Nat.le_of_ble_eq_true rfl, Nat.le_of_ble_eq_true rfl⟩
theorem sll__iyd__l (d : Byte) : Statement (.sll__iyd__l d) :=
  ⟨Nat.le_of_ble_eq_true rfl, Nat.le_of_ble_eq_true rfl⟩
theorem sll__iyd (d : Byte) : Statement (.sll__iyd d) :=
  ⟨Nat.le_of_ble_eq_true rfl, Nat.le_of_ble_eq_true rfl⟩
theorem sll__iyd__a (d : Byte) : Statement (.sll__iyd__a d) :=
  ⟨Nat.le_of_ble_eq_true rfl, Nat.le_of_ble_eq_true rfl⟩
theorem srl__iyd__b (d : Byte) : Statement (.srl__iyd__b d) :=
  ⟨Nat.le_of_ble_eq_true rfl, Nat.le_of_ble_eq_true rfl⟩
theorem srl__iyd__c (d : Byte) : Statement (.srl__iyd__c d) :=
  ⟨Nat.le_of_ble_eq_true rfl, Nat.le_of_ble_eq_true rfl⟩
theorem srl__iyd__d (d : Byte) : Statement (.srl__iyd__d d) :=
  ⟨Nat.le_of_ble_eq_true rfl, Nat.le_of_ble_eq_true rfl⟩
theorem srl__iyd__e (d : Byte) : Statement (.srl__iyd__e d) :=
  ⟨Nat.le_of_ble_eq_true rfl, Nat.le_of_ble_eq_true rfl⟩
theorem srl__iyd__h (d : Byte) : Statement (.srl__iyd__h d) :=
  ⟨Nat.le_of_ble_eq_true rfl, Nat.le_of_ble_eq_true rfl⟩
theorem srl__iyd__l (d : Byte) : Statement (.srl__iyd__l d) :=
  ⟨Nat.le_of_ble_eq_true rfl, Nat.le_of_ble_eq_true rfl⟩
theorem srl__iyd (d : Byte) : Statement (.srl__iyd d) :=
  ⟨Nat.le_of_ble_eq_true rfl, Nat.le_of_ble_eq_true rfl⟩
theorem srl__iyd__a (d : Byte) : Statement (.srl__iyd__a d) :=
  ⟨Nat.le_of_ble_eq_true rfl, Nat.le_of_ble_eq_true rfl⟩
theorem bit_0__iyd (z : BitVec 3) (d : Byte) : Statement (.bit_0__iyd z d) :=
  ⟨Nat.le_of_ble_eq_true rfl, Nat.le_of_ble_eq_true rfl⟩
theorem bit_1__iyd (z : BitVec 3) (d : Byte) : Statement (.bit_1__iyd z d) :=
  ⟨Nat.le_of_ble_eq_true rfl, Nat.le_of_ble_eq_true rfl⟩
theorem bit_2__iyd (z : BitVec 3) (d : Byte) : Statement (.bit_2__iyd z d) :=
  ⟨Nat.le_of_ble_eq_true rfl, Nat.le_of_ble_eq_true rfl⟩
theorem bit_3__iyd (z : BitVec 3) (d : Byte) : Statement (.bit_3__iyd z d) :=
  ⟨Nat.le_of_ble_eq_true rfl, Nat.le_of_ble_eq_true rfl⟩
theorem bit_4__iyd (z : BitVec 3) (d : Byte) : Statement (.bit_4__iyd z d) :=
  ⟨Nat.le_of_ble_eq_true rfl, Nat.le_of_ble_eq_true rfl⟩
theorem bit_5__iyd (z : BitVec 3) (d : Byte) : Statement (.bit_5__iyd z d) :=
  ⟨Nat.le_of_ble_eq_true rfl, Nat.le_of_ble_eq_true rfl⟩
theorem bit_6__iyd (z : BitVec 3) (d : Byte) : Statement (.bit_6__iyd z d) :=
  ⟨Nat.le_of_ble_eq_true rfl, Nat.le_of_ble_eq_true rfl⟩
theorem bit_7__iyd (z : BitVec 3) (d : Byte) : Statement (.bit_7__iyd z d) :=
  ⟨Nat.le_of_ble_eq_true rfl, Nat.le_of_ble_eq_true rfl⟩
theorem res_0__iyd__b (d : Byte) : Statement (.res_0__iyd__b d) :=
  ⟨Nat.le_of_ble_eq_true rfl, Nat.le_of_ble_eq_true rfl⟩
theorem res_0__iyd__c (d : Byte) : Statement (.res_0__iyd__c d) :=
  ⟨Nat.le_of_ble_eq_true rfl, Nat.le_of_ble_eq_true rfl⟩
theorem res_0__iyd__d (d : Byte) : Statement (.res_0__iyd__d d) :=
  ⟨Nat.le_of_ble_eq_true rfl, Nat.le_of_ble_eq_true rfl⟩
theorem res_0__iyd__e (d : Byte) : Statement (.res_0__iyd__e d) :=
  ⟨Nat.le_of_ble_eq_true rfl, Nat.le_of_ble_eq_true rfl⟩
theorem res_0__iyd__h (d : Byte) : Statement (.res_0__iyd__h d) :=
  ⟨Nat.le_of_ble_eq_true rfl, Nat.le_of_ble_eq_true rfl⟩
theorem res_0__iyd__l (d : Byte) : Statement (.res_0__iyd__l d) :=
  ⟨Nat.le_of_ble_eq_true rfl, Nat.le_of_ble_eq_true rfl⟩
theorem res_0__iyd (d : Byte) : Statement (.res_0__iyd d) :=
  ⟨Nat.le_of_ble_eq_true rfl, Nat.le_of_ble_eq_true rfl⟩
theorem res_0__iyd__a (d : Byte) : Statement (.res_0__iyd__a d) :=
  ⟨Nat.le_of_ble_eq_true rfl, Nat.le_of_ble_eq_true rfl⟩
theorem res_1__iyd__b (d : Byte) : Statement (.res_1__iyd__b d) :=
  ⟨Nat.le_of_ble_eq_true rfl, Nat.le_of_ble_eq_true rfl⟩
theorem res_1__iyd__c (d : Byte) : Statement (.res_1__iyd__c d) :=
  ⟨Nat.le_of_ble_eq_true rfl, Nat.le_of_ble_eq_true rfl⟩
theorem res_1__iyd__d (d : Byte) : Statement (.res_1__iyd__d d) :=
  ⟨Nat.le_of_ble_eq_true rfl, Nat.le_of_ble_eq_true rfl⟩
theorem res_1__iyd__e (d : Byte) : Statement (.res_1__iyd__e d) :=
  ⟨Nat.le_of_ble_eq_true rfl, Nat.le_of_ble_eq_true rfl⟩
theorem res_1__iyd__h (d : Byte) : Statement (.res_1__iyd__h d) :=
  ⟨Nat.le_of_ble_eq_true rfl, Nat.le_of_ble_eq_true rfl⟩
theorem res_1__iyd__l (d : Byte) : Statement (.res_1__iyd__l d) :=
  ⟨Nat.le_of_ble_eq_true rfl, Nat.le_of_ble_eq_true rfl⟩
theorem res_1__iyd (d : Byte) : Statement (.res_1__iyd d) :=
  ⟨Nat.le_of_ble_eq_true rfl, Nat.le_of_ble_eq_true rfl⟩
theorem res_1__iyd__a (d : Byte) : Statement (.res_1__iyd__a d) :=
  ⟨Nat.le_of_ble_eq_true rfl, Nat.le_of_ble_eq_true rfl⟩
theorem res_2__iyd__b (d : Byte) : Statement (.res_2__iyd__b d) :=
  ⟨Nat.le_of_ble_eq_true rfl, Nat.le_of_ble_eq_true rfl⟩
theorem res_2__iyd__c (d : Byte) : Statement (.res_2__iyd__c d) :=
  ⟨Nat.le_of_ble_eq_true rfl, Nat.le_of_ble_eq_true rfl⟩
theorem res_2__iyd__d (d : Byte) : Statement (.res_2__iyd__d d) :=
  ⟨Nat.le_of_ble_eq_true rfl, Nat.le_of_ble_eq_true rfl⟩
theorem res_2__iyd__e (d : Byte) : Statement (.res_2__iyd__e d) :=
  ⟨Nat.le_of_ble_eq_true rfl, Nat.le_of_ble_eq_true rfl⟩
theorem res_2__iyd__h (d : Byte) : Statement (.res_2__iyd__h d) :=
  ⟨Nat.le_of_ble_eq_true rfl, Nat.le_of_ble_eq_true rfl⟩
theorem res_2__iyd__l (d : Byte) : Statement (.res_2__iyd__l d) :=
  ⟨Nat.le_of_ble_eq_true rfl, Nat.le_of_ble_eq_true rfl⟩
theorem res_2__iyd (d : Byte) : Statement (.res_2__iyd d) :=
  ⟨Nat.le_of_ble_eq_true rfl, Nat.le_of_ble_eq_true rfl⟩
theorem res_2__iyd__a (d : Byte) : Statement (.res_2__iyd__a d) :=
  ⟨Nat.le_of_ble_eq_true rfl, Nat.le_of_ble_eq_true rfl⟩
theorem res_3__iyd__b (d : Byte) : Statement (.res_3__iyd__b d) :=
  ⟨Nat.le_of_ble_eq_true rfl, Nat.le_of_ble_eq_true rfl⟩
theorem res_3__iyd__c (d : Byte) : Statement (.res_3__iyd__c d) :=
  ⟨Nat.le_of_ble_eq_true rfl, Nat.le_of_ble_eq_true rfl⟩
theorem res_3__iyd__d (d : Byte) : Statement (.res_3__iyd__d d) :=
  ⟨Nat.le_of_ble_eq_true rfl, Nat.le_of_ble_eq_true rfl⟩
theorem res_3__iyd__e (d : Byte) : Statement (.res_3__iyd__e d) :=
  ⟨Nat.le_of_ble_eq_true rfl, Nat.le_of_ble_eq_true rfl⟩
theorem res_3__iyd__h (d : Byte) : Statement (.res_3__iyd__h d) :=
  ⟨Nat.le_of_ble_eq_true rfl, Nat.le_of_ble_eq_true rfl⟩
theorem res_3__iyd__l (d : Byte) : Statement (.res_3__iyd__l d) :=
  ⟨Nat.le_of_ble_eq_true rfl, Nat.le_of_ble_eq_true rfl⟩
theorem res_3__iyd (d : Byte) : Statement (.res_3__iyd d) :=
  ⟨Nat.le_of_ble_eq_true rfl, Nat.le_of_ble_eq_true rfl⟩
theorem res_3__iyd__a (d : Byte) : Statement (.res_3__iyd__a d) :=
  ⟨Nat.le_of_ble_eq_true rfl, Nat.le_of_ble_eq_true rfl⟩
theorem res_4__iyd__b (d : Byte) : Statement (.res_4__iyd__b d) :=
  ⟨Nat.le_of_ble_eq_true rfl, Nat.le_of_ble_eq_true rfl⟩
theorem res_4__iyd__c (d : Byte) : Statement (.res_4__iyd__c d) :=
  ⟨Nat.le_of_ble_eq_true rfl, Nat.le_of_ble_eq_true rfl⟩
theorem res_4__iyd__d (d : Byte) : Statement (.res_4__iyd__d d) :=
  ⟨Nat.le_of_ble_eq_true rfl, Nat.le_of_ble_eq_true rfl⟩
theorem res_4__iyd__e (d : Byte) : Statement (.res_4__iyd__e d) :=
  ⟨Nat.le_of_ble_eq_true rfl, Nat.le_of_ble_eq_true rfl⟩
theorem res_4__iyd__h (d : Byte) : Statement (.res_4__iyd__h d) :=
  ⟨Nat.le_of_ble_eq_true rfl, Nat.le_of_ble_eq_true rfl⟩
theorem res_4__iyd__l (d : Byte) : Statement (.res_4__iyd__l d) :=
  ⟨Nat.le_of_ble_eq_true rfl, Nat.le_of_ble_eq_true rfl⟩
theorem res_4__iyd (d : Byte) : Statement (.res_4__iyd d) :=
  ⟨Nat.le_of_ble_eq_true rfl, Nat.le_of_ble_eq_true rfl⟩
theorem res_4__iyd__a (d : Byte) : Statement (.res_4__iyd__a d) :=
  ⟨Nat.le_of_ble_eq_true rfl, Nat.le_of_ble_eq_true rfl⟩
theorem res_5__iyd__b (d : Byte) : Statement (.res_5__iyd__b d) :=
  ⟨Nat.le_of_ble_eq_true rfl, Nat.le_of_ble_eq_true rfl⟩
theorem res_5__iyd__c (d : Byte) : Statement (.res_5__iyd__c d) :=
  ⟨Nat.le_of_ble_eq_true rfl, Nat.le_of_ble_eq_true rfl⟩
theorem res_5__iyd__d (d : Byte) : Statement (.res_5__iyd__d d) :=
  ⟨Nat.le_of_ble_eq_true rfl, Nat.le_of_ble_eq_true rfl⟩
theorem res_5__iyd__e (d : Byte) : Statement (.res_5__iyd__e d) :=
  ⟨Nat.le_of_ble_eq_true rfl, Nat.le_of_ble_eq_true rfl⟩
theorem res_5__iyd__h (d : Byte) : Statement (.res_5__iyd__h d) :=
  ⟨Nat.le_of_ble_eq_true rfl, Nat.le_of_ble_eq_true rfl⟩
theorem res_5__iyd__l (d : Byte) : Statement (.res_5__iyd__l d) :=
  ⟨Nat.le_of_ble_eq_true rfl, Nat.le_of_ble_eq_true rfl⟩
theorem res_5__iyd (d : Byte) : Statement (.res_5__iyd d) :=
  ⟨Nat.le_of_ble_eq_true rfl, Nat.le_of_ble_eq_true rfl⟩
theorem res_5__iyd__a (d : Byte) : Statement (.res_5__iyd__a d) :=
  ⟨Nat.le_of_ble_eq_true rfl, Nat.le_of_ble_eq_true rfl⟩
theorem res_6__iyd__b (d : Byte) : Statement (.res_6__iyd__b d) :=
  ⟨Nat.le_of_ble_eq_true rfl, Nat.le_of_ble_eq_true rfl⟩
theorem res_6__iyd__c (d : Byte) : Statement (.res_6__iyd__c d) :=
  ⟨Nat.le_of_ble_eq_true rfl, Nat.le_of_ble_eq_true rfl⟩
theorem res_6__iyd__d (d : Byte) : Statement (.res_6__iyd__d d) :=
  ⟨Nat.le_of_ble_eq_true rfl, Nat.le_of_ble_eq_true rfl⟩
theorem res_6__iyd__e (d : Byte) : Statement (.res_6__iyd__e d) :=
  ⟨Nat.le_of_ble_eq_true rfl, Nat.le_of_ble_eq_true rfl⟩
theorem res_6__iyd__h (d : Byte) : Statement (.res_6__iyd__h d) :=
  ⟨Nat.le_of_ble_eq_true rfl, Nat.le_of_ble_eq_true rfl⟩
theorem res_6__iyd__l (d : Byte) : Statement (.res_6__iyd__l d) :=
  ⟨Nat.le_of_ble_eq_true rfl, Nat.le_of_ble_eq_true rfl⟩
theorem res_6__iyd (d : Byte) : Statement (.res_6__iyd d) :=
  ⟨Nat.le_of_ble_eq_true rfl, Nat.le_of_ble_eq_true rfl⟩
theorem res_6__iyd__a (d : Byte) : Statement (.res_6__iyd__a d) :=
  ⟨Nat.le_of_ble_eq_true rfl, Nat.le_of_ble_eq_true rfl⟩
theorem res_7__iyd__b (d : Byte) : Statement (.res_7__iyd__b d) :=
  ⟨Nat.le_of_ble_eq_true rfl, Nat.le_of_ble_eq_true rfl⟩
theorem res_7__iyd__c (d : Byte) : Statement (.res_7__iyd__c d) :=
  ⟨Nat.le_of_ble_eq_true rfl, Nat.le_of_ble_eq_true rfl⟩
theorem res_7__iyd__d (d : Byte) : Statement (.res_7__iyd__d d) :=
  ⟨Nat.le_of_ble_eq_true rfl, Nat.le_of_ble_eq_true rfl⟩
theorem res_7__iyd__e (d : Byte) : Statement (.res_7__iyd__e d) :=
  ⟨Nat.le_of_ble_eq_true rfl, Nat.le_of_ble_eq_true rfl⟩
theorem res_7__iyd__h (d : Byte) : Statement (.res_7__iyd__h d) :=
  ⟨Nat.le_of_ble_eq_true rfl, Nat.le_of_ble_eq_true rfl⟩
theorem res_7__iyd__l (d : Byte) : Statement (.res_7__iyd__l d) :=
  ⟨Nat.le_of_ble_eq_true rfl, Nat.le_of_ble_eq_true rfl⟩
theorem res_7__iyd (d : Byte) : Statement (.res_7__iyd d) :=
  ⟨Nat.le_of_ble_eq_true rfl, Nat.le_of_ble_eq_true rfl⟩
theorem res_7__iyd__a (d : Byte) : Statement (.res_7__iyd__a d) :=
  ⟨Nat.le_of_ble_eq_true rfl, Nat.le_of_ble_eq_true rfl⟩
theorem set_0__iyd__b (d : Byte) : Statement (.set_0__iyd__b d) :=
  ⟨Nat.le_of_ble_eq_true rfl, Nat.le_of_ble_eq_true rfl⟩
theorem set_0__iyd__c (d : Byte) : Statement (.set_0__iyd__c d) :=
  ⟨Nat.le_of_ble_eq_true rfl, Nat.le_of_ble_eq_true rfl⟩
theorem set_0__iyd__d (d : Byte) : Statement (.set_0__iyd__d d) :=
  ⟨Nat.le_of_ble_eq_true rfl, Nat.le_of_ble_eq_true rfl⟩
theorem set_0__iyd__e (d : Byte) : Statement (.set_0__iyd__e d) :=
  ⟨Nat.le_of_ble_eq_true rfl, Nat.le_of_ble_eq_true rfl⟩
theorem set_0__iyd__h (d : Byte) : Statement (.set_0__iyd__h d) :=
  ⟨Nat.le_of_ble_eq_true rfl, Nat.le_of_ble_eq_true rfl⟩
theorem set_0__iyd__l (d : Byte) : Statement (.set_0__iyd__l d) :=
  ⟨Nat.le_of_ble_eq_true rfl, Nat.le_of_ble_eq_true rfl⟩
theorem set_0__iyd (d : Byte) : Statement (.set_0__iyd d) :=
  ⟨Nat.le_of_ble_eq_true rfl, Nat.le_of_ble_eq_true rfl⟩
theorem set_0__iyd__a (d : Byte) : Statement (.set_0__iyd__a d) :=
  ⟨Nat.le_of_ble_eq_true rfl, Nat.le_of_ble_eq_true rfl⟩
theorem set_1__iyd__b (d : Byte) : Statement (.set_1__iyd__b d) :=
  ⟨Nat.le_of_ble_eq_true rfl, Nat.le_of_ble_eq_true rfl⟩
theorem set_1__iyd__c (d : Byte) : Statement (.set_1__iyd__c d) :=
  ⟨Nat.le_of_ble_eq_true rfl, Nat.le_of_ble_eq_true rfl⟩
theorem set_1__iyd__d (d : Byte) : Statement (.set_1__iyd__d d) :=
  ⟨Nat.le_of_ble_eq_true rfl, Nat.le_of_ble_eq_true rfl⟩
theorem set_1__iyd__e (d : Byte) : Statement (.set_1__iyd__e d) :=
  ⟨Nat.le_of_ble_eq_true rfl, Nat.le_of_ble_eq_true rfl⟩
theorem set_1__iyd__h (d : Byte) : Statement (.set_1__iyd__h d) :=
  ⟨Nat.le_of_ble_eq_true rfl, Nat.le_of_ble_eq_true rfl⟩
theorem set_1__iyd__l (d : Byte) : Statement (.set_1__iyd__l d) :=
  ⟨Nat.le_of_ble_eq_true rfl, Nat.le_of_ble_eq_true rfl⟩
theorem set_1__iyd (d : Byte) : Statement (.set_1__iyd d) :=
  ⟨Nat.le_of_ble_eq_true rfl, Nat.le_of_ble_eq_true rfl⟩
theorem set_1__iyd__a (d : Byte) : Statement (.set_1__iyd__a d) :=
  ⟨Nat.le_of_ble_eq_true rfl, Nat.le_of_ble_eq_true rfl⟩
theorem set_2__iyd__b (d : Byte) : Statement (.set_2__iyd__b d) :=
  ⟨Nat.le_of_ble_eq_true rfl, Nat.le_of_ble_eq_true rfl⟩
theorem set_2__iyd__c (d : Byte) : Statement (.set_2__iyd__c d) :=
  ⟨Nat.le_of_ble_eq_true rfl, Nat.le_of_ble_eq_true rfl⟩
theorem set_2__iyd__d (d : Byte) : Statement (.set_2__iyd__d d) :=
  ⟨Nat.le_of_ble_eq_true rfl, Nat.le_of_ble_eq_true rfl⟩
theorem set_2__iyd__e (d : Byte) : Statement (.set_2__iyd__e d) :=
  ⟨Nat.le_of_ble_eq_true rfl, Nat.le_of_ble_eq_true rfl⟩
theorem set_2__iyd__h (d : Byte) : Statement (.set_2__iyd__h d) :=
  ⟨Nat.le_of_ble_eq_true rfl, Nat.le_of_ble_eq_true rfl⟩
theorem set_2__iyd__l (d : Byte) : Statement (.set_2__iyd__l d) :=
  ⟨Nat.le_of_ble_eq_true rfl, Nat.le_of_ble_eq_true rfl⟩
theorem set_2__iyd (d : Byte) : Statement (.set_2__iyd d) :=
  ⟨Nat.le_of_ble_eq_true rfl, Nat.le_of_ble_eq_true rfl⟩
theorem set_2__iyd__a (d : Byte) : Statement (.set_2__iyd__a d) :=
  ⟨Nat.le_of_ble_eq_true rfl, Nat.le_of_ble_eq_true rfl⟩
theorem set_3__iyd__b (d : Byte) : Statement (.set_3__iyd__b d) :=
  ⟨Nat.le_of_ble_eq_true rfl, Nat.le_of_ble_eq_true rfl⟩
theorem set_3__iyd__c (d : Byte) : Statement (.set_3__iyd__c d) :=
  ⟨Nat.le_of_ble_eq_true rfl, Nat.le_of_ble_eq_true rfl⟩
theorem set_3__iyd__d (d : Byte) : Statement (.set_3__iyd__d d) :=
  ⟨Nat.le_of_ble_eq_true rfl, Nat.le_of_ble_eq_true rfl⟩
theorem set_3__iyd__e (d : Byte) : Statement (.set_3__iyd__e d) :=
  ⟨Nat.le_of_ble_eq_true rfl, Nat.le_of_ble_eq_true rfl⟩
theorem set_3__iyd__h (d : Byte) : Statement (.set_3__iyd__h d) :=
  ⟨Nat.le_of_ble_eq_true rfl, Nat.le_of_ble_eq_true rfl⟩
theorem set_3__iyd__l (d : Byte) : Statement (.set_3__iyd__l d) :=
  ⟨Nat.le_of_ble_eq_true rfl, Nat.le_of_ble_eq_true rfl⟩
theorem set_3__iyd (d : Byte) : Statement (.set_3__iyd d) :=
  ⟨Nat.le_of_ble_eq_true rfl, Nat.le_of_ble_eq_true rfl⟩
theorem set_3__iyd__a (d : Byte) : Statement (.set_3__iyd__a d) :=
  ⟨Nat.le_of_ble_eq_true rfl, Nat.le_of_ble_eq_true rfl⟩
theorem set_4__iyd__b (d : Byte) : Statement (.set_4__iyd__b d) :=
  ⟨Nat.le_of_ble_eq_true rfl, Nat.le_of_ble_eq_true rfl⟩
theorem set_4__iyd__c (d : Byte) : Statement (.set_4__iyd__c d) :=
  ⟨Nat.le_of_ble_eq_true rfl, Nat.le_of_ble_eq_true rfl⟩
theorem set_4__iyd__d (d : Byte) : Statement (.set_4__iyd__d d) :=
  ⟨Nat.le_of_ble_eq_true rfl, Nat.le_of_ble_eq_true rfl⟩
theorem set_4__iyd__e (d : Byte) : Statement (.set_4__iyd__e d) :=
  ⟨Nat.le_of_ble_eq_true rfl, Nat.le_of_ble_eq_true rfl⟩
theorem set_4__iyd__h (d : Byte) : Statement (.set_4__iyd__h d) :=
  ⟨Nat.le_of_ble_eq_true rfl, Nat.le_of_ble_eq_true rfl⟩
theorem set_4__iyd__l (d : Byte) : Statement (.set_4__iyd__l d) :=
  ⟨Nat.le_of_ble_eq_true rfl, Nat.le_of_ble_eq_true rfl⟩
theorem set_4__iyd (d : Byte) : Statement (.set_4__iyd d) :=
  ⟨Nat.le_of_ble_eq_true rfl, Nat.le_of_ble_eq_true rfl⟩
theorem set_4__iyd__a (d : Byte) : Statement (.set_4__iyd__a d) :=
  ⟨Nat.le_of_ble_eq_true rfl, Nat.le_of_ble_eq_true rfl⟩
theorem set_5__iyd__b (d : Byte) : Statement (.set_5__iyd__b d) :=
  ⟨Nat.le_of_ble_eq_true rfl, Nat.le_of_ble_eq_true rfl⟩
theorem set_5__iyd__c (d : Byte) : Statement (.set_5__iyd__c d) :=
  ⟨Nat.le_of_ble_eq_true rfl, Nat.le_of_ble_eq_true rfl⟩
theorem set_5__iyd__d (d : Byte) : Statement (.set_5__iyd__d d) :=
  ⟨Nat.le_of_ble_eq_true rfl, Nat.le_of_ble_eq_true rfl⟩
theorem set_5__iyd__e (d : Byte) : Statement (.set_5__iyd__e d) :=
  ⟨Nat.le_of_ble_eq_true rfl, Nat.le_of_ble_eq_true rfl⟩
theorem set_5__iyd__h (d : Byte) : Statement (.set_5__iyd__h d) :=
  ⟨Nat.le_of_ble_eq_true rfl, Nat.le_of_ble_eq_true rfl⟩
theorem set_5__iyd__l (d : Byte) : Statement (.set_5__iyd__l d) :=
  ⟨Nat.le_of_ble_eq_true rfl, Nat.le_of_ble_eq_true rfl⟩
theorem set_5__iyd (d : Byte) : Statement (.set_5__iyd d) :=
  ⟨Nat.le_of_ble_eq_true rfl, Nat.le_of_ble_eq_true rfl⟩
theorem set_5__iyd__a (d : Byte) : Statement (.set_5__iyd__a d) :=
  ⟨Nat.le_of_ble_eq_true rfl, Nat.le_of_ble_eq_true rfl⟩
theorem set_6__iyd__b (d : Byte) : Statement (.set_6__iyd__b d) :=
  ⟨Nat.le_of_ble_eq_true rfl, Nat.le_of_ble_eq_true rfl⟩
theorem set_6__iyd__c (d : Byte) : Statement (.set_6__iyd__c d) :=
  ⟨Nat.le_of_ble_eq_true rfl, Nat.le_of_ble_eq_true rfl⟩
theorem set_6__iyd__d (d : Byte) : Statement (.set_6__iyd__d d) :=
  ⟨Nat.le_of_ble_eq_true rfl, Nat.le_of_ble_eq_true rfl⟩
theorem set_6__iyd__e (d : Byte) : Statement (.set_6__iyd__e d) :=
  ⟨Nat.le_of_ble_eq_true rfl, Nat.le_of_ble_eq_true rfl⟩
theorem set_6__iyd__h (d : Byte) : Statement (.set_6__iyd__h d) :=
  ⟨Nat.le_of_ble_eq_true rfl, Nat.le_of_ble_eq_true rfl⟩
theorem set_6__iyd__l (d : Byte) : Statement (.set_6__iyd__l d) :=
  ⟨Nat.le_of_ble_eq_true rfl, Nat.le_of_ble_eq_true rfl⟩
theorem set_6__iyd (d : Byte) : Statement (.set_6__iyd d) :=
  ⟨Nat.le_of_ble_eq_true rfl, Nat.le_of_ble_eq_true rfl⟩
theorem set_6__iyd__a (d : Byte) : Statement (.set_6__iyd__a d) :=
  ⟨Nat.le_of_ble_eq_true rfl, Nat.le_of_ble_eq_true rfl⟩
theorem set_7__iyd__b (d : Byte) : Statement (.set_7__iyd__b d) :=
  ⟨Nat.le_of_ble_eq_true rfl, Nat.le_of_ble_eq_true rfl⟩
theorem set_7__iyd__c (d : Byte) : Statement (.set_7__iyd__c d) :=
  ⟨Nat.le_of_ble_eq_true rfl, Nat.le_of_ble_eq_true rfl⟩
theorem set_7__iyd__d (d : Byte) : Statement (.set_7__iyd__d d) :=
  ⟨Nat.le_of_ble_eq_true rfl, Nat.le_of_ble_eq_true rfl⟩
theorem set_7__iyd__e (d : Byte) : Statement (.set_7__iyd__e d) :=
  ⟨Nat.le_of_ble_eq_true rfl, Nat.le_of_ble_eq_true rfl⟩
theorem set_7__iyd__h (d : Byte) : Statement (.set_7__iyd__h d) :=
  ⟨Nat.le_of_ble_eq_true rfl, Nat.le_of_ble_eq_true rfl⟩
theorem set_7__iyd__l (d : Byte) : Statement (.set_7__iyd__l d) :=
  ⟨Nat.le_of_ble_eq_true rfl, Nat.le_of_ble_eq_true rfl⟩
theorem set_7__iyd (d : Byte) : Statement (.set_7__iyd d) :=
  ⟨Nat.le_of_ble_eq_true rfl, Nat.le_of_ble_eq_true rfl⟩
theorem set_7__iyd__a (d : Byte) : Statement (.set_7__iyd__a d) :=
  ⟨Nat.le_of_ble_eq_true rfl, Nat.le_of_ble_eq_true rfl⟩

end Sys2Proof.Laws.Lengths
end

