-- ==== Sys2Proof/Laws/Run.lean ====
section
/-! SUPPORT. What the running of an instruction can do, said once: it fetches bytes and runs one
instruction that goes no further with the dispatch (`RunsOne`), or it ends in one of the two faults
(`runInstr_does`). The dispatch loop likewise (`loop_does`). -/

namespace Sys2Proof.Machine

variable {s t u : State} {r : Res} {i : Instr}

/-! ## A failure stays what it is -/

/-- What is on record of a failure stays on record. -/
theorem Frame.stop_eq {w : List Elem} {m : List Word} {o : List (Byte × Byte)} (h : Frame s t w m o)
    (hr : s.Recorded) (hs : s.portFailed = true) : t.stop = s.stop := by
  unfold State.stop; rw [hr.failure hs (h.failed hs).2]

theorem frame_supersede (s : State) : Frame s s.supersede [] [] [] := by
  unfold State.supersede
  split
  · exact Frame.refl s
  · exact frame_tick _ _
  · exact frame_tick _ _

/-! ## The end of the loop is the end of a step -/

theorem stop_ne_next : s.stop ≠ .next t := by unfold State.stop; nofun

theorem finish_cases (s : State) :
    finish s = s.stop ∧ s.portFailed = true ∨ finish s = .next s ∧ s.portFailed = false := by
  unfold finish
  split
  · rename_i h; exact .inl ⟨rfl, h⟩
  · rename_i h; exact .inr ⟨rfl, by simpa using h⟩

theorem failAfter_of_failed (h : s.portFailed = true) : s.failAfter ≠ none := fun hn => by
  simp [State.portFailed, hn] at h

theorem leave_eq (s : State) :
    leave s = if s.portFailed then s.stop else .next (s.setPfx .none) := by
  unfold leave
  rcases finish_cases s with ⟨h, hf⟩ | ⟨h, hf⟩ <;> rw [h, hf] <;> rfl

/-- An instruction that gives a state ends a step as the loop ends with that state. -/
theorem gives_leave (h : onward i = false) (hr : t.Recorded) (g : Gives i t u) :
    (if t.portFailed then t.stop else endInstr (exec i t)) = leave u := by
  obtain ⟨v, cyc, made, m, o, d, hx⟩ := exec_answers i t h
  by_cases ht : t.portFailed = true
  · have hv := (d.frame.failed ht).1
    have hs : v.stop = t.stop := d.frame.stop_eq hr ht
    rw [if_pos ht, ← hs, leave_eq]
    rcases g with g | g <;> rcases hx with ⟨hx, -⟩ | hx <;> rw [g] at hx
    · cases hx; rw [if_pos hv]
    · unfold finish at hx; rw [if_pos hv] at hx; exact absurd hx.symm stop_ne_next
    · rcases finish_cases u with ⟨hu, -⟩ | ⟨hu, hf⟩ <;> rw [hu] at hx
      · exact absurd hx stop_ne_next
      · cases hx; rw [if_pos hv]
    · rcases finish_cases u with ⟨hu, hf⟩ | ⟨hu, hf⟩ <;> rw [hu] at hx <;> unfold finish at hx <;>
        rw [if_pos hv] at hx
      · rw [if_pos hf]; exact hx.symm
      · exact absurd hx.symm stop_ne_next
  · rw [if_neg ht]
    rcases g with g | g
    · have hu : u.portFailed = false := by
        rw [Bool.not_eq_true] at ht
        rcases hx with ⟨hx, hm⟩ | hx <;> rw [g] at hx
        · cases hx
          rw [← ht]
          exact portFailed_congr d.frame.failAfter (by rw [d.calls, hm]; rfl)
        · rcases finish_cases v with ⟨hv, -⟩ | ⟨hv, hf⟩ <;> rw [hv] at hx
          · exact absurd hx.symm stop_ne_next
          · cases hx; exact hf
      rw [g, leave_eq, hu]; rfl
    · rw [g]; rfl

/-! ## No entry but a leading byte's goes on with the dispatch -/

theorem onward_base : ∀ op, leads op = false → ∀ a b,
    onward (entryWith baseTable op a b).2 = false := by
  refine forall_byte fun k hk => ?_
  interval_cases k
  all_goals intro h a b; first | exact absurd h (by decide) | rfl

theorem onward_dd : ∀ op, leads op = false → ∀ a b,
    onward (entryWith ddTable op a b).2 = false := by
  refine forall_byte fun k hk => ?_
  interval_cases k
  all_goals intro h a b; first | exact absurd h (by decide) | rfl

theorem onward_fd : ∀ op, leads op = false → ∀ a b,
    onward (entryWith fdTable op a b).2 = false := by
  refine forall_byte fun k hk => ?_
  interval_cases k
  all_goals intro h a b; first | exact absurd h (by decide) | rfl

theorem onward_cb : ∀ op a b, onward (entryWith cbTable op a b).2 = false := by
  refine forall_byte fun k hk => ?_
  interval_cases k
  all_goals intro a b; rfl

theorem onward_ed : ∀ op a b, onward (entryWith edTable op a b).2 = false := by
  refine forall_byte fun k hk => ?_
  interval_cases k
  all_goals intro a b; rfl

theorem onward_ddcb : ∀ op a b, onward (entryWith ddcbTable op a b).2 = false := by
  refine forall_byte fun k hk => ?_
  interval_cases k
  all_goals intro a b; rfl

theorem onward_fdcb : ∀ op a b, onward (entryWith fdcbTable op a b).2 = false := by
  refine forall_byte fun k hk => ?_
  interval_cases k
  all_goals intro a b; rfl

/-! ## One instruction -/

/-- The outcome is that of one instruction that goes no further with the dispatch, in a state in
which only bytes were fetched since `s`. -/
def RunsOne (s : State) (r : Res) : Prop :=
  ∃ (i : Instr) (t : State), onward i = false ∧ Frame s t [.pc, .r, .pfx, .bus] [] []
    ∧ (if t.portFailed then t.stop else endInstr (exec i t)) = r

/-- More fetching before it. -/
theorem RunsOne.after (hF : Frame s t [.pc, .r, .pfx, .bus] [] []) (h : RunsOne t r) :
    RunsOne s r := by
  obtain ⟨i, u, h1, h2, h3⟩ := h
  exact ⟨i, u, h1, (hF.trans h2).mono (by simp) (by simp), h3⟩

theorem RunsOne.failed (h : RunsOne s r) (hr : s.Recorded) (hf : s.portFailed = true) :
    r = s.stop := by
  obtain ⟨i, t, h1, h2, h3⟩ := h
  rw [if_pos (h2.failed hf).1, h2.stop_eq hr hf] at h3; exact h3.symm

theorem RunsOne.endInstr_eq (h : RunsOne s r) : endInstr r = r := by
  obtain ⟨i, t, h1, h2, h3⟩ := h
  rw [← h3]
  split
  · rfl
  · cases exec i t <;> rfl

/-- It completes, or a port failed. -/
theorem RunsOne.cases (h : RunsOne s r) (hr : s.Recorded) :
    (∃ t, r = .next t) ∨ ∃ u : State, r = u.stop ∧ u.portFailed = true ∧ u.Recorded
      ∧ u.failAfter = s.failAfter := by
  obtain ⟨i, t, h1, h2, h3⟩ := h
  obtain ⟨u, cyc, made, m, o, d, hx⟩ := exec_answers i t h1
  rw [← h3]
  split
  · rename_i hf
    exact .inr ⟨t, rfl, hf, h2.recorded hr, h2.failAfter⟩
  · rcases hx with ⟨hx, -⟩ | hx
    · rw [hx]; exact .inl ⟨_, rfl⟩
    · rw [hx]
      rcases finish_cases u with ⟨hu, hf⟩ | ⟨hu, -⟩ <;> rw [hu]
      · exact .inr ⟨u, rfl, hf, d.frame.recorded (h2.recorded hr), d.frame.failAfter.trans h2.failAfter⟩
      · exact .inl ⟨_, rfl⟩

theorem frame_fetchEntry (s : State) (n : Nat) (x : IndexByte) :
    Frame s (State.fetchBytes n (s.fetchOpcode.setPfx x)) [.pc, .r, .pfx, .bus] [] [] :=
  (((frame_fetchOpcode s).trans (frame_setPfx _ _)).trans (frame_fetchBytes _ _)).mono
    (by simp) (by simp)

/-- A base entry, or an entry of the DD or FD table. -/
theorem runsOne_main (s : State) (hr : s.Recorded) (hl : leads (s.peek s.pc) = false) :
    RunsOne s (leave (runMain (s.peek s.pc) s.fetchOpcode)) := by
  have hs : s.fetchOpcode = s.fetchOpcode.setPfx s.pfx := rfl
  rw [hs]
  have f := frame_fetchEntry s
  cases hp : s.pfx with
  | none =>
    exact ⟨_, State.fetchBytes _ (s.fetchOpcode.setPfx .none), onward_base _ hl _ _, f _ _,
      gives_leave (onward_base _ hl _ _) ((f _ _).recorded hr) (base_entry _ hl s.fetchOpcode)⟩
  | dd =>
    exact ⟨_, State.fetchBytes _ (s.fetchOpcode.setPfx .dd), onward_dd _ hl _ _, f _ _,
      gives_leave (onward_dd _ hl _ _) ((f _ _).recorded hr) (dd_entry _ hl s.fetchOpcode)⟩
  | fd =>
    exact ⟨_, State.fetchBytes _ (s.fetchOpcode.setPfx .fd), onward_fd _ hl _ _, f _ _,
      gives_leave (onward_fd _ hl _ _) ((f _ _).recorded hr) (fd_entry _ hl s.fetchOpcode)⟩

/-- An entry of the ED table. -/
theorem runsOne_ed (s : State) (hr : s.Recorded) : RunsOne s (afterED s) := by
  unfold afterED
  have f (n : Nat) : Frame s
      (State.fetchBytes n (s.supersede.setPfx .none).fetchOpcode)
      [.pc, .r, .pfx, .bus] [] [] :=
    ((((frame_supersede s).trans (frame_setPfx _ _)).trans (frame_fetchOpcode _)).trans
      (frame_fetchBytes _ _)).mono (by simp) (by simp)
  exact ⟨_, _, onward_ed _ _ _, f _, gives_leave (onward_ed _ _ _) ((f _).recorded hr)
    (ed_entry _ (s.supersede.setPfx .none).fetchOpcode)⟩

/-- An entry of the CB table. -/
theorem runsOne_cb (s : State) (hr : s.Recorded) : RunsOne s (afterCB s) := by
  unfold afterCB
  have f (n : Nat) : Frame s (State.fetchBytes n s.fetchOpcode) [.pc, .r, .pfx, .bus] [] [] :=
    ((frame_fetchOpcode _).trans (frame_fetchBytes _ _)).mono (by simp) (by simp)
  exact ⟨_, _, onward_cb _ _ _, f _, gives_leave (onward_cb _ _ _) ((f _).recorded hr)
    (cb_entry _ s.fetchOpcode)⟩

/-- An entry of the DDCB or the FDCB table. -/
theorem runsOne_xcb (s : State) (hr : s.Recorded) (h : s.pfx ≠ .none) : RunsOne s (afterXCB s) := by
  unfold afterXCB
  have hs : s.fetchByte.fetchByte = s.fetchByte.fetchByte.setPfx s.pfx := rfl
  have f (x : IndexByte) :
      Frame s (s.fetchByte.fetchByte.setPfx x) [.pc, .r, .pfx, .bus] [] [] :=
    (((frame_fetchByte s).trans (frame_fetchByte _)).trans (frame_setPfx _ _)).mono
      (by simp) (by simp)
  simp only
  rw [hs]
  cases hp : s.pfx with
  | none => exact absurd hp h
  | dd =>
    exact ⟨_, _, onward_ddcb _ _ _, f _, gives_leave (onward_ddcb _ _ _) ((f _).recorded hr)
      (ddcb_entry _ _ s.fetchByte.fetchByte)⟩
  | fd =>
    exact ⟨_, _, onward_fdcb _ _ _, f _, gives_leave (onward_fdcb _ _ _) ((f _).recorded hr)
      (fdcb_entry _ _ s.fetchByte.fetchByte)⟩

/-! ## The loop -/

/-- The end of a chain that is followed no further. -/
def chainEnd (s : State) : Res := if s.portFailed then s.stop else .fault .endlessIndexChain

/-- The loop ends with one instruction, or at the end of a chain, where only bytes were fetched. -/
theorem loop_does (n : Nat) (s : State) (hr : s.Recorded) :
    RunsOne s (dispatchLoop n s)
      ∨ ∃ t, Frame s t [.pc, .r, .pfx, .bus] [] [] ∧ dispatchLoop n s = chainEnd t := by
  induction n generalizing s with
  | zero => exact .inr ⟨s, (Frame.refl s).mono (by simp) (by simp), rfl⟩
  | succ n ih =>
    have lift (s' : State) (hF : Frame s s' [.pc, .r, .pfx, .bus] [] [])
        (he : dispatchLoop (n + 1) s = dispatchLoop n s') :
        RunsOne s (dispatchLoop (n + 1) s)
          ∨ ∃ t, Frame s t [.pc, .r, .pfx, .bus] [] [] ∧ dispatchLoop (n + 1) s = chainEnd t := by
      rw [he]
      rcases ih s' (hF.recorded hr) with h | ⟨t, h2, h3⟩
      · exact .inl (h.after hF)
      · exact .inr ⟨t, (hF.trans h2).mono (by simp) (by simp), h3⟩
    have hf : Frame s s.fetchOpcode [.pc, .r, .pfx, .bus] [] [] :=
      (frame_fetchOpcode s).mono (by simp) (by simp)
    have hr1 := hf.recorded hr
    by_cases h1 : s.peek s.pc = 0xDD#8
    · apply lift (s.fetchOpcode.supersede.setPfx .dd)
      · exact (((frame_fetchOpcode s).trans (frame_supersede _)).trans (frame_setPfx _ _)).mono
          (by simp) (by simp)
      · simp only [dispatchLoop]; rw [if_pos h1]
    by_cases h2 : s.peek s.pc = 0xFD#8
    · apply lift (s.fetchOpcode.supersede.setPfx .fd)
      · exact (((frame_fetchOpcode s).trans (frame_supersede _)).trans (frame_setPfx _ _)).mono
          (by simp) (by simp)
      · simp only [dispatchLoop]; rw [if_neg h1, if_pos h2]
    left
    by_cases h3 : s.peek s.pc = 0xED#8
    · simp only [dispatchLoop]; rw [if_neg h1, if_neg h2, if_pos h3]
      exact (runsOne_ed _ hr1).after hf
    by_cases h4 : s.peek s.pc = 0xCB#8
    · simp only [dispatchLoop]; rw [if_neg h1, if_neg h2, if_neg h3, if_pos h4]
      split
      · exact (runsOne_cb _ hr1).after hf
      · rename_i hh; exact (runsOne_xcb _ hr1 (by rw [hh]; nofun)).after hf
      · rename_i hh; exact (runsOne_xcb _ hr1 (by rw [hh]; nofun)).after hf
    · simp only [dispatchLoop]; rw [if_neg h1, if_neg h2, if_neg h3, if_neg h4]
      exact runsOne_main s hr (by simp [leads, h1, h2, h3, h4])

theorem loop_failed (n : Nat) (s : State) (hr : s.Recorded) (hf : s.portFailed = true) :
    dispatchLoop n s = s.stop := by
  rcases loop_does n s hr with h | ⟨t, h2, h3⟩
  · exact h.failed hr hf
  · rw [h3, chainEnd, if_pos (h2.failed hf).1, h2.stop_eq hr hf]

theorem loop_end (n : Nat) (s : State) (hr : s.Recorded) :
    endInstr (dispatchLoop n s) = dispatchLoop n s := by
  rcases loop_does n s hr with h | ⟨t, h2, h3⟩
  · exact h.endInstr_eq
  · rw [h3, chainEnd]; split <;> rfl

/-- The meaning of a row that goes on with the dispatch: one instruction, or the loop. -/
theorem onward_does (i : Instr) (s : State) (hr : s.Recorded) (h : onward i = true) :
    ∃ t, Frame s t [.pc, .r, .pfx, .bus] [] []
      ∧ (RunsOne t (exec i s) ∨ ∃ n, exec i s = dispatchLoop n t) := by
  have p (x : IndexByte) : Frame s (s.setPfx x) [.pc, .r, .pfx, .bus] [] [] :=
    (frame_setPfx s x).mono (by simp) (by simp)
  have q (x y : IndexByte) : Frame s ((s.setPfx x).supersede.setPfx y)
      [.pc, .r, .pfx, .bus] [] [] :=
    (((p x).trans (frame_supersede _)).trans (frame_setPfx _ _)).mono (by simp) (by simp)
  have r (x : IndexByte) := (p x).recorded hr
  unfold onward at h
  split at h
  · exact ⟨s, (Frame.refl s).mono (by simp) (by simp), .inl (runsOne_cb s hr)⟩
  · exact ⟨_, p _, .inl (runsOne_ed _ (r _))⟩
  · exact ⟨_, p .dd, .inr ⟨_, rfl⟩⟩
  · exact ⟨_, p .fd, .inr ⟨_, rfl⟩⟩
  · exact ⟨_, p .dd, .inl (runsOne_xcb _ (r _) (by nofun))⟩
  · exact ⟨_, p .fd, .inl (runsOne_xcb _ (r _) (by nofun))⟩
  · exact ⟨_, q _ .dd, .inr ⟨_, rfl⟩⟩
  · exact ⟨_, q _ .fd, .inr ⟨_, rfl⟩⟩
  · exact ⟨_, p _, .inl (runsOne_ed _ (r _))⟩
  · cases h

/-- The running of an instruction is the running of one that goes no further with the dispatch, or
it ends at the end of a chain. -/
theorem runInstr_does (s : State) (hr : s.Recorded) :
    RunsOne s (runInstr s)
      ∨ ∃ t, Frame s t [.pc, .r, .pfx, .bus] [] [] ∧ runInstr s = chainEnd t := by
  have hF := frame_fetchInstr s (s.peek s.pc) (decodeAt s).1
  have hr0 := hF.recorded hr
  cases ho : onward (decodeAt s).2 with
  | false => exact .inl ⟨_, _, ho, hF, rfl⟩
  | true =>
    obtain ⟨t, h2, h3⟩ :=
      onward_does (decodeAt s).2 (s.fetchInstr (s.peek s.pc) (decodeAt s).1) hr0 ho
    have hr1 := h2.recorded hr0
    have he : runInstr s = exec (decodeAt s).2 (s.fetchInstr (s.peek s.pc) (decodeAt s).1) := by
      unfold runInstr
      simp only
      split
      · rename_i hf
        have hs := h2.stop_eq hr0 hf
        rcases h3 with h3 | ⟨n, h3⟩
        · rw [h3.failed hr1 (h2.failed hf).1, hs]
        · rw [h3, loop_failed n t hr1 (h2.failed hf).1, hs]
      · rcases h3 with h3 | ⟨n, h3⟩
        · exact h3.endInstr_eq
        · rw [h3]; exact loop_end n t hr1
    have hF' : Frame s t [.pc, .r, .pfx, .bus] [] [] := (hF.trans h2).mono (by simp) (by simp)
    rw [he]
    rcases h3 with h3 | ⟨n, h3⟩
    · exact .inl (h3.after hF')
    · rw [h3]
      rcases loop_does n t hr1 with h | ⟨v, g2, g3⟩
      · exact .inl (h.after hF')
      · exact .inr ⟨v, (hF'.trans g2).mono (by simp) (by simp), g3⟩

end Sys2Proof.Machine
end

