-- ==== Sys2Proof/Laws/Step.lean ====
section
/-! SUPPORT. The next state of a step: what an acceptance leaves (`accept_next`), what the running
of an instruction leaves (`RunsOne.next`, `runInstr_next`), and why a step faults (`step_fault`);
the running of an instruction whose length is known (`runInstr_eq`, `fetchInstr_plain`,
`fetchInstr_lead`); and one round of the dispatch loop for each kind of byte (`loop_dd` to
`loop_main`). -/

namespace Sys2Proof.Machine

variable {s t u v T : State}

/-! ## No port failed -/

theorem eq_of_finish_next (h : finish s = .next t) : t = s ∧ s.portFailed = false := by
  rcases finish_cases s with ⟨hs, -⟩ | ⟨hs, hf⟩ <;> rw [hs] at h
  · exact absurd h stop_ne_next
  · cases h; exact ⟨rfl, hf⟩

theorem calls_le {k : Nat} (h : v.portFailed = false) (hk : v.failAfter = some k) :
    v.calls.length ≤ k := by
  unfold State.portFailed at h
  simp only [hk] at h
  simpa using h

/-- No call has failed before a step makes its first. -/
theorem beginStep_unfailed (s : State) : s.beginStep.portFailed = false := by
  unfold State.portFailed State.beginStep
  cases h : s.failAfter <;> simp

theorem recorded_of_unfailed (h : s.portFailed = false) : s.Recorded := fun hf => by
  rw [h] at hf; cases hf

/-! ## An acceptance -/

/-- What every acceptance may write. -/
def acceptWrites : List Elem :=
  [.halted, .eiPending, .r, .iff1, .iff2, .nmiPending, .bus, .sp, .pc]

/-- A step that is an acceptance ends as `finish` of a state in which EI-pending is clear, or is
refused. -/
theorem accept_does (h : s.nmiPending = true ∨ s.nmiPending = false ∧ s.acceptsInt = true) :
    (∃ T, step s = finish T ∧ Frame s.beginStep T acceptWrites [s.sp - 1#16, s.sp - 2#16] []
        ∧ T.eiPending = false)
      ∨ step s = .refused .im0Unsupported := by
  have fn : Frame s.beginStep (({ s.beginStep with nmiPending := false } : State).beginAcceptance false)
      acceptWrites [] [] :=
    .ofElems rfl fun e he => by cases e <;> first | rfl | exact absurd (by decide) he
  have fi : Frame s.beginStep s.accepted acceptWrites [] [] :=
    .ofElems rfl fun e he => by cases e <;> first | rfl | exact absurd (by decide) he
  have entered {u : State} (f : Frame s.beginStep u acceptWrites [] []) (hsp : u.sp = s.sp)
      (w : Word) (n : Nat) : Frame s.beginStep ((u.enter w).tick n) acceptWrites
        [s.sp - 1#16, s.sp - 2#16] [] := by
    rw [← hsp]
    exact ((f.trans (frame_enter u w)).trans (frame_tick _ n)).mono (by simp [acceptWrites]) (by simp)
  rcases h with hn | ⟨hn, hi⟩
  · exact .inl ⟨_, step_of_nmi s hn, entered fn rfl _ _, by rw [State.tick_eiPending]; rfl⟩
  · rw [step_of_int s hn hi]
    cases him : s.im with
    | im0 =>
      rw [acceptInt_im0 s him, acceptIm0]
      split
      · exact .inl ⟨_, rfl, entered fi rfl _ _, by rw [State.tick_eiPending]; rfl⟩
      · exact .inr rfl
    | im1 =>
      rw [acceptInt_im1 s him]
      exact .inl ⟨_, rfl, entered fi rfl _ _, by rw [State.tick_eiPending]; rfl⟩
    | im2 =>
      rw [acceptInt_im2 s him, acceptIm2]
      refine .inl ⟨_, rfl, ?_, ?_⟩
      · exact ((((fi.trans (frame_push s.accepted _)).trans (frame_noteReadWord _ _)).trans
          (frame_setPc _ _)).trans (frame_tick _ _)).mono (by simp [acceptWrites])
          (by simp [State.accepted, State.beginAcceptance, State.beginStep])
      · rw [State.tick_eiPending, State.setPc_eiPending, State.noteReadWord_eiPending,
          State.push_eiPending]; rfl

/-- A step that is an acceptance and completes. -/
theorem accept_next (hs : step s = .next t)
    (h : s.nmiPending = true ∨ s.nmiPending = false ∧ s.acceptsInt = true) :
    Frame s.beginStep t acceptWrites [s.sp - 1#16, s.sp - 2#16] [] ∧ t.eiPending = false
      ∧ t.portFailed = false := by
  rcases accept_does h with ⟨T, h1, h2, h3⟩ | h1
  · obtain ⟨rfl, hf⟩ := eq_of_finish_next (h1.symm.trans hs)
    exact ⟨h2, h3, hf⟩
  · rw [h1] at hs; cases hs

/-! ## The running of an instruction -/

/-- The instruction completed, no port failed, and `prefix` is 0x00 afterwards. -/
theorem RunsOne.next (h : RunsOne s (.next u)) :
    ∃ (i : Instr) (t v : State) (cyc : Nat) (made : List PortCall) (m : List Word)
      (o : List (Byte × Byte)),
      onward i = false ∧ Frame s t [.pc, .r, .pfx, .bus] [] [] ∧ Did t v cyc made (mayWrite i) m o
        ∧ v.portFailed = false ∧ u = v.setPfx .none ∧ exec i t = .next v := by
  obtain ⟨i, t, h1, h2, h3⟩ := h
  obtain ⟨v, cyc, made, m, o, d, hx⟩ := exec_answers i t h1
  refine ⟨i, t, v, cyc, made, m, o, h1, h2, d, ?_⟩
  split at h3
  · exact absurd h3 stop_ne_next
  · rename_i hn
    rcases hx with ⟨hx, hm⟩ | hx
    · rw [hx] at h3
      cases h3
      refine ⟨?_, rfl, hx⟩
      rw [portFailed_congr d.frame.failAfter (by rw [d.calls, hm]; rfl)]
      simpa using hn
    · rcases finish_cases v with ⟨hv, -⟩ | ⟨hv, hf⟩ <;> rw [hv] at hx <;> rw [hx] at h3
      · cases h3
      · cases h3; exact ⟨hf, rfl, hx⟩

theorem chainEnd_ne_next : chainEnd s ≠ .next t := by
  unfold chainEnd; split
  · exact stop_ne_next
  · nofun

theorem chainEnd_cases (s : State) :
    chainEnd s = s.stop ∧ s.portFailed = true ∨ chainEnd s = .fault .endlessIndexChain := by
  unfold chainEnd
  split
  · rename_i h; exact .inl ⟨rfl, h⟩
  · exact .inr rfl

theorem runInstr_next (hr : s.Recorded) (h : runInstr s = .next u) : RunsOne s (.next u) := by
  rcases runInstr_does s hr with h' | ⟨t, -, h'⟩
  · rwa [h] at h'
  · exact absurd (h'.symm.trans h) chainEnd_ne_next

/-- A step that faults: a port failed in it, and the state before the failing call is on record, or
the running of an instruction hung. -/
theorem step_fault {f : Fault} (h : step s = .fault f) :
    (∃ t : State, .fault f = t.stop ∧ t.portFailed = true ∧ t.Recorded ∧ t.failAfter = s.failAfter)
      ∨ f = .endlessIndexChain ∧ s.nmiPending = false ∧ s.acceptsInt = false ∧ s.halted = false
        ∧ runInstr { s.beginStep with eiPending := false } = .fault .endlessIndexChain := by
  have acc (h' : s.nmiPending = true ∨ s.nmiPending = false ∧ s.acceptsInt = true) :
      ∃ t : State, .fault f = t.stop ∧ t.portFailed = true ∧ t.Recorded
        ∧ t.failAfter = s.failAfter := by
    rcases accept_does h' with ⟨T, h1, h2, -⟩ | h1
    · rcases finish_cases T with ⟨h4, h5⟩ | ⟨h4, -⟩
      · exact ⟨T, by rw [← h4, ← h1, h], h5,
          h2.recorded (recorded_of_unfailed (beginStep_unfailed s)), h2.failAfter⟩
      · rw [h4] at h1; rw [h1] at h; cases h
    · rw [h1] at h; cases h
  cases hn : s.nmiPending with
  | true => exact .inl (acc (.inl hn))
  | false =>
  cases hi : s.acceptsInt with
  | true => exact .inl (acc (.inr ⟨hn, hi⟩))
  | false =>
  cases hh : s.halted with
  | true => rw [step_of_halted s hn hi hh] at h; cases h
  | false =>
    rw [step_of_run s hn hi hh] at h
    have hr : ({ s.beginStep with eiPending := false } : State).Recorded :=
      recorded_of_unfailed (beginStep_unfailed s)
    rcases runInstr_does _ hr with h1 | ⟨t, h2, h3⟩
    · rcases h1.cases hr with ⟨t, ht⟩ | ⟨t, ht, h2, h3, h4⟩
      · rw [h] at ht; cases ht
      · exact .inl ⟨t, h.symm.trans ht, h2, h3, h4⟩
    · rcases chainEnd_cases t with ⟨h4, h5⟩ | h4
      · exact .inl ⟨t, by rw [← h4, ← h3, h], h5, h2.recorded hr, h2.failAfter⟩
      · rw [h4] at h3
        rw [h3] at h
        cases h
        exact .inr ⟨rfl, rfl, rfl, rfl, h3⟩

theorem runInstr_eq {d : Nat × Instr} (h : decodeAt u = d) :
    runInstr u = (if (u.fetchInstr (u.peek u.pc) d.1).portFailed
      then (u.fetchInstr (u.peek u.pc) d.1).stop
      else endInstr (exec d.2 (u.fetchInstr (u.peek u.pc) d.1))) := by
  unfold runInstr; simp only [h]

theorem fetchInstr_plain {b : Byte} (h : leads b = false) (n : Nat) :
    u.fetchInstr b n = State.fetchBytes (n - 1)
      ((u.setPfx .none).fetchOpcode.setPfx (indexOf b)) := by
  unfold State.fetchInstr; rw [h]; rfl

theorem fetchInstr_lead {b : Byte} (h : leads b = true) (n : Nat) :
    u.fetchInstr b n = State.fetchBytes (n - 2)
      ((u.setPfx .none).fetchOpcode.setPfx (indexOf b)).fetchOpcode := by
  unfold State.fetchInstr; rw [h]; rfl

theorem add_one_one (w : Word) : w + 1#16 + 1#16 = w + 2#16 := by rw [BitVec.add_assoc]; rfl

theorem add_one_one_one (w : Word) : w + 1#16 + 1#16 + 1#16 = w + 3#16 := by
  rw [BitVec.add_assoc, BitVec.add_assoc]; rfl

/-! ## One round of the dispatch loop -/

theorem loop_dd (n : Nat) (s : State) (h : s.peek s.pc = 0xDD#8) :
    dispatchLoop (n + 1) s = dispatchLoop n (s.fetchOpcode.supersede.setPfx .dd) := by
  simp only [dispatchLoop]; rw [if_pos h]

theorem loop_fd (n : Nat) (s : State) (h : s.peek s.pc = 0xFD#8) :
    dispatchLoop (n + 1) s = dispatchLoop n (s.fetchOpcode.supersede.setPfx .fd) := by
  simp only [dispatchLoop]; rw [if_neg (by rw [h]; decide), if_pos h]

theorem loop_ed (n : Nat) (s : State) (h : s.peek s.pc = 0xED#8) :
    dispatchLoop (n + 1) s = afterED s.fetchOpcode := by
  simp only [dispatchLoop]; rw [if_neg (by rw [h]; decide), if_neg (by rw [h]; decide), if_pos h]

theorem loop_cb (n : Nat) (s : State) (h : s.peek s.pc = 0xCB#8) (hp : s.pfx = .none) :
    dispatchLoop (n + 1) s = afterCB s.fetchOpcode := by
  simp only [dispatchLoop]
  rw [if_neg (by rw [h]; decide), if_neg (by rw [h]; decide), if_neg (by rw [h]; decide), if_pos h]
  have : s.fetchOpcode.pfx = .none := hp
  simp only [this]

theorem loop_xcb (n : Nat) (s : State) (h : s.peek s.pc = 0xCB#8) (hp : s.pfx ≠ .none) :
    dispatchLoop (n + 1) s = afterXCB s.fetchOpcode := by
  simp only [dispatchLoop]
  rw [if_neg (by rw [h]; decide), if_neg (by rw [h]; decide), if_neg (by rw [h]; decide), if_pos h]
  have : s.fetchOpcode.pfx = s.pfx := rfl
  rw [this]
  cases hq : s.pfx with
  | none => exact absurd hq hp
  | dd => rfl
  | fd => rfl

theorem loop_main (n : Nat) (s : State) (h : leads (s.peek s.pc) = false) :
    dispatchLoop (n + 1) s = leave (runMain (s.peek s.pc) s.fetchOpcode) := by
  simp only [dispatchLoop]
  simp only [leads, Bool.or_eq_false_iff, beq_eq_false_iff_ne] at h
  rw [if_neg h.1.1.2, if_neg h.2, if_neg h.1.2, if_neg h.1.1.1]

end Sys2Proof.Machine
end

