-- ==== Sys2Proof/Tests/Slice0.lean ====
section
/-! SUPPORT. Tests: well-formedness, decoding by words written out from the spec's encodings, single
steps against the examples of spec/, and a witness for the hypotheses of every statement.

Expected values come from the examples of the instruction rules (41_control_flow.md to
49_rotate_shift_bit.md) and from 60_exceptions.md; a test's comment names the rule. -/

set_option linter.style.nameCheck false

open Sys2Proof Sys2Proof.Machine Sys2Proof.Claims

namespace Sys2Proof.Tests

/-! ## Well-formedness: an ill-formed term for each check -/

theorem test_ill_formed_neg : Instr.wellFormed (.neg 0x45#8) = false := by decide
theorem test_ill_formed_retn : Instr.wellFormed (.retn 0x4D#8) = false := by decide
theorem test_ill_formed_im_0 : Instr.wellFormed (.im_0 0x56#8) = false := by decide
theorem test_ill_formed_im_1 : Instr.wellFormed (.im_1 0x5E#8) = false := by decide
theorem test_ill_formed_im_2 : Instr.wellFormed (.im_2 0x46#8) = false := by decide
theorem test_ill_formed_nop__ed : Instr.wellFormed (.nop__ed 0xA0#8) = false := by decide
theorem test_well_formed_ends :
    Instr.wellFormed (.nop__ed 0x3F#8) = true ∧ Instr.wellFormed (.nop__ed 0xBC#8) = true
      ∧ Instr.wellFormed (.nop__ed 0xBB#8) = false ∧ Instr.wellFormed (.nop__ed 0x40#8) = false := by
  decide

/-! ## Decoding: words written out bit by bit -/


/-- R361: 11 yyy 010, y = 1 (Z), then lo hi. -/
theorem test_decode_jp_cc_nn : decode [0b11001010#8, 0x34#8, 0x12#8] = .ok (.jp_z_nn .none 0x1234#16, []) := by rfl

/-- R363: 001 cc 000, cc = 2 (NC), then e. -/
theorem test_decode_jr_cc_e : decode [0b00110000#8, 0xFE#8] = .ok (.jr_nc_e .none 0xFE#8, []) := by rfl

/-- R372: 11 yyy 111, y = 3. -/
theorem test_decode_rst : decode [0b11011111#8] = .ok (.rst_18h .none, []) := by rfl

/-- R401: 01 yyy zzz, y = 7 (A), z = 0 (B). -/
theorem test_decode_ld_r_r : decode [0b01111000#8] = .ok (.ld_a_b .none, []) := by rfl

/-- R404: DD, 01 yyy 110, y = 4 (the real H), then d. -/
theorem test_decode_ld_r_ixd : decode [0xDD#8, 0b01100110#8, 0x80#8] = .ok (.ld_h__ixd 0x80#8, []) := by rfl

/-- R419: FD, 01 yyy zzz, y = 4 (IYH), z = 5 (IYL). -/
theorem test_decode_ld_half : decode [0xFD#8, 0b01100101#8] = .ok (.ld_iyh_iyl, []) := by rfl

/-- R453: ED, 01 pp1 011, p = 1 (DE), then lo hi. -/
theorem test_decode_ld_rp_nn_mem : decode [0xED#8, 0b01011011#8, 0x00#8, 0x90#8] = .ok (.ld_de__nn 0x9000#16, []) := by rfl

/-- R458: 11 pp0 001, p = 3 (AF). -/
theorem test_decode_pop_af : decode [0b11110001#8] = .ok (.pop_af .none, []) := by rfl

/-- R215: ED x=2, y = 7, z = 1. -/
theorem test_decode_cpdr : decode [0xED#8, 0b10111001#8] = .ok (.cpdr, []) := by rfl

/-- R553: ED, 01 yyy 000, y = 5 (L). -/
theorem test_decode_in_l_c : decode [0xED#8, 0b01101000#8] = .ok (.in_l__c, []) := by rfl

/-- R215: ED x=2, y = 6, z = 3. -/
theorem test_decode_otir : decode [0xED#8, 0b10110011#8] = .ok (.otir, []) := by rfl

/-- R214: ED, 01 yyy 110, y = 5. -/
theorem test_decode_im_0_duplicate : decode [0xED#8, 0b01101110#8] = .ok (.im_0 0x6E#8, []) := by rfl

/-- R650: 11 yyy 110, y = 3 (SBC), then n. -/
theorem test_decode_sbc_a_n : decode [0b11011110#8, 0x80#8] = .ok (.sbc_a_n .none 0x80#8, []) := by rfl

/-- R650: FD, 10 yyy 110, y = 5 (XOR), then d. -/
theorem test_decode_xor_iyd : decode [0xFD#8, 0b10101110#8, 0x7F#8] = .ok (.xor__iyd 0x7F#8, []) := by rfl

/-- R662: DD, 00 yyy 101, y = 5 (IXL). -/
theorem test_decode_dec_ixl : decode [0xDD#8, 0b00101101#8] = .ok (.dec_ixl, []) := by rfl

/-- R703: ED, 01 pp1 010, p = 3 (SP). -/
theorem test_decode_adc_hl_sp : decode [0xED#8, 0b01111010#8] = .ok (.adc_hl_sp, []) := by rfl

/-- R762: CB, 00 110 zzz, z = 6. -/
theorem test_decode_sll_hl : decode [0xCB#8, 0b00110110#8] = .ok (.sll__hl, []) := by rfl

/-- R780: CB, 01 bbb zzz, b = 5, z = 7. -/
theorem test_decode_bit_5_a : decode [0xCB#8, 0b01101111#8] = .ok (.bit_5_a, []) := by rfl

/-- R783: FD CB d, 10 bbb zzz, b = 2, z = 1. -/
theorem test_decode_res_2_iyd_c : decode [0xFD#8, 0xCB#8, 0xFE#8, 0b10010001#8] = .ok (.res_2__iyd__c 0xFE#8, []) := by rfl

/-- R222: DD before 00 yyy 110, y = 1 (C), then n. -/
theorem test_decode_ignored_index : decode [0xDD#8, 0b00001110#8, 0x42#8] = .ok (.ld_c_n .dd 0x42#8, []) := by rfl

/-- R235: DD before ED is dropped, and the bytes after ED go on in the ED table. -/
theorem test_decode_dropped_index :
    decode [0xDD#8, 0xED#8, 0x6B#8, 0x00#8]
      = .ok (.prefix_ed__index_prefix_dropped .ix, [0x6B#8, 0x00#8]) := by rfl

/-- R203: no byte is an instruction by itself when it asks for more. -/
theorem test_decode_too_short : decode [0xC3#8, 0x00#8] = .error .truncated := by rfl

/-! ## Steps -/

/-- The bytes at an address. -/
def has (s : State) (a : Word) (bs : List Byte) : State := { s with mem := storeBytes s.mem a bs }

/-- The reset state with other values in A, F, BC, DE and HL. -/
def regs (a f : Byte) (bc de hl : Word) : State :=
  ((((State.reset.setR8 .a a).setF f).setR16 .bc bc).setR16 .de de).setR16 .hl hl

/-- The state after one step, or one that no test expects. -/
def stepped (s : State) : State :=
  match step s with
  | .next t => t
  | _ => { State.reset with pc := 0xDEAD#16, cycles := 0xDEAD#32 }

/-- The state after one step that runs the bytes at PC. -/
def ran (s : State) (bs : List Byte) : State := stepped (s.withBytes bs)


/-- R360. -/
theorem test_jp_nn :
    let t := ran State.reset [0xC3#8, 0x00#8, 0x80#8]
    t.pc = 0x8000#16 ∧ t.cycles = 10#32 := by decide

/-- R361. -/
theorem test_jp_z_taken :
    let t := ran { (regs 0x00#8 0x40#8 0x0000#16 0x0000#16 0x0000#16) with pc := 0x0100#16 }
      [0xCA#8, 0x34#8, 0x12#8]
    t.pc = 0x1234#16 ∧ t.cycles = 10#32 := by decide

/-- R361. -/
theorem test_jp_z_not_taken :
    let t := ran { (regs 0x00#8 0x00#8 0x0000#16 0x0000#16 0x0000#16) with pc := 0x0100#16 }
      [0xCA#8, 0x34#8, 0x12#8]
    t.pc = 0x0103#16 ∧ t.cycles = 10#32 := by decide

/-- R362. -/
theorem test_jr_wraps :
    let t := ran { State.reset with pc := 0xFFFE#16 } [0x18#8, 0x05#8]
    t.pc = 0x0005#16 ∧ t.cycles = 12#32 := by decide

/-- R363. -/
theorem test_jr_nz_taken :
    let t := ran { State.reset with pc := 0x0200#16 } [0x20#8, 0x05#8]
    t.pc = 0x0207#16 ∧ t.cycles = 12#32 := by decide

/-- R363. -/
theorem test_jr_nz_not_taken :
    let t := ran { (regs 0x00#8 0x40#8 0x0000#16 0x0000#16 0x0000#16) with pc := 0x0200#16 }
      [0x20#8, 0x05#8]
    t.pc = 0x0202#16 ∧ t.cycles = 7#32 := by decide

/-- R364. -/
theorem test_djnz_taken :
    let t := ran { (regs 0x00#8 0x00#8 0x0200#16 0x0000#16 0x0000#16) with pc := 0x0300#16 }
      [0x10#8, 0xFE#8]
    t.main.b = 0x01#8 ∧ t.pc = 0x0300#16 ∧ t.cycles = 13#32 := by decide

/-- R364. -/
theorem test_djnz_not_taken :
    let t := ran { (regs 0x00#8 0x00#8 0x0100#16 0x0000#16 0x0000#16) with pc := 0x0300#16 }
      [0x10#8, 0xFE#8]
    t.main.b = 0x00#8 ∧ t.pc = 0x0302#16 ∧ t.cycles = 8#32 := by decide

/-- R365. -/
theorem test_jp_ix :
    let t := ran { State.reset with ix := 0x5000#16 } [0xDD#8, 0xE9#8]
    t.pc = 0x5000#16 ∧ t.cycles = 8#32 := by decide

/-- R366. -/
theorem test_call :
    let t := ran { State.reset with pc := 0x7FFF#16, sp := 0xFFFE#16 } [0xCD#8, 0x34#8, 0x12#8]
    t.pc = 0x1234#16 ∧ t.sp = 0xFFFC#16 ∧ t.peek 0xFFFC#16 = 0x02#8 ∧ t.peek 0xFFFD#16 = 0x80#8
      ∧ t.cycles = 17#32 := by decide

/-- R367. -/
theorem test_call_nz_not_taken :
    let t := ran { (regs 0x00#8 0x40#8 0x0000#16 0x0000#16 0x0000#16) with pc := 0x0400#16, sp := 0xFFFE#16 }
      [0xC4#8, 0x00#8, 0x90#8]
    t.pc = 0x0403#16 ∧ t.sp = 0xFFFE#16 ∧ t.cycles = 10#32 := by decide

/-- R368. -/
theorem test_ret :
    let t := ran (has { State.reset with sp := 0xFFFC#16 } 0xFFFC#16 [0x02#8, 0x80#8]) [0xC9#8]
    t.pc = 0x8002#16 ∧ t.sp = 0xFFFE#16 ∧ t.cycles = 10#32 := by decide

/-- R369. -/
theorem test_ret_z_not_taken :
    let t := ran State.reset [0xC8#8]
    t.pc = 0x0001#16 ∧ t.sp = 0x0000#16 ∧ t.cycles = 5#32 := by decide

/-- R370. -/
theorem test_reti :
    let t := ran (has { State.reset with sp := 0xFFFC#16 } 0xFFFC#16 [0x00#8, 0x12#8])
      [0xED#8, 0x4D#8]
    t.pc = 0x1200#16 ∧ t.sp = 0xFFFE#16 ∧ t.iff1 = false ∧ t.cycles = 14#32 := by decide

/-- R371. -/
theorem test_retn :
    let t := ran (has { State.reset with sp := 0x4000#16, iff2 := true } 0x4000#16 [0x34#8, 0x12#8])
      [0xED#8, 0x45#8]
    t.pc = 0x1234#16 ∧ t.iff1 = true ∧ t.cycles = 14#32 := by decide

/-- R372. -/
theorem test_rst_38 :
    let t := ran { State.reset with pc := 0x1000#16 } [0xFF#8]
    t.pc = 0x0038#16 ∧ t.sp = 0xFFFE#16 ∧ t.peek 0xFFFE#16 = 0x01#8 ∧ t.peek 0xFFFF#16 = 0x10#8
      ∧ t.cycles = 11#32 := by decide

/-- R401. -/
theorem test_ld_a_b :
    let t := ran (regs 0x00#8 0x00#8 0x1200#16 0x0000#16 0x0000#16) [0x78#8]
    t.main.a = 0x12#8 ∧ t.cycles = 4#32 := by decide

/-- R402. -/
theorem test_ld_a_n :
    let t := ran State.reset [0x3E#8, 0x80#8]
    t.main.a = 0x80#8 ∧ t.cycles = 7#32 := by decide

/-- R404. -/
theorem test_ld_b_ixd :
    let t := ran (has { State.reset with ix := 0x4000#16 } 0x3FFF#16 [0x77#8])
      [0xDD#8, 0x46#8, 0xFF#8]
    t.main.b = 0x77#8 ∧ t.cycles = 19#32 := by decide

/-- R405. -/
theorem test_ld_hl_h :
    let t := ran (regs 0x00#8 0x00#8 0x0000#16 0x0000#16 0x4000#16) [0x74#8]
    t.peek 0x4000#16 = 0x40#8 ∧ t.cycles = 7#32 := by decide

/-- R408. -/
theorem test_ld_ixd_n :
    let t := ran { State.reset with ix := 0x4000#16 } [0xDD#8, 0x36#8, 0x10#8, 0x55#8]
    t.peek 0x4010#16 = 0x55#8 ∧ t.cycles = 19#32 := by decide

/-- R411. -/
theorem test_ld_a_nn :
    let t := ran (has State.reset 0x8000#16 [0x3C#8]) [0x3A#8, 0x00#8, 0x80#8]
    t.main.a = 0x3C#8 ∧ t.cycles = 13#32 := by decide

/-- R415. -/
theorem test_ld_a_i :
    let t := ran { (regs 0x00#8 0x01#8 0x0000#16 0x0000#16 0x0000#16) with i := 0x80#8, iff2 := true }
      [0xED#8, 0x57#8]
    t.main.a = 0x80#8 ∧ t.main.f = 0x85#8 ∧ t.cycles = 9#32 := by decide

/-- R416. -/
theorem test_ld_a_r_after_fetches :
    let t := ran { State.reset with r := 0x7E#8 } [0xED#8, 0x5F#8]
    t.main.a = 0x00#8 ∧ t.main.f = 0x40#8 ∧ t.cycles = 9#32 := by decide

/-- R418. -/
theorem test_ld_r_a :
    let t := ran (regs 0x80#8 0x00#8 0x0000#16 0x0000#16 0x0000#16) [0xED#8, 0x4F#8]
    t.r = 0x80#8 ∧ t.cycles = 9#32 := by decide

/-- R419. -/
theorem test_ld_ixh_ixl :
    let t := ran { State.reset with ix := 0x12AB#16 } [0xDD#8, 0x65#8]
    t.ix = 0xABAB#16 ∧ t.cycles = 8#32 := by decide

/-- R420. -/
theorem test_ld_iyh_n :
    let t := ran State.reset [0xFD#8, 0x26#8, 0xC0#8]
    t.iy = 0xC000#16 ∧ t.cycles = 11#32 := by decide

/-- R451. -/
theorem test_ld_hl_nn :
    let t := ran State.reset [0x21#8, 0x34#8, 0x12#8]
    t.main.h = 0x12#8 ∧ t.main.l = 0x34#8 ∧ t.cycles = 10#32 := by decide

/-- R452. -/
theorem test_ld_hl_mem :
    let t := ran (has State.reset 0x8000#16 [0xCD#8, 0xAB#8]) [0x2A#8, 0x00#8, 0x80#8]
    t.getR16 .hl = 0xABCD#16 ∧ t.cycles = 16#32 := by decide

/-- R453. -/
theorem test_ld_sp_mem :
    let t := ran (has State.reset 0x9000#16 [0x00#8, 0xF0#8]) [0xED#8, 0x7B#8, 0x00#8, 0x90#8]
    t.sp = 0xF000#16 ∧ t.cycles = 20#32 := by decide

/-- R454. -/
theorem test_ld_nn_hl :
    let t := ran (regs 0x00#8 0x00#8 0x0000#16 0x0000#16 0x1234#16) [0x22#8, 0x00#8, 0x80#8]
    t.peek 0x8000#16 = 0x34#8 ∧ t.peek 0x8001#16 = 0x12#8 ∧ t.cycles = 16#32 := by decide

/-- R457. -/
theorem test_push_bc :
    let t := ran (regs 0x00#8 0x00#8 0x1234#16 0x0000#16 0x0000#16) [0xC5#8]
    t.sp = 0xFFFE#16 ∧ t.peek 0xFFFF#16 = 0x12#8 ∧ t.peek 0xFFFE#16 = 0x34#8 ∧ t.cycles = 11#32 := by decide

/-- R458. -/
theorem test_pop_af :
    let t := ran (has { State.reset with sp := 0x4000#16 } 0x4000#16 [0xFF#8, 0x12#8]) [0xF1#8]
    t.main.a = 0x12#8 ∧ t.main.f = 0xFF#8 ∧ t.sp = 0x4002#16 ∧ t.cycles = 10#32 := by decide

/-- R459, R222. -/
theorem test_ex_de_hl_after_dd :
    let t := ran (regs 0x00#8 0x00#8 0x0000#16 0x1111#16 0x2222#16) [0xDD#8, 0xEB#8]
    t.getR16 .de = 0x2222#16 ∧ t.getR16 .hl = 0x1111#16 ∧ t.cycles = 8#32 := by decide

/-- R460. -/
theorem test_ex_af_af :
    let t := ran { (regs 0x01#8 0x02#8 0x0000#16 0x0000#16 0x0000#16) with alt := (regs 0x03#8 0x04#8 0#16 0#16 0#16).main }
      [0x08#8]
    t.getR16 .af = 0x0304#16 ∧ t.alt.a = 0x01#8 ∧ t.alt.f = 0x02#8 ∧ t.cycles = 4#32 := by decide

/-- R461. -/
theorem test_exx :
    let t := ran { (regs 0x00#8 0x00#8 0x0001#16 0x0002#16 0x0003#16) with alt := (regs 0#8 0#8 4#16 5#16 6#16).main }
      [0xD9#8]
    t.getR16 .bc = 0x0004#16 ∧ t.getR16 .hl = 0x0006#16 ∧ t.getShadow16 .de = 0x0002#16
      ∧ t.cycles = 4#32 := by decide

/-- R462. -/
theorem test_ex_sp_hl :
    let t := ran (has { (regs 0x00#8 0x00#8 0x0000#16 0x0000#16 0x7012#16) with sp := 0x8000#16 } 0x8000#16 [0x11#8, 0x22#8])
      [0xE3#8]
    t.getR16 .hl = 0x2211#16 ∧ t.peek 0x8000#16 = 0x12#8 ∧ t.peek 0x8001#16 = 0x70#8
      ∧ t.sp = 0x8000#16 ∧ t.cycles = 19#32 := by decide

/-- R503. -/
theorem test_ldi :
    let t := ran (has (regs 0x00#8 0xFF#8 0x0001#16 0x2000#16 0x1000#16) 0x1000#16 [0x3C#8])
      [0xED#8, 0xA0#8]
    t.peek 0x2000#16 = 0x3C#8 ∧ t.getR16 .bc = 0x0000#16 ∧ t.main.f = 0xC9#8 ∧ t.cycles = 16#32 := by decide

/-- R505. -/
theorem test_ldd :
    let t := ran (has (regs 0x01#8 0x00#8 0x0002#16 0x2005#16 0x1005#16) 0x1005#16 [0x22#8])
      [0xED#8, 0xA8#8]
    t.getR16 .hl = 0x1004#16 ∧ t.getR16 .de = 0x2004#16 ∧ t.main.f = 0x24#8 ∧ t.cycles = 16#32 := by decide

/-- R506. -/
theorem test_lddr_repeats :
    let t := ran (has { (regs 0x00#8 0x00#8 0x0002#16 0x2001#16 0x1001#16) with pc := 0x0100#16 } 0x1001#16 [0xAA#8])
      [0xED#8, 0xB8#8]
    t.peek 0x2001#16 = 0xAA#8 ∧ t.pc = 0x0100#16 ∧ t.main.f = 0x2C#8 ∧ t.cycles = 21#32 := by decide

/-- R506. -/
theorem test_lddr_ends :
    let t := ran (has { (regs 0x00#8 0x2C#8 0x0001#16 0x2000#16 0x1000#16) with pc := 0x0100#16 } 0x1000#16 [0xBB#8])
      [0xED#8, 0xB8#8]
    t.peek 0x2000#16 = 0xBB#8 ∧ t.pc = 0x0102#16 ∧ t.main.f = 0x28#8 ∧ t.cycles = 16#32 := by decide

/-- R507. -/
theorem test_cpi :
    let t := ran (has (regs 0x41#8 0x00#8 0x0002#16 0x0000#16 0x3000#16) 0x3000#16 [0x41#8])
      [0xED#8, 0xA1#8]
    t.getR16 .hl = 0x3001#16 ∧ t.main.f = 0x46#8 ∧ t.main.a = 0x41#8 ∧ t.cycles = 16#32 := by decide

/-- R509. -/
theorem test_cpd :
    let t := ran (has (regs 0x10#8 0x01#8 0x0001#16 0x0000#16 0x3000#16) 0x3000#16 [0x01#8])
      [0xED#8, 0xA9#8]
    t.getR16 .hl = 0x2FFF#16 ∧ t.main.f = 0x3B#8 ∧ t.cycles = 16#32 := by decide

/-- R508. -/
theorem test_cpir_repeats :
    let t := ran (has { (regs 0x42#8 0x00#8 0x0005#16 0x0000#16 0x3000#16) with pc := 0x0200#16 } 0x3000#16 [0x10#8])
      [0xED#8, 0xB1#8]
    t.pc = 0x0200#16 ∧ t.main.f = 0x26#8 ∧ t.cycles = 21#32 := by decide

/-- R508. -/
theorem test_cpir_match_ends :
    let t := ran (has { (regs 0x42#8 0x00#8 0x0004#16 0x0000#16 0x3001#16) with pc := 0x0200#16 } 0x3001#16 [0x42#8])
      [0xED#8, 0xB1#8]
    t.pc = 0x0202#16 ∧ t.main.f = 0x46#8 ∧ t.cycles = 16#32 := by decide

/-- R552. -/
theorem test_in_a_n :
    let t := ran { State.reset with inputs := [(0x01#8, 0xF7#8)] } [0xDB#8, 0x01#8]
    t.main.a = 0xF7#8 ∧ t.bus = 0xF7#8 ∧ t.cycles = 11#32 := by decide

/-- R553. -/
theorem test_in_b_c :
    let t := ran { (regs 0x00#8 0x01#8 0x0005#16 0x0000#16 0x0000#16) with inputs := [(0x05#8, 0x00#8)] }
      [0xED#8, 0x40#8]
    t.main.b = 0x00#8 ∧ t.main.f = 0x45#8 ∧ t.cycles = 12#32 := by decide

/-- R554. -/
theorem test_in_f_c :
    let t := ran { State.reset with inputs := [(0x00#8, 0x80#8)] } [0xED#8, 0x70#8]
    t.main.f = 0x80#8 ∧ t.getR16 .bc = 0x0000#16 ∧ t.cycles = 12#32 := by decide

/-- R555. -/
theorem test_out_n_a :
    let t := ran (regs 0x3F#8 0x00#8 0x0000#16 0x0000#16 0x0000#16) [0xD3#8, 0x10#8]
    t.outputs = [(0x10#8, 0x3F#8)] ∧ t.cycles = 11#32 := by decide

/-- R557. -/
theorem test_out_c_0 :
    let t := ran (regs 0x00#8 0x00#8 0x0007#16 0x0000#16 0x0000#16) [0xED#8, 0x71#8]
    t.outputs = [(0x07#8, 0x00#8)] ∧ t.cycles = 12#32 := by decide

/-- R558. -/
theorem test_ini :
    let t := ran { (regs 0x00#8 0x00#8 0x0210#16 0x0000#16 0x4000#16) with inputs := [(0x10#8, 0x81#8)] }
      [0xED#8, 0xA2#8]
    t.peek 0x4000#16 = 0x81#8 ∧ t.getR16 .hl = 0x4001#16 ∧ t.main.f = 0x06#8 ∧ t.cycles = 16#32 := by decide

/-- R560. -/
theorem test_ind :
    let t := ran { (regs 0x00#8 0x00#8 0x0100#16 0x0000#16 0x4000#16) with inputs := [(0x00#8, 0x01#8)] }
      [0xED#8, 0xAA#8]
    t.getR16 .hl = 0x3FFF#16 ∧ t.main.f = 0x55#8 ∧ t.cycles = 16#32 := by decide

/-- R562. -/
theorem test_outi :
    let t := ran (has (regs 0x00#8 0x00#8 0x0120#16 0x0000#16 0x4000#16) 0x4000#16 [0xFF#8])
      [0xED#8, 0xA3#8]
    t.outputs = [(0x20#8, 0xFF#8)] ∧ t.main.b = 0x00#8 ∧ t.main.f = 0x57#8 ∧ t.cycles = 16#32 := by decide

/-- R564. -/
theorem test_outd :
    let t := ran (has (regs 0x00#8 0x00#8 0x0530#16 0x0000#16 0x4001#16) 0x4001#16 [0x10#8])
      [0xED#8, 0xAB#8]
    t.outputs = [(0x30#8, 0x10#8)] ∧ t.getR16 .hl = 0x4000#16 ∧ t.main.f = 0x00#8
      ∧ t.cycles = 16#32 := by decide

/-- R601. -/
theorem test_nop :
    let t := ran State.reset [0x00#8]
    t.pc = 0x0001#16 ∧ t.r = 0x01#8 ∧ t.cycles = 4#32 := by decide

/-- R602. -/
theorem test_halt :
    let t := ran { State.reset with pc := 0x0010#16 } [0x76#8]
    t.halted = true ∧ t.pc = 0x0011#16 ∧ t.cycles = 4#32 := by decide

/-- R603. -/
theorem test_di :
    let t := ran { State.reset with iff1 := true, iff2 := true } [0xF3#8]
    t.iff1 = false ∧ t.iff2 = false ∧ t.cycles = 4#32 := by decide

/-- R604. -/
theorem test_ei :
    let t := ran State.reset [0xFB#8]
    t.iff1 = true ∧ t.iff2 = true ∧ t.eiPending = true ∧ t.cycles = 4#32 := by decide

/-- R607. -/
theorem test_im_2 :
    let t := ran State.reset [0xED#8, 0x5E#8]
    t.im = .im2 ∧ t.cycles = 8#32 := by decide

/-- R608. -/
theorem test_nop_ed_dd :
    let t := ran State.reset [0xED#8, 0xDD#8]
    t.pc = 0x0002#16 ∧ t.r = 0x02#8 ∧ t.cycles = 8#32 := by decide

/-- R651. -/
theorem test_add_a_b :
    let t := ran (regs 0x7F#8 0x00#8 0x0100#16 0x0000#16 0x0000#16) [0x80#8]
    t.main.a = 0x80#8 ∧ t.main.f = 0x94#8 ∧ t.cycles = 4#32 := by decide

/-- R652. -/
theorem test_adc_a_hl :
    let t := ran (has (regs 0x10#8 0x01#8 0x0000#16 0x0000#16 0x4000#16) 0x4000#16 [0x0F#8])
      [0x8E#8]
    t.main.a = 0x20#8 ∧ t.main.f = 0x30#8 ∧ t.cycles = 7#32 := by decide

/-- R653. -/
theorem test_sub_b :
    let t := ran (regs 0x80#8 0x00#8 0x0100#16 0x0000#16 0x0000#16) [0x90#8]
    t.main.a = 0x7F#8 ∧ t.main.f = 0x3E#8 := by decide

/-- R654. -/
theorem test_sbc_a_n :
    let t := ran (regs 0x00#8 0x01#8 0x0000#16 0x0000#16 0x0000#16) [0xDE#8, 0x00#8]
    t.main.a = 0xFF#8 ∧ t.main.f = 0xBB#8 ∧ t.cycles = 7#32 := by decide

/-- R655. -/
theorem test_and_b :
    let t := ran (regs 0xF0#8 0x00#8 0x3C00#16 0x0000#16 0x0000#16) [0xA0#8]
    t.main.a = 0x30#8 ∧ t.main.f = 0x34#8 := by decide

/-- R656. -/
theorem test_xor_n :
    let t := ran (regs 0xFF#8 0x00#8 0x0000#16 0x0000#16 0x0000#16) [0xEE#8, 0x0F#8]
    t.main.a = 0xF0#8 ∧ t.main.f = 0xA4#8 := by decide

/-- R657. -/
theorem test_or_n :
    let t := ran (regs 0x01#8 0x00#8 0x0000#16 0x0000#16 0x0000#16) [0xF6#8, 0x80#8]
    t.main.a = 0x81#8 ∧ t.main.f = 0x84#8 := by decide

/-- R658. -/
theorem test_cp_n :
    let t := ran (regs 0x40#8 0x00#8 0x0000#16 0x0000#16 0x0000#16) [0xFE#8, 0x28#8]
    t.main.a = 0x40#8 ∧ t.main.f = 0x3A#8 := by decide

/-- R659. -/
theorem test_inc_a :
    let t := ran (regs 0x7F#8 0x01#8 0x0000#16 0x0000#16 0x0000#16) [0x3C#8]
    t.main.a = 0x80#8 ∧ t.main.f = 0x95#8 := by decide

/-- R661. -/
theorem test_inc_ixd :
    let t := ran (has { State.reset with ix := 0x4000#16 } 0x4002#16 [0x0F#8])
      [0xDD#8, 0x34#8, 0x02#8]
    t.peek 0x4002#16 = 0x10#8 ∧ t.main.f = 0x10#8 ∧ t.cycles = 23#32 := by decide

/-- R663. -/
theorem test_dec_hl :
    let t := ran (has (regs 0x00#8 0x00#8 0x0000#16 0x0000#16 0x4000#16) 0x4000#16 [0x80#8])
      [0x35#8]
    t.peek 0x4000#16 = 0x7F#8 ∧ t.main.f = 0x3E#8 ∧ t.cycles = 11#32 := by decide

/-- R664. -/
theorem test_dec_iyd :
    let t := ran (has { (regs 0x00#8 0x01#8 0x0000#16 0x0000#16 0x0000#16) with iy := 0x8000#16 } 0x7FFF#16 [0x01#8])
      [0xFD#8, 0x35#8, 0xFF#8]
    t.peek 0x7FFF#16 = 0x00#8 ∧ t.main.f = 0x43#8 ∧ t.cycles = 23#32 := by decide

/-- R665. -/
theorem test_daa_after_add :
    let t := ran (regs 0x3C#8 0x00#8 0x0000#16 0x0000#16 0x0000#16) [0x27#8]
    t.main.a = 0x42#8 ∧ t.main.f = 0x14#8 := by decide

/-- R665. -/
theorem test_daa_after_sub :
    let t := ran (regs 0x2D#8 0x12#8 0x0000#16 0x0000#16 0x0000#16) [0x27#8]
    t.main.a = 0x27#8 ∧ t.main.f = 0x26#8 := by decide

/-- R666. -/
theorem test_cpl :
    let t := ran (regs 0x5A#8 0x00#8 0x0000#16 0x0000#16 0x0000#16) [0x2F#8]
    t.main.a = 0xA5#8 ∧ t.main.f = 0x32#8 := by decide

/-- R667. -/
theorem test_neg_duplicate :
    let t := ran (regs 0x80#8 0x00#8 0x0000#16 0x0000#16 0x0000#16) [0xED#8, 0x7C#8]
    t.main.a = 0x80#8 ∧ t.main.f = 0x87#8 ∧ t.cycles = 8#32 := by decide

/-- R668. -/
theorem test_ccf :
    let t := ran (regs 0x00#8 0x01#8 0x0000#16 0x0000#16 0x0000#16) [0x3F#8]
    t.main.f = 0x10#8 := by decide

/-- R669. -/
theorem test_scf :
    let t := ran (regs 0x28#8 0x00#8 0x0000#16 0x0000#16 0x0000#16) [0x37#8]
    t.main.f = 0x29#8 := by decide

/-- R701. -/
theorem test_add_hl_de :
    let t := ran (regs 0x00#8 0x00#8 0x0000#16 0x0001#16 0x0FFF#16) [0x19#8]
    t.getR16 .hl = 0x1000#16 ∧ t.main.f = 0x10#8 ∧ t.cycles = 11#32 := by decide

/-- R702. -/
theorem test_add_ix_sp :
    let t := ran { State.reset with ix := 0x1000#16, sp := 0x2800#16 } [0xDD#8, 0x39#8]
    t.ix = 0x3800#16 ∧ t.main.f = 0x28#8 ∧ t.cycles = 15#32 := by decide

/-- R703. -/
theorem test_adc_hl_bc :
    let t := ran (regs 0x00#8 0x01#8 0x0000#16 0x0000#16 0x7FFF#16) [0xED#8, 0x4A#8]
    t.getR16 .hl = 0x8000#16 ∧ t.main.f = 0x94#8 ∧ t.cycles = 15#32 := by decide

/-- R704. -/
theorem test_sbc_hl_hl :
    let t := ran (regs 0x00#8 0x01#8 0x0000#16 0x0000#16 0x1234#16) [0xED#8, 0x62#8]
    t.getR16 .hl = 0xFFFF#16 ∧ t.main.f = 0xBB#8 ∧ t.cycles = 15#32 := by decide

/-- R705. -/
theorem test_inc_sp_wraps :
    let t := ran { State.reset with sp := 0xFFFF#16 } [0x33#8]
    t.sp = 0x0000#16 ∧ t.main.f = 0x00#8 ∧ t.cycles = 6#32 := by decide

/-- R706. -/
theorem test_dec_bc_wraps :
    let t := ran State.reset [0x0B#8]
    t.getR16 .bc = 0xFFFF#16 ∧ t.main.f = 0x00#8 ∧ t.cycles = 6#32 := by decide

/-- R751. -/
theorem test_rlca :
    let t := ran (regs 0x80#8 0xC4#8 0x0000#16 0x0000#16 0x0000#16) [0x07#8]
    t.main.a = 0x01#8 ∧ t.main.f = 0xC5#8 := by decide

/-- R753. -/
theorem test_rla :
    let t := ran (regs 0x55#8 0x01#8 0x0000#16 0x0000#16 0x0000#16) [0x17#8]
    t.main.a = 0xAB#8 ∧ t.main.f = 0x28#8 := by decide

/-- R756. -/
theorem test_rlc_b :
    let t := ran (regs 0x00#8 0x00#8 0x8100#16 0x0000#16 0x0000#16) [0xCB#8, 0x00#8]
    t.main.b = 0x03#8 ∧ t.main.f = 0x05#8 ∧ t.cycles = 8#32 := by decide

/-- R759. -/
theorem test_rr_e :
    let t := ran (regs 0x00#8 0x01#8 0x0000#16 0x0001#16 0x0000#16) [0xCB#8, 0x1B#8]
    t.main.e = 0x80#8 ∧ t.main.f = 0x81#8 := by decide

/-- R761. -/
theorem test_sra_l :
    let t := ran (regs 0x00#8 0x00#8 0x0000#16 0x0000#16 0x0081#16) [0xCB#8, 0x2D#8]
    t.main.l = 0xC0#8 ∧ t.main.f = 0x85#8 := by decide

/-- R762. -/
theorem test_sll_a :
    let t := ran State.reset [0xCB#8, 0x37#8]
    t.main.a = 0x01#8 ∧ t.main.f = 0x00#8 := by decide

/-- R763. -/
theorem test_srl_hl :
    let t := ran (has (regs 0x00#8 0x00#8 0x0000#16 0x0000#16 0x4000#16) 0x4000#16 [0x01#8])
      [0xCB#8, 0x3E#8]
    t.peek 0x4000#16 = 0x00#8 ∧ t.main.f = 0x45#8 ∧ t.cycles = 15#32 := by decide

/-- R764. -/
theorem test_rld :
    let t := ran (has (regs 0x12#8 0x00#8 0x0000#16 0x0000#16 0x5000#16) 0x5000#16 [0x34#8])
      [0xED#8, 0x6F#8]
    t.peek 0x5000#16 = 0x42#8 ∧ t.main.a = 0x13#8 ∧ t.main.f = 0x00#8 ∧ t.cycles = 18#32 := by decide

/-- R765. -/
theorem test_rrd :
    let t := ran (has (regs 0x12#8 0x00#8 0x0000#16 0x0000#16 0x5000#16) 0x5000#16 [0x34#8])
      [0xED#8, 0x67#8]
    t.peek 0x5000#16 = 0x23#8 ∧ t.main.a = 0x14#8 ∧ t.main.f = 0x04#8 ∧ t.cycles = 18#32 := by decide

/-- R780. -/
theorem test_bit_0_b :
    let t := ran (regs 0x00#8 0x00#8 0xFE00#16 0x0000#16 0x0000#16) [0xCB#8, 0x40#8]
    t.main.f = 0x7C#8 ∧ t.cycles = 8#32 := by decide

/-- R782. -/
theorem test_bit_3_ixd :
    let t := ran (has { State.reset with ix := 0x2800#16 } 0x2810#16 [0x08#8])
      [0xDD#8, 0xCB#8, 0x10#8, 0x5E#8]
    t.main.f = 0x38#8 ∧ t.cycles = 20#32 := by decide

/-- R783. -/
theorem test_res_0_ixd_b :
    let t := ran (has { State.reset with ix := 0x4000#16 } 0x4005#16 [0x01#8])
      [0xDD#8, 0xCB#8, 0x05#8, 0x80#8]
    t.peek 0x4005#16 = 0x00#8 ∧ t.main.b = 0x00#8 ∧ t.cycles = 23#32 := by decide

/-- R784. -/
theorem test_set_7_iyd_b :
    let t := ran (has { State.reset with iy := 0x6000#16 } 0x5FFF#16 [0x00#8])
      [0xFD#8, 0xCB#8, 0xFF#8, 0xF8#8]
    t.peek 0x5FFF#16 = 0x80#8 ∧ t.main.b = 0x80#8 ∧ t.cycles = 23#32 := by decide

/-- R235. -/
theorem test_superseded_index_bytes :
    let t := ran { State.reset with ix := 0x1111#16, iy := 0x2222#16 } [0xDD#8, 0xFD#8, 0xE9#8]
    t.pc = 0x2222#16 ∧ t.r = 0x03#8 ∧ t.cycles = 12#32 := by decide

/-- R235. -/
theorem test_dropped_index_byte :
    let t := ran (regs 0x00#8 0x00#8 0x0000#16 0x0000#16 0x4000#16) [0xDD#8, 0xED#8, 0x44#8]
    t.r = 0x03#8 ∧ t.main.f = 0x42#8 ∧ t.cycles = 12#32 := by decide

/-- R781: every bit of F but X5 and X3, which are a draw. -/
theorem test_bit_3_hl :
    let t := ran (has (regs 0#8 0x01#8 0#16 0#16 0x4000#16) 0x4000#16 [0x08#8]) [0xCB#8, 0x5E#8]
    t.main.f &&& 0xD7#8 = 0x11#8 ∧ t.cycles = 12#32 := by
  refine ⟨?_, rfl⟩
  have h : ∀ d : Byte, bitFlags 3 0x08#8 (d &&& 0x28#8) 0x01#8 &&& 0xD7#8 = 0x11#8 := by decide
  exact h (Config.draw 3)

/-! ## Interrupts, halting and the host -/

/-- R809: NMI while halted with IFF1 set. -/
theorem test_nmi :
    let t := stepped { State.reset with
      nmiPending := true, halted := true, iff1 := true, iff2 := true, pc := 0x1234#16 }
    t.pc = 0x0066#16 ∧ t.iff1 = false ∧ t.iff2 = true ∧ t.halted = false ∧ t.sp = 0xFFFE#16
      ∧ t.peek 0xFFFF#16 = 0x12#8 ∧ t.peek 0xFFFE#16 = 0x34#8 ∧ t.cycles = 11#32 := by decide

/-- R812: RST 38H in mode 0 pushes PC without advancing it. -/
theorem test_int_mode_0 :
    let t := stepped { State.reset with
      intLine := true, iff1 := true, intData := 0xFF#8, pc := 0x1234#16 }
    t.pc = 0x0038#16 ∧ t.peek 0xFFFE#16 = 0x34#8 ∧ t.cycles = 13#32 := by decide

/-- R812: a byte that is no RST is refused. -/
theorem test_int_mode_0_refused :
    step { State.reset with intLine := true, iff1 := true, intData := 0xCD#8 }
      = .refused .im0Unsupported := by rfl

/-- R814: an odd device byte; the latch ends with the high byte of the vector. -/
theorem test_int_mode_2 :
    let t := stepped (has { State.reset with
      intLine := true, iff1 := true, im := .im2, i := 0x40#8, intData := 0x03#8, sp := 0x9000#16 }
      0x4003#16 [0x78#8, 0x56#8])
    t.pc = 0x5678#16 ∧ t.bus = 0x56#8 ∧ t.r = 0x01#8 ∧ t.cycles = 19#32 := by decide

/-- R604: the step after EI runs an instruction although the request is held, and the step after
that accepts. -/
theorem test_ei_delays_one_step :
    let s := { State.reset with intLine := true, im := .im1, pc := 0x0100#16 }
    let t := stepped (stepped (has s 0x0100#16 [0xFB#8, 0x00#8]))
    t.pc = 0x0102#16 ∧ (stepped t).pc = 0x0038#16 ∧ (stepped t).peek 0xFFFE#16 = 0x02#8 := by decide

/-- R602: a halted step. -/
theorem test_halted_step :
    let t := stepped { State.reset with halted := true, pc := 0x0011#16, r := 0xFF#8 }
    t.pc = 0x0011#16 ∧ t.r = 0x80#8 ∧ t.cycles = 4#32 ∧ t.calls = [] := by decide

/-- R163: the calls of EX (SP),HL, newest first, after its own fetch. -/
theorem test_calls_of_ex_sp_hl :
    (ran (has { State.reset with sp := 0x8000#16 } 0x8000#16 [0#8, 0#8]) [0xE3#8]).calls
      = [.memWrite 0x8000#16 0#8, .memWrite 0x8001#16 0#8, .memRead 0x8001#16 0#8,
         .memRead 0x8000#16 0#8, .memRead 0x0000#16 0xE3#8] := by decide

/-- R165: a read of an address that is no plain RAM is a draw, although a byte was written there;
the addresses beside the region are plain RAM. -/
theorem test_read_of_no_ram :
    let s := has { State.reset with params := { State.reset.params with
      notRam := [{ first := 0x4000#16, last := 0x4001#16 }] } } 0x3FFF#16 [1#8, 2#8, 3#8, 4#8]
    s.peek 0x3FFF#16 = 1#8 ∧ s.peek 0x4000#16 = Config.memPort 0 0x4000#16
      ∧ (s.write 0x4001#16 9#8).peek 0x4001#16 = Config.memPort 1 0x4001#16
      ∧ s.peek 0x4002#16 = 4#8 := ⟨rfl, rfl, rfl, rfl⟩

/-- R826: the read of the low byte changes the high byte and a port, and the read of the high byte
returns the new one, in the same step. -/
theorem test_side_effect_is_seen_in_the_step :
    let s := { has State.reset 0x8000#16 [0xCD#8, 0xAB#8] with
      sideEffects := [[.port 7#8 1#8, .memory 0x8001#16 0x55#8]] }
    ∃ t, exec (.ld_hl__nn 0x8000#16) s = .next t ∧ t.main.h = 0x55#8 ∧ t.main.l = 0xCD#8
      ∧ t.portValue 7#8 = 1#8 ∧ t.sideEffects = [] := ⟨_, rfl, rfl, rfl, rfl, rfl⟩

/-- R801: PUSH BC whose second write fails stops with the first byte written. -/
theorem test_push_fails_at_second_write :
    ∃ c : Snapshot, exec (.push_bc .none)
        { regs 0#8 0#8 0x1234#16 0#16 0#16 with failAfter := some 1 } = .fault (.portFailure c)
      ∧ c.mem = [(0xFFFF, 0x12#8)] ∧ c.sp = 0xFFFE#16
      ∧ c.calls = [.memWrite 0xFFFF#16 0x12#8] := ⟨_, rfl, rfl, rfl, rfl⟩

/-- R86: a set of IM outside its values is refused, and a set of a pair masks. -/
theorem test_accessor :
    State.reset.hostMove (.set .im 3) = .refused .imOutOfRange
      ∧ State.reset.hostMove (.set (.r16 .hl) 0x11234)
        = .next (State.reset.setR16 .hl 0x1234#16) := ⟨rfl, rfl⟩

/-- R152: fetched by the host's placing, an instruction runs first after reset. -/
theorem test_with_fetch_word :
    (stepped (State.reset.withFetchWord 24 0x1234C3)).pc = 0x1234#16 := by decide

/-! ## Witnesses: every statement's hypotheses can be met

Reset has no failing port, canonical memory and no interrupt; each witness below names the statement
it is for, with a value under each of its clauses. -/

theorem witness_quiet :
    State.reset.failAfter = none ∧ State.reset.mem.wf = true ∧ State.reset.Inv := by
  refine ⟨rfl, rfl, ?_⟩
  exact ⟨rfl, rfl, by decide, rfl⟩

theorem witness_DecodeOfEncode : Instr.wellFormed (.retn 0x7D#8) = true := by decide

theorem witness_StepRunsDecodedInstruction :
    let s := State.reset.withBytes [0xDD#8, 0x36#8, 0x10#8, 0x55#8]
    runsInstruction s
      ∧ decode [s.byteAfter 0, s.byteAfter 1, s.byteAfter 2, s.byteAfter 3]
        = .ok (.ld__ixd__n 0x10#8 0x55#8, []) :=
  ⟨⟨rfl, rfl, rfl⟩, rfl⟩

/-- Lengths 1, 2 and 4, the bounds of the statement, with each value of `leads`. -/
theorem witness_FetchingTheInstruction :
    (leads 0x00#8 = false ∧ (1 ≤ 1 ∧ 1 ≤ 4 ∧ (leads 0x00#8 = true → 2 ≤ 1)))
      ∧ (leads 0xCB#8 = true ∧ (1 ≤ 2 ∧ 2 ≤ 4 ∧ (leads 0xCB#8 = true → 2 ≤ 2)))
      ∧ (leads 0xDD#8 = true ∧ (1 ≤ 4 ∧ 4 ≤ 4 ∧ (leads 0xDD#8 = true → 2 ≤ 4))) := by decide

theorem witness_StepIsDispatchLoop : runsInstruction State.reset := ⟨rfl, rfl, rfl⟩

theorem witness_HaltedStep :
    let s := { State.reset with halted := true }
    s.nmiPending = false ∧ s.acceptsInt = false ∧ s.halted = true := by decide

theorem witness_NonMaskableAcceptance :
    let s := { State.reset with nmiPending := true, intLine := true, iff1 := true }
    s.nmiPending = true ∧ s.failAfter = none ∧ s.mem.wf = true := by decide

/-- The last RST byte, and the byte before it, which is none. -/
theorem witness_AcceptanceInMode0 :
    (∀ v : Byte,
      let s := { State.reset with intLine := true, iff1 := true, intData := v }
      takesInt s ∧ s.im = .im0 ∧ s.failAfter = none ∧ s.mem.wf = true)
      ∧ 0xFF#8 &&& 0xC7#8 = 0xC7#8 ∧ 0xFE#8 &&& 0xC7#8 ≠ 0xC7#8 :=
  ⟨fun _ => ⟨⟨rfl, rfl, rfl, rfl⟩, rfl, rfl, rfl⟩, by decide, by decide⟩

theorem witness_AcceptanceInMode1 :
    let s := { State.reset with intLine := true, iff1 := true, im := .im1 }
    takesInt s ∧ s.im = .im1 ∧ s.failAfter = none ∧ s.mem.wf = true :=
  ⟨⟨rfl, rfl, rfl, rfl⟩, rfl, rfl, rfl⟩

/-- The vector at the top of the address space. -/
theorem witness_AcceptanceInMode2 :
    let s := { State.reset with
      intLine := true, iff1 := true, im := .im2, i := 0xFF#8, intData := 0xFF#8 }
    takesInt s ∧ s.im = .im2 ∧ s.failAfter = none ∧ s.mem.wf = true :=
  ⟨⟨rfl, rfl, rfl, rfl⟩, rfl, rfl, rfl⟩

theorem witness_EnableTakesEffectOneStepLater :
    let s := { State.reset.withBytes [0xFB#8] with intLine := true, iff1 := false }
    runsInstruction s ∧ s.failAfter = none ∧ s.peek s.pc = 0xFB#8 :=
  ⟨⟨rfl, rfl, rfl⟩, rfl, rfl⟩

/-- A byte at each of n addresses from b on. -/
def filled (v : Byte) (b n : Nat) : Memory := (List.range' b n).map fun k => (k, v)

theorem read_filled (v : Byte) (b n a : Nat) (h1 : b ≤ a) (h2 : a < b + n) :
    (filled v b n).read a = v := by
  induction n generalizing b with
  | zero => omega
  | succ n ih =>
    simp only [filled, List.range'_succ, List.map_cons, Memory.read]
    split
    · rfl
    · exact ih (b + 1) (by omega) (by omega)

/-- Every fetch reads the byte that fills memory while all of it is plain RAM and no call has side
effects. -/
theorem byteAfter_filled (n : Nat) (v : Byte) {s : State} (hm : s.mem = filled v 0 65536)
    (hr : s.params.notRam = []) (he : s.sideEffects = []) : s.byteAfter n = v := by
  induction n generalizing s with
  | zero =>
    have hb : s.byteAt s.pc = some v := by
      simp only [State.byteAt, Params.isRam, hr, hm, List.all_nil, if_true]
      exact read_filled v 0 65536 s.pc.toNat (Nat.zero_le _) (by have := s.pc.isLt; omega)
    change s.peek s.pc = v
    simp only [State.peek, hb]
  | succ n ih =>
    refine ih (s := s.fetchByte) ?_ hr ?_
    · simp only [State.fetchByte_mem, State.effects, he, hm, List.headD_nil, Memory.after]
    · simp only [State.fetchByte_sideEffects, he, List.drop_nil]

theorem witness_EndlessIndexChainHangs :
    let s := { State.reset with mem := filled 0xDD#8 0 65536 }
    runsInstruction s ∧ s.failAfter = none ∧ ∀ n, s.byteAfter n = 0xDD#8 ∨ s.byteAfter n = 0xFD#8 :=
  ⟨⟨rfl, rfl, rfl⟩, rfl, fun n => .inl (byteAfter_filled n 0xDD#8 rfl rfl rfl)⟩

/-- The first call fails; one call succeeds and a NOP makes one; the second write of a PUSH fails.
-/
theorem witness_PortFailureEndsTheRun :
    runsInstruction { State.reset with failAfter := some 0 }
      ∧ (∃ c, step { State.reset.withBytes [0x00#8] with failAfter := some 0 }
          = .fault (.portFailure c))
      ∧ (∃ t, step { State.reset.withBytes [0x00#8] with failAfter := some 1 } = .next t)
      ∧ (let s := { State.reset with failAfter := some 1 }
         s.failAfter = some (s.calls.length + 1)
           ∧ ∃ row, row ∈ pushes .none) :=
  ⟨⟨rfl, rfl, rfl⟩, ⟨_, rfl⟩, ⟨_, rfl⟩, rfl, _, List.mem_of_getElem? (i := 0) rfl⟩

theorem witness_NothingElseStopsAStep :
    (∃ c, step { State.reset.withBytes [0x00#8] with failAfter := some 0 }
          = .fault (.portFailure c))
      ∧ step { State.reset with intLine := true, iff1 := true } = .refused .im0Unsupported :=
  ⟨⟨_, rfl⟩, rfl⟩

theorem witness_StepKeepsInvariant :
    let s := State.reset.withBytes [0x00#8]
    ∃ t, s.Inv ∧ step s = .next t :=
  ⟨_, ⟨rfl, rfl, by decide, rfl⟩, rfl⟩

/-- The greatest value IM takes, and the least it does not. -/
theorem witness_AccessorSetThenGet :
    ¬(AccName.im = .im ∧ 2 < 2) ∧ (AccName.im = .im ∧ 2 < 3) := by decide

/-- No call to come has a side effect, so every address keeps what is stored. -/
theorem reset_keeps (a : Word) : State.reset.keeps a := ⟨rfl, fun _ h => nomatch h⟩

/-- The ends of a region that is no plain RAM, and the addresses beside it. -/
theorem witness_ReadAfterWrite :
    State.reset.mem.wf = true ∧ (∀ a, State.reset.keeps a)
      ∧ State.reset.byteAt 0x0000#16 = none
      ∧ (has State.reset 0x0000#16 [0x05#8]).byteAt 0x0000#16 = some 0x05#8
      ∧ (let p := { State.reset.params with notRam := [{ first := 0x0001#16, last := 0xFFFE#16 }] }
         p.isRam 0x0000#16 = true ∧ p.isRam 0x0001#16 = false ∧ p.isRam 0xFFFE#16 = false
           ∧ p.isRam 0xFFFF#16 = true) := by
  refine ⟨rfl, reset_keeps, rfl, rfl, ?_⟩
  decide

/-- Side effects that end with a byte of memory, at the address that wraps, and ones that end with a
port's answer. -/
theorem witness_PortCallSideEffects :
    (let s := { State.reset with sideEffects := [[.port 0#8 1#8, .memory (0xFFFF#16 + 1#16) 2#8], []] }
     s.sideEffects = ([.port 0#8 1#8] ++ [.memory (0xFFFF#16 + 1#16) 2#8]) :: [[]]
       ∧ s.params.isRam (0xFFFF#16 + 1#16) = true ∧ s.failAfter = none)
      ∧ { State.reset with sideEffects := [[.port 0#8 1#8]] }.sideEffects
        = ([] ++ [.port 0#8 1#8]) :: [] :=
  ⟨⟨rfl, rfl, rfl⟩, rfl⟩

theorem witness_ControlStateWriters :
    .halt .none ∉ dispatchRows ∧ ∃ t, exec (.halt .none) State.reset = .next t :=
  ⟨by simp [dispatchRows], _, rfl⟩

theorem witness_EveryInstructionCompletes :
    .otdr ∉ dispatchRows ∧ State.reset.failAfter = none :=
  ⟨by simp [dispatchRows], rfl⟩

theorem witness_IgnoredIndexByte :
    State.reset.Recorded ∧ ∃ f, f ∈ ignored 0x42#8 0x1234#16 :=
  ⟨fun h => absurd h (by decide), _, List.mem_of_getElem? (i := 0) rfl⟩

/-- A byte that does not lead on, and one that does. -/
theorem witness_DispatchRows :
    State.reset.failAfter = none ∧ leads ((State.reset.withBytes [0x00#8]).byteAfter 0) = false
      ∧ leads ((State.reset.withBytes [0xED#8]).byteAfter 0) = true := ⟨rfl, rfl, rfl⟩

/-- Taken and not taken, at the two values of Z. -/
theorem witness_Jumps :
    ∃ row, row ∈ jumps State.reset .none 0x80#8 0xFFFF#16
      ∧ taken row.data.1 0x40#8 = true ∧ taken row.data.1 0x00#8 = false :=
  ⟨⟨.jp_z_nn .none 0xFFFF#16, _, _, _⟩, List.mem_of_getElem? (i := 6) rfl, by decide, by decide⟩

/-- B = 1 ends the loop, and B = 0 branches. -/
theorem witness_DecrementAndJump :
    (regs 0#8 0#8 0x0100#16 0#16 0#16).main.b = 1#8
      ∧ ¬(regs 0#8 0#8 0x0000#16 0#16 0#16).main.b = 1#8 := by decide

theorem witness_Calls :
    State.reset.failAfter = none ∧ State.reset.mem.wf = true
      ∧ ∃ row, row ∈ calls .none 0x9000#16
        ∧ taken row.data.1 0x40#8 = true ∧ taken row.data.1 0x00#8 = false :=
  ⟨rfl, rfl, ⟨.call_z_nn .none 0x9000#16, _, _, _⟩, List.mem_of_getElem? (i := 10) rfl,
    by decide, by decide⟩

theorem witness_Returns :
    State.reset.failAfter = none
      ∧ ∃ row, row ∈ returns .none
        ∧ taken row.data.1 0x40#8 = true ∧ taken row.data.1 0x00#8 = false :=
  ⟨rfl, ⟨.ret_z .none, _, _, _⟩, List.mem_of_getElem? (i := 2) rfl, by decide, by decide⟩

theorem witness_ReturnsFromInterrupt : { State.reset with iff2 := true }.failAfter = none := by decide

theorem witness_RegisterLoads : ∃ row, row ∈ registerLoads .dd :=
  ⟨_, List.mem_of_getElem? (i := 0) rfl⟩

theorem witness_ImmediateLoads : ∃ row, row ∈ immediateLoads .none 0xFF#8 :=
  ⟨_, List.mem_of_getElem? (i := 0) rfl⟩

theorem witness_ByteLoads :
    State.reset.failAfter = none ∧ ∃ row, row ∈ byteLoads State.reset .none 0x80#8 0xFFFF#16 :=
  ⟨rfl, _, List.mem_of_getElem? (i := 0) rfl⟩

theorem witness_ByteStores :
    State.reset.failAfter = none ∧ State.reset.mem.wf = true
      ∧ ∃ row, row ∈ byteStores State.reset .none 0x80#8 0x01#8 0xFFFF#16 :=
  ⟨rfl, rfl, _, List.mem_of_getElem? (i := 0) rfl⟩

theorem witness_PairLoads : ∃ row, row ∈ pairLoads State.reset .none 0xFFFF#16 :=
  ⟨_, List.mem_of_getElem? (i := 0) rfl⟩

/-- The word that wraps. -/
theorem witness_WordLoads : State.reset.failAfter = none ∧ ∃ row, row ∈ wordLoads 0xFFFF#16 :=
  ⟨rfl, _, List.mem_of_getElem? (i := 0) rfl⟩

theorem witness_WordStores :
    State.reset.failAfter = none ∧ State.reset.mem.wf = true ∧ ∃ row, row ∈ wordStores 0xFFFF#16 :=
  ⟨rfl, rfl, _, List.mem_of_getElem? (i := 0) rfl⟩

theorem witness_Pushes :
    State.reset.failAfter = none ∧ State.reset.mem.wf = true ∧ ∃ row, row ∈ pushes .none :=
  ⟨rfl, rfl, _, List.mem_of_getElem? (i := 0) rfl⟩

theorem witness_Pops : State.reset.failAfter = none ∧ ∃ row, row ∈ pops .none :=
  ⟨rfl, _, List.mem_of_getElem? (i := 0) rfl⟩

theorem witness_StackExchanges :
    State.reset.failAfter = none ∧ State.reset.mem.wf = true ∧ ∃ row, row ∈ stackExchanges :=
  ⟨rfl, rfl, _, List.mem_of_getElem? (i := 0) rfl⟩

/-- A repeating row, with the last count and one that goes on. -/
theorem witness_BlockTransfers :
    State.reset.failAfter = none ∧ State.reset.mem.wf = true
      ∧ (∃ row, row ∈ blockTransfers ∧ row.data.2 = true)
      ∧ 1#16 - 1#16 = 0#16 ∧ 0#16 - 1#16 ≠ 0#16 :=
  ⟨rfl, rfl, ⟨⟨.ldir, _, _, _⟩, List.mem_of_getElem? (i := 2) rfl, rfl⟩, by decide, by decide⟩

theorem witness_BlockSearches :
    State.reset.failAfter = none ∧ ∃ row, row ∈ blockSearches ∧ row.data.2 = true :=
  ⟨rfl, ⟨.cpir, _, _, _⟩, List.mem_of_getElem? (i := 2) rfl, rfl⟩

theorem witness_Inputs : State.reset.failAfter = none ∧ ∃ row, row ∈ registerInputs :=
  ⟨rfl, _, List.mem_of_getElem? (i := 0) rfl⟩

theorem witness_Outputs :
    State.reset.failAfter = none ∧ ∃ row, row ∈ outputs State.reset .none 0xFF#8 :=
  ⟨rfl, _, List.mem_of_getElem? (i := 0) rfl⟩

theorem witness_BlockInputsAndOutputs :
    State.reset.failAfter = none ∧ State.reset.mem.wf = true ∧ (∃ row, row ∈ blockInputs)
      ∧ ∃ row, row ∈ blockOutputs :=
  ⟨rfl, rfl, ⟨_, List.mem_of_getElem? (i := 0) rfl⟩, _, List.mem_of_getElem? (i := 0) rfl⟩

theorem witness_AccumulatorOperations :
    State.reset.failAfter = none ∧ ∃ row, row ∈ accumulators State.reset .none 0x80#8 0xFF#8 :=
  ⟨rfl, _, List.mem_of_getElem? (i := 0) rfl⟩

theorem witness_ByteIncrementsAndDecrements :
    State.reset.failAfter = none ∧ State.reset.mem.wf = true
      ∧ ∃ row, row ∈ byteCounts State.reset .none 0x80#8 :=
  ⟨rfl, rfl, _, List.mem_of_getElem? (i := 0) rfl⟩

theorem witness_PairAdditions : ∃ row, row ∈ pairSums := ⟨_, List.mem_of_getElem? (i := 0) rfl⟩

theorem witness_PairAdditionsWithCarry : ∃ row, row ∈ carrySums :=
  ⟨_, List.mem_of_getElem? (i := 0) rfl⟩

theorem witness_PairIncrementsAndDecrements : ∃ row, row ∈ pairCounts .none :=
  ⟨_, List.mem_of_getElem? (i := 0) rfl⟩

theorem witness_AccumulatorRotates : ∃ row, row ∈ accumulatorRotates .none :=
  ⟨_, List.mem_of_getElem? (i := 0) rfl⟩

theorem witness_RotatesAndShifts :
    State.reset.failAfter = none ∧ State.reset.mem.wf = true
      ∧ ∃ row, row ∈ rotates State.reset 0x80#8 :=
  ⟨rfl, rfl, _, List.mem_of_getElem? (i := 0) rfl⟩

theorem witness_DigitRotates : State.reset.failAfter = none ∧ State.reset.mem.wf = true := by decide

theorem witness_BitTests :
    State.reset.failAfter = none ∧ ∃ row, row ∈ bitTests State.reset 7#3 0x80#8 :=
  ⟨rfl, _, List.mem_of_getElem? (i := 0) rfl⟩

theorem witness_BitResetsAndSets :
    State.reset.failAfter = none ∧ State.reset.mem.wf = true
      ∧ ∃ row, row ∈ bitChanges State.reset 0x80#8 :=
  ⟨rfl, rfl, _, List.mem_of_getElem? (i := 0) rfl⟩

end Sys2Proof.Tests
end

section
/-! SUPPORT. The fetching of an instruction: it is so many calls of `FetchByte()`, but for R,
`prefix` and the record of a failing call (`fetchInstr_eq_fetchBytes`). -/

namespace Sys2Proof.Machine

section

variable (s : State)

/-- `FetchByte()` neither reads nor writes R and `prefix` (R18), but the record of a failing call
keeps them (R801). -/
theorem fetchBytes_of_r_pfx (n : Nat) (r : Byte) (x : IndexByte) (f : Option Snapshot) :
    ∃ f', State.fetchBytes n { s with r := r, pfx := x, atFailure := f }
      = { State.fetchBytes n s with r := r, pfx := x, atFailure := f' } := by
  induction n generalizing s f with
  | zero => exact ⟨f, rfl⟩
  | succ n ih =>
    exact ih s.fetchByte { s with r := r, pfx := x, atFailure := f : State }.fetchByte.atFailure

/-- R after the fetching of an instruction (R18, R67). -/
theorem counts_eq_refresh (r b0 : Byte) :
    Claims.counts r (if leads b0 then 2 else 1)
      = if leads b0 then refresh (refresh r) else refresh r := by
  cases leads b0 with
  | false => exact (refresh_eq r).symm
  | true => exact (refresh_refresh_eq r).symm

/-- The opcode fetches of an instruction read as `FetchByte()` does, and count R beside. -/
theorem fetchInstr_eq_fetchBytes (b0 : Byte) (len : Nat) (h1 : 1 ≤ len)
    (h2 : leads b0 = true → 2 ≤ len) :
    ∃ f, s.fetchInstr b0 len
      = { State.fetchBytes len s with
          r := Claims.counts s.r (if leads b0 then 2 else 1), pfx := indexOf b0, atFailure := f } := by
  rw [counts_eq_refresh]
  cases hl : leads b0 with
  | false =>
    obtain ⟨n, rfl⟩ := Nat.exists_eq_add_of_le' h1
    rw [fetchInstr_plain hl]
    exact fetchBytes_of_r_pfx s.fetchByte n (refresh s.r) (indexOf b0) _
  | true =>
    obtain ⟨n, rfl⟩ := Nat.exists_eq_add_of_le' (h2 hl)
    rw [fetchInstr_lead hl]
    exact fetchBytes_of_r_pfx s.fetchByte.fetchByte n (refresh (refresh s.r)) (indexOf b0) _

/-- Each call has the side effects next in the schedule (R826). -/
theorem fetchBytes_sideEffects (n : Nat) :
    (State.fetchBytes n s).sideEffects = s.sideEffects.drop n := by
  induction n generalizing s with
  | zero => rfl
  | succ n ih =>
    calc (State.fetchBytes n s.fetchByte).sideEffects
        = (s.sideEffects.drop 1).drop n := ih s.fetchByte
      _ = s.sideEffects.drop (n + 1) := by rw [List.drop_drop, Nat.add_comm]

end

/-- Settles O5: R and `prefix` aside, the fetching is `len` calls of `FetchByte()`, whose effects
are known by induction on their number. -/
theorem fetchingTheInstruction : Obligations.FetchingTheInstruction := by
  unfold Obligations.FetchingTheInstruction
  intro s b0 len h1 _ h2
  have hbus : (State.fetchBytes len s).bus = s.byteAfter (len - 1) := by
    rw [← fetchBytes_bus, Nat.sub_add_cancel h1]
  have hframe := frame_fetchInstr s b0 len
  obtain ⟨f, hf⟩ := fetchInstr_eq_fetchBytes s b0 len h1 h2
  rw [hf] at hframe ⊢
  exact ⟨fetchBytes_pc s len, rfl, rfl, fetchBytes_calls s len, hbus,
    fetchBytes_sideEffects s len, fetchBytes_cycles s len, hframe⟩

end Sys2Proof.Machine
end

section
/-! SUPPORT. The control elements of the register file: what `look` shows tells them, and an
instruction writes only those it is a writer of (`Did.look_eq_or_isWriter`); with it the invariant,
case by case of a step. -/

namespace Sys2Proof.Machine

section

variable {i : Instr} {s t u : State} {e : Elem}

/-! ## What `look` shows tells the element -/

theorem boolToNat_injective : Function.Injective Bool.toNat :=
  Function.LeftInverse.injective Bool.ofNat_toNat

theorem State.halted_eq_of_look (h : t.look .halted = s.look .halted) : t.halted = s.halted :=
  boolToNat_injective h

theorem State.iff1_eq_of_look (h : t.look .iff1 = s.look .iff1) : t.iff1 = s.iff1 :=
  boolToNat_injective h

theorem State.iff2_eq_of_look (h : t.look .iff2 = s.look .iff2) : t.iff2 = s.iff2 :=
  boolToNat_injective h

theorem State.eiPending_eq_of_look (h : t.look .eiPending = s.look .eiPending) :
    t.eiPending = s.eiPending :=
  boolToNat_injective h

theorem State.nmiPending_eq_of_look (h : t.look .nmiPending = s.look .nmiPending) :
    t.nmiPending = s.nmiPending :=
  boolToNat_injective h

theorem State.i_eq_of_look (h : t.look .i = s.look .i) : t.i = s.i :=
  BitVec.eq_of_toNat_eq h

theorem State.r_eq_of_look (h : t.look .r = s.look .r) : t.r = s.r :=
  BitVec.eq_of_toNat_eq h

theorem imNumber_injective : Function.Injective imNumber := by
  intro m n; cases m <;> cases n <;> decide

theorem State.im_eq_of_look (h : t.look .im = s.look .im) : t.im = s.im :=
  imNumber_injective h

theorem pfxNumber_injective : Function.Injective pfxNumber := by
  intro x y; cases x <;> cases y <;> decide

theorem State.pfx_eq_of_look (h : t.look .pfx = s.look .pfx) : t.pfx = s.pfx :=
  pfxNumber_injective h

/-- The shadow set is its eight registers (R56). -/
theorem State.alt_eq_of_look (h : ∀ r, t.look (.shadow r) = s.look (.shadow r)) :
    t.alt = s.alt := by
  have hr (r : Shadow8) : t.getShadow8 r = s.getShadow8 r := BitVec.eq_of_toNat_eq (h r)
  calc t.alt
      = ⟨t.getShadow8 .a, t.getShadow8 .f, t.getShadow8 .b, t.getShadow8 .c, t.getShadow8 .d,
          t.getShadow8 .e, t.getShadow8 .h, t.getShadow8 .l⟩ := rfl
    _ = s.alt := by simp only [hr]; rfl

/-! ## The writers of each element -/

/-- Whether an instruction is a writer of an element of control state (R66, R67, R70, R72, R74, R76,
R803); of the other elements nothing is said. -/
def IsWriter (i : Instr) : Elem → Prop
  | .halted => ∃ p, i = .halt p
  | .i => i = .ld_i_a
  | .r => i = .ld_r_a
  | .im => ∃ op, i = .im_0 op ∨ i = .im_1 op ∨ i = .im_2 op
  | .eiPending => ∃ p, i = .ei p
  | .iff1 => (∃ p, i = .di p ∨ i = .ei p) ∨ i = .reti ∨ ∃ op, i = .retn op
  | .iff2 => ∃ p, i = .di p ∨ i = .ei p
  | .shadow _ => ∃ p, i = .ex_af_af p ∨ i = .exx p
  | .nmiPending => False
  | .pfx => False
  | .r8 _ => True
  | .f => True
  | .sp => True
  | .pc => True
  | .bus => True

/-- The elements most instructions may write are none of control state. -/
theorem isWriter_of_mem_commonWrites (h : e ∈ commonWrites) : IsWriter i e := by
  fin_cases h <;> trivial

theorem isWriter_of_mem_mayWrite (h : e ∈ mayWrite i) : IsWriter i e := by
  unfold mayWrite at h
  split at h
  case h_13 => exact isWriter_of_mem_commonWrites h
  all_goals fin_cases h <;> simp [IsWriter]

/-- A row outside the table of prefix rows goes no further with the dispatch. -/
theorem onward_eq_false_of_notMem (h : i ∉ Claims.dispatchRows) : onward i = false := by
  rw [← Bool.not_eq_true]
  refine fun ho => h ?_
  unfold onward at ho
  split at ho
  case h_10 => cases ho
  case h_7 x => cases x <;> simp [Claims.dispatchRows]
  case h_8 x => cases x <;> simp [Claims.dispatchRows]
  case h_9 x => cases x <;> simp [Claims.dispatchRows]
  all_goals simp [Claims.dispatchRows]

/-- An instruction that completes wrote at most what it may write. -/
theorem did_of_exec_next (ho : onward i = false) (h : exec i s = .next t) :
    ∃ cyc made m o, Did s t cyc made (mayWrite i) m o := by
  obtain ⟨u, cyc, made, m, o, d, hu⟩ := exec_answers i s ho
  rw [h] at hu
  rcases hu with ⟨hu, -⟩ | hu
  · cases hu; exact ⟨cyc, made, m, o, d⟩
  · obtain ⟨rfl, -⟩ := eq_of_finish_next hu.symm
    exact ⟨cyc, made, m, o, d⟩

theorem Did.look_eq_or_isWriter {cyc : Nat} {made : List PortCall} {m : List Word}
    {o : List (Byte × Byte)} (d : Did s t cyc made (mayWrite i) m o) (he : e ≠ .bus) :
    t.look e = s.look e ∨ IsWriter i e := by
  by_cases hw : e ∈ mayWrite i
  · exact .inr (isWriter_of_mem_mayWrite hw)
  · exact .inl (d.frame.elems e (List.not_mem_cons_of_ne_of_not_mem he hw))

/-- EI sets both flip-flops (R604). -/
theorem iff_of_exec_ei {p : IndexByte} (h : exec (.ei p) s = .next t) :
    t.iff1 = true ∧ t.iff2 = true := by
  obtain rfl : ei (4 + extra p) s = t := Host.Outcome.next.inj h
  exact ⟨rfl, rfl⟩

/-! ## The invariant, case by case (R230) -/

/-- An acceptance clears EI-pending and leaves `prefix` alone. -/
theorem inv_of_accept (hs : s.Inv)
    (ha : s.nmiPending = true ∨ s.nmiPending = false ∧ s.acceptsInt = true)
    (h : step s = .next t) : t.Inv := by
  obtain ⟨hF, hei, hf⟩ := accept_next h ha
  have hp : t.pfx = s.pfx := State.pfx_eq_of_look (hF.elems .pfx (by decide))
  exact { wf := hF.wf hs.wf
          pfx := hp.trans hs.pfx
          ei := fun he => absurd (hei.symm.trans he) Bool.false_ne_true
          atFailure := hF.unfailed hf }

/-- The halted cycle clears EI-pending. -/
theorem inv_of_halted (hs : s.Inv) : (haltedCycle { s.beginStep with eiPending := false }).Inv where
  wf := hs.wf
  pfx := hs.pfx
  ei he := absurd he Bool.false_ne_true
  atFailure := rfl

/-- An instruction run with EI-pending clear: EI alone sets the flag, and sets both flip-flops with
it. -/
theorem RunsOne.inv (h : RunsOne s (.next t)) (hw : s.mem.wf = true) (hei : s.eiPending = false)
    (ha : s.atFailure = none) : t.Inv := by
  obtain ⟨i, u, v, cyc, made, m, o, -, hu, hd, hf, rfl, hx⟩ := h.next
  have hF := hu.trans hd.frame
  refine { wf := hF.wf hw, pfx := rfl, ei := fun (he : v.eiPending = true) => ?_,
           atFailure := (hF.unfailed hf).trans ha }
  have hui : u.eiPending = false :=
    (State.eiPending_eq_of_look (hu.elems .eiPending (by decide))).trans hei
  rcases hd.look_eq_or_isWriter (e := .eiPending) (by decide) with hk | ⟨p, rfl⟩
  · have hvi : v.eiPending = false := (State.eiPending_eq_of_look hk).trans hui
    exact absurd (hvi.symm.trans he) Bool.false_ne_true
  · have hv : v.iff1 = true ∧ v.iff2 = true := iff_of_exec_ei hx
    exact hv

end

/-- Settles O16: an acceptance, a halted cycle and the running of an instruction each keep it. -/
theorem stepKeepsInvariant : Obligations.StepKeepsInvariant := by
  unfold Obligations.StepKeepsInvariant
  intro s t hs h
  cases hn : s.nmiPending with
  | true => exact inv_of_accept hs (.inl hn) h
  | false =>
  cases hi : s.acceptsInt with
  | true => exact inv_of_accept hs (.inr ⟨hn, hi⟩) h
  | false =>
  cases hh : s.halted with
  | true =>
    obtain rfl := Host.Outcome.next.inj ((step_of_halted s hn hi hh).symm.trans h)
    exact inv_of_halted hs
  | false =>
    have hrun := (step_of_run s hn hi hh).symm.trans h
    have hr : ({ s.beginStep with eiPending := false } : State).Recorded :=
      recorded_of_unfailed (beginStep_unfailed s)
    exact (runInstr_next hr hrun).inv hs.wf rfl rfl

/-- Settles O17: nothing is listed in memory, and the flag of R76 is clear. -/
theorem resetHasInvariant : Obligations.ResetHasInvariant where
  wf := State.reset_mem_wf
  pfx := rfl
  ei he := absurd he Bool.false_ne_true
  atFailure := rfl

/-- Settles O18: each is the value `State.reset` is defined with. -/
theorem resetValues : Obligations.ResetValues :=
  ⟨rfl, rfl, rfl, rfl, rfl, rfl, rfl, rfl, rfl, rfl⟩

/-- Settles O23: an instruction that completes wrote at most what it may write, and of the control
state it may write only what it is a writer of. -/
theorem controlStateWriters : Obligations.ControlStateWriters := by
  unfold Obligations.ControlStateWriters
  intro i s t hi h
  obtain ⟨cyc, made, m, o, d⟩ := did_of_exec_next (onward_eq_false_of_notMem hi) h
  have keeps (e : Elem) (he : e ≠ .bus) := d.look_eq_or_isWriter he
  refine ⟨State.nmiPending_eq_of_look ((keeps .nmiPending nofun).resolve_right id),
    State.pfx_eq_of_look ((keeps .pfx nofun).resolve_right id),
    (keeps .halted nofun).imp_left State.halted_eq_of_look,
    (keeps .i nofun).imp_left State.i_eq_of_look,
    (keeps .r nofun).imp_left State.r_eq_of_look,
    (keeps .im nofun).imp_left State.im_eq_of_look,
    (keeps .eiPending nofun).imp_left State.eiPending_eq_of_look,
    (keeps .iff1 nofun).imp_left State.iff1_eq_of_look,
    (keeps .iff2 nofun).imp_left State.iff2_eq_of_look,
    or_iff_not_imp_right.2 fun hn => State.alt_eq_of_look fun r => ?_⟩
  exact (keeps (.shadow r) nofun).resolve_right hn

end Sys2Proof.Machine
end

section
/-! SUPPORT. The accessor (R84, R86): what a set through it answers, and what a get then gives. -/

namespace Sys2Proof.Machine

section

variable {s : State} {n : AccName} {v : Nat}

@[simp] theorem State.getShadow8_setShadow8_self (s : State) (r : Shadow8) (v : Byte) :
    (s.setShadow8 r v).getShadow8 r = v := by cases r <;> rfl

@[simp] theorem State.getShadow16_setShadow16_self (s : State) (r : Shadow16) (v : Word) :
    (s.setShadow16 r v).getShadow16 r = v := by cases r <;> exact pair_hi_lo v

/-- A flip-flop takes the low bit of what it is set to. -/
theorem toNat_testBit_zero (v : Nat) : (v.testBit 0).toNat = v % 2 ^ 1 := by
  rw [Nat.toNat_testBit, pow_zero, Nat.div_one, pow_one]

/-- IM takes 0, 1 and 2. -/
theorem accessorSet_im_next (hv : v ≤ 2) :
    ∃ t, s.accessorSet .im v = .next t ∧ t.accessorGet .im = v % 2 ^ 2 :=
  match v, hv with
  | 0, _ => ⟨_, rfl, rfl⟩
  | 1, _ => ⟨_, rfl, rfl⟩
  | 2, _ => ⟨_, rfl, rfl⟩

theorem accessorSet_im_refused (hv : 2 < v) : s.accessorSet .im v = .refused .imOutOfRange :=
  match v, hv with
  | _ + 3, _ => rfl

/-- A set of any other name is read back modulo its width. -/
theorem accessorSet_next_of_ne_im (hn : n ≠ .im) :
    ∃ t, s.accessorSet n v = .next t ∧ t.accessorGet n = v % 2 ^ Claims.widthOf n := by
  cases n with
  | r8 r =>
    exact ⟨_, rfl, (congrArg BitVec.toNat (State.getR8_setR8_self s r _)).trans
      (BitVec.toNat_ofNat v 8)⟩
  | shadow8 r =>
    exact ⟨_, rfl, (congrArg BitVec.toNat (State.getShadow8_setShadow8_self s r _)).trans
      (BitVec.toNat_ofNat v 8)⟩
  | r16 r =>
    exact ⟨_, rfl, (congrArg BitVec.toNat (State.getR16_setR16_self s r _)).trans
      (BitVec.toNat_ofNat v 16)⟩
  | shadow16 r =>
    exact ⟨_, rfl, (congrArg BitVec.toNat (State.getShadow16_setShadow16_self s r _)).trans
      (BitVec.toNat_ofNat v 16)⟩
  | f => exact ⟨_, rfl, BitVec.toNat_ofNat v 8⟩
  | i => exact ⟨_, rfl, BitVec.toNat_ofNat v 8⟩
  | r => exact ⟨_, rfl, BitVec.toNat_ofNat v 8⟩
  | pc => exact ⟨_, rfl, BitVec.toNat_ofNat v 16⟩
  | iff1 => exact ⟨_, rfl, toNat_testBit_zero v⟩
  | iff2 => exact ⟨_, rfl, toNat_testBit_zero v⟩
  | halted => exact ⟨_, rfl, toNat_testBit_zero v⟩
  | im => exact absurd rfl hn

end

/-- Settles O20: IM by its three values, every other name by the read after the write of what it
names. -/
theorem accessorSetThenGet : Obligations.AccessorSetThenGet := by
  unfold Obligations.AccessorSetThenGet
  intro s n v
  split
  case isTrue h =>
    obtain ⟨rfl, hv⟩ := h
    exact accessorSet_im_refused hv
  case isFalse h =>
    by_cases hn : n = .im
    · subst hn
      exact accessorSet_im_next (Nat.le_of_not_lt fun hv => h ⟨rfl, hv⟩)
    · exact accessorSet_next_of_ne_im hn

end Sys2Proof.Machine
end

section
/-! SUPPORT. What reads return (R165, R826): the byte a write or the last side effect of a port call
left in plain RAM, a draw elsewhere, and the last answer a side effect gave a port. -/

namespace Sys2Proof.Machine

section

variable {s : State} {a b : Word} {v : Byte} {p : Byte}

/-! ## Reads of plain RAM and draws (R165) -/

theorem State.byteAt_of_isRam (h : s.params.isRam a = true) : s.byteAt a = s.mem.read a.toNat :=
  if_pos h

theorem State.peek_of_isRam (h : s.params.isRam a = true) (hm : s.mem.read a.toNat = some v) :
    s.peek a = v :=
  State.peek_of_byteAt ((State.byteAt_of_isRam h).trans hm)

theorem State.byteAt_of_not_isRam (h : s.params.isRam a = false) : s.byteAt a = none :=
  if_neg (Bool.eq_false_iff.1 h)

theorem State.byteAt_eq_none (h : s.params.isRam a = false ∨ s.mem.read a.toNat = none) :
    s.byteAt a = none := by
  rcases h with h | h
  · exact State.byteAt_of_not_isRam h
  · unfold State.byteAt; rw [h, ite_self]

theorem State.peek_of_byteAt_none (h : s.byteAt a = none) :
    s.peek a = Config.memPort s.draws a := by
  unfold State.peek; rw [h]

/-- Any port call before the read makes its draw a fresh one. -/
theorem State.called_peek_of_not_isRam (h : s.params.isRam a = false) (c : PortCall) :
    (s.called c).peek a = Config.memPort (s.draws + 1) a :=
  State.peek_of_byteAt_none (State.byteAt_of_not_isRam h)

/-! ## A byte of memory changed by the host (R826) -/

theorem State.peek_changeMemory_self (h : s.params.isRam a = true) :
    ({ s with mem := s.mem.write a.toNat v } : State).peek a = v :=
  State.peek_of_isRam h ((Memory.read_write ..).trans (if_pos rfl))

theorem State.peek_changeMemory_of_ne (h : b ≠ a) :
    ({ s with mem := s.mem.write a.toNat v } : State).peek b = s.peek b := by
  unfold State.peek State.byteAt
  rw [Memory.read_write, if_neg fun hn => h (BitVec.eq_of_toNat_eq hn)]

/-! ## The last side effect of a port call (R162, R826) -/

theorem Memory.after_append (m : Memory) (es fs : List SideEffect) :
    m.after (es ++ fs) = (m.after es).after fs := by
  induction es generalizing m with
  | nil => rfl
  | cons e es ih =>
    cases e with
    | memory a v => exact ih (m.write a.toNat v)
    | port p v => exact ih m

theorem answersAfter_append (l : List (Byte × Byte)) (es fs : List SideEffect) :
    answersAfter l (es ++ fs) = answersAfter (answersAfter l es) fs := by
  induction es generalizing l with
  | nil => rfl
  | cons e es ih =>
    cases e with
    | memory a v => exact ih l
    | port p v => exact ih ((p, v) :: l)

/-- The side effects of the next call are the first of those scheduled. -/
theorem State.effects_of_sideEffects {es : List SideEffect} {rest : List (List SideEffect)}
    (h : s.sideEffects = es :: rest) : s.effects = es := by
  unfold State.effects; rw [h, List.headD_cons]

/-- The last byte a call's side effects give an address of plain RAM is read there, even where the
call itself writes. -/
theorem State.called_peek_of_effects {pre : List SideEffect}
    (h : s.effects = pre ++ [.memory a v]) (hr : s.params.isRam a = true) (c : PortCall) :
    (s.called c).peek a = v := by
  refine State.peek_of_isRam hr ?_
  rw [State.called_mem, h, Memory.after_append]
  exact (Memory.read_write ..).trans (if_pos rfl)

/-- The last answer a call's side effects give a port is what the next input returns. -/
theorem State.called_portValue_of_effects {pre : List SideEffect}
    (h : s.effects = pre ++ [.port p v]) (c : PortCall) : (s.called c).portValue p = v := by
  have hi : (s.called c).inputs.lookup p = some v := by
    rw [State.called_inputs, h, answersAfter_append]
    exact List.lookup_cons_self
  unfold State.portValue; rw [hi]

/-! ## A word loaded into HL (R452) -/

/-- While no port fails, LD HL,(nn) loads L from nn and then H from nn + 1, as the first read left
it. -/
theorem exec_loadHl_halves (nn : Word) (hf : s.failAfter = none) :
    ∃ t, exec (.ld_hl__nn nn) s = .next t
      ∧ t.main.h = (s.noteRead nn).peek (nn + 1#16) ∧ t.main.l = s.peek nn := by
  refine ⟨loadWord .hl nn 16 s, finish_next hf, ?_, ?_⟩
  · exact hi_pair ..
  · exact lo_pair ..

end

/-- Settles O21: a read is decided by the address map and by what memory lists; a write and its
side effects leave every address but their own alone. -/
theorem readAfterWrite : Obligations.ReadAfterWrite := by
  unfold Obligations.ReadAfterWrite
  intro s a b v
  have hwrite := frame_write s a v
  refine ⟨fun hk => State.peek_of_byteAt (State.byteAt_write hk v),
    fun hne hb => hwrite.memory b (mt List.mem_singleton.1 hne) hb,
    State.write_calls s a v,
    ⟨_, rfl, State.peek_changeMemory_self, State.peek_changeMemory_of_ne⟩,
    fun _ => State.peek_of_byteAt,
    fun h => State.peek_of_byteAt_none (State.byteAt_eq_none h),
    fun h => ⟨State.called_peek_of_not_isRam h _, State.called_peek_of_not_isRam h _⟩,
    hwrite.wf⟩

/-- Settles O22: a call does its side effects first to last, so the last one decides what is read;
the second read of LD HL,(nn) comes after those of the first. -/
theorem portCallSideEffects : Obligations.PortCallSideEffects := by
  unfold Obligations.PortCallSideEffects
  intro s es rest hs
  have he : s.effects = es := State.effects_of_sideEffects hs
  refine ⟨fun c => ?_, fun a v p => ⟨rfl, rfl, rfl, rfl⟩, fun nn pre v hf hes hr => ?_⟩
  · refine ⟨?rest, fun e hb => ?core, rfl, rfl, fun pre a v hes => ?memory, fun pre p v hes => ?port⟩
    case rest => rw [State.called_sideEffects, hs, List.drop_one, List.tail_cons]
    case core => exact (frame_called s c).elems e (mt List.mem_singleton.1 hb)
    case memory => exact fun hr => State.called_peek_of_effects (he.trans hes) hr c
    case port => exact State.called_portValue_of_effects (he.trans hes) c
  · obtain ⟨t, ht, hh, hl⟩ := exec_loadHl_halves nn hf
    exact ⟨t, ht, hh.trans (State.called_peek_of_effects (he.trans hes) hr _), hl⟩

end Sys2Proof.Machine
end

section
/-! SUPPORT. `encode` after `decode` (R203, R250 to R254): every cell of the seven tables holds an
instruction whose encoding is the bytes that lead to the cell (`Cell.Encodes`). -/

namespace Sys2Proof

open Sys2Proof.Machine

/-- A cell's instruction, whatever its operand bytes, is well formed and has 1 to 4 bytes: the first
of `bytes`, which are those that lead to the cell together with its operand bytes (R203). -/
structure Cell.Encodes (c : Cell) (bytes : Byte → Byte → List Byte) : Prop where
  pos : 1 ≤ c.1
  le : c.1 ≤ 4
  wellFormed : ∀ a b, (c.2 a b).wellFormed = true
  encode : ∀ a b, encode (c.2 a b) = (bytes a b).take c.1

/-- A cell with an operand word: what holds of the two bytes of a word holds of any two bytes. -/
theorem Cell.encodes_immW {len : Nat} {f : Word → Instr} {bytes : Byte → Byte → List Byte}
    (hpos : 1 ≤ len) (hle : len ≤ 4) (hf : ∀ w, (f w).wellFormed = true)
    (he : ∀ w, Sys2Proof.encode (f w) = (bytes (loByte w) (hiByte w)).take len) :
    (immW len f).Encodes bytes where
  pos := hpos
  le := hle
  wellFormed a b := hf (wordOf a b)
  encode a b := (he (wordOf a b)).trans (by rw [loByte_wordOf, hiByte_wordOf]; rfl)

theorem base_encodes (b3 : Byte) : ∀ op,
    (entry baseTable op).Encodes fun a b => [op, a, b, b3] := by
  refine forall_byte fun k hk => ?_
  interval_cases k
  all_goals
    first
      | exact ⟨by decide, by decide, fun _ _ => rfl, fun _ _ => rfl⟩
      | exact Cell.encodes_immW (by decide) (by decide) (fun _ => rfl) (fun _ => rfl)

theorem cb_encodes : ∀ op, (entry cbTable op).Encodes fun a b => [0xCB#8, op, a, b] := by
  refine forall_byte fun k hk => ?_
  interval_cases k
  all_goals exact ⟨by decide, by decide, fun _ _ => rfl, fun _ _ => rfl⟩

theorem ed_encodes : ∀ op, (entry edTable op).Encodes fun a b => [0xED#8, op, a, b] := by
  refine forall_byte fun k hk => ?_
  interval_cases k
  all_goals
    first
      | exact ⟨by decide, by decide, fun _ _ => rfl, fun _ _ => rfl⟩
      | exact Cell.encodes_immW (by decide) (by decide) (fun _ => rfl) (fun _ => rfl)

theorem dd_encodes : ∀ op, (entry ddTable op).Encodes fun a b => [0xDD#8, op, a, b] := by
  refine forall_byte fun k hk => ?_
  interval_cases k
  all_goals
    first
      | exact ⟨by decide, by decide, fun _ _ => rfl, fun _ _ => rfl⟩
      | exact Cell.encodes_immW (by decide) (by decide) (fun _ => rfl) (fun _ => rfl)

theorem fd_encodes : ∀ op, (entry fdTable op).Encodes fun a b => [0xFD#8, op, a, b] := by
  refine forall_byte fun k hk => ?_
  interval_cases k
  all_goals
    first
      | exact ⟨by decide, by decide, fun _ _ => rfl, fun _ _ => rfl⟩
      | exact Cell.encodes_immW (by decide) (by decide) (fun _ => rfl) (fun _ => rfl)

/-- After DD CB the displacement stands before the opcode (R236, R254). -/
theorem ddcb_encodes : ∀ op,
    (entry ddcbTable op).Encodes fun d _ => [0xDD#8, 0xCB#8, d, op] := by
  refine forall_byte fun k hk => ?_
  interval_cases k
  all_goals exact ⟨by decide, by decide, fun _ _ => rfl, fun _ _ => rfl⟩

/-- After FD CB likewise. -/
theorem fdcb_encodes : ∀ op,
    (entry fdcbTable op).Encodes fun d _ => [0xFD#8, 0xCB#8, d, op] := by
  refine forall_byte fun k hk => ?_
  interval_cases k
  all_goals exact ⟨by decide, by decide, fun _ _ => rfl, fun _ _ => rfl⟩

/-- What a cell's encoding says of the entry read with two operand bytes. -/
theorem Cell.Encodes.entryWith {table : List (List Cell)} {op : Byte}
    {bytes : Byte → Byte → List Byte} (h : (entry table op).Encodes bytes) (a b : Byte) :
    (entryWith table op a b).2.wellFormed = true
      ∧ 1 ≤ (entryWith table op a b).1 ∧ (entryWith table op a b).1 ≤ 4
      ∧ Sys2Proof.encode (entryWith table op a b).2
        = (bytes a b).take (entryWith table op a b).1 :=
  ⟨h.wellFormed a b, h.pos, h.le, h.encode a b⟩

/-- Settles O2: the bytes lead to a cell of one of the seven tables, and each cell's instruction is
encoded by the bytes that lead to it. -/
theorem encodeOfDecode : Obligations.EncodeOfDecode := by
  unfold Obligations.EncodeOfDecode
  intro b0 b1 b2 b3
  unfold decode4
  split_ifs with hcb hed hdd hddcb hfd hfdcb
  · rw [hcb]; exact (cb_encodes b1).entryWith b2 b3
  · rw [hed]; exact (ed_encodes b1).entryWith b2 b3
  · rw [hdd, hddcb]; exact (ddcb_encodes b3).entryWith b2 0#8
  · rw [hdd]; exact (dd_encodes b1).entryWith b2 b3
  · rw [hfd, hfdcb]; exact (fdcb_encodes b3).entryWith b2 0#8
  · rw [hfd]; exact (fd_encodes b1).entryWith b2 b3
  · exact (base_encodes b3 b0).entryWith b1 b2

end Sys2Proof
end

section
/-! SUPPORT. `decode` after `encode` (R200 to R206): the decoder reads every instruction in its own
bytes (`reads_encode`), constructor by constructor. -/

namespace Sys2Proof

open Sys2Proof.Machine

/-- The bytes are those of the instruction: the decoder finds it in them and takes them all. A
single byte is a base entry, where a leading byte stands for its own row. -/
def Reads : List Byte → Instr → Prop
  | [a], i => entryWith baseTable a 0#8 0#8 = (1, i)
  | [a, b], i => decode4 a b 0#8 0#8 = (2, i)
  | [a, b, c], i => decode4 a b c 0#8 = (3, i)
  | [a, b, c, d], i => decode4 a b c d = (4, i)
  | _, _ => False

/-- A leading byte alone is read as its own row. -/
theorem decode_of_leads {a : Byte} (h : leads a = true) :
    decode [a] = .ok ((entryWith baseTable a 0#8 0#8).2, []) := by
  have h0 : loneRow [a] = some (entryWith baseTable a 0#8 0#8).2 := if_pos h
  unfold decode; rw [h0]

theorem decode4_of_not_leads {a : Byte} (h : leads a = false) (b c d : Byte) :
    decode4 a b c d = entryWith baseTable a b c := by
  simp only [leads, Bool.or_eq_false_iff, beq_eq_false_iff_ne] at h
  obtain ⟨⟨⟨hcb, hdd⟩, hed⟩, hfd⟩ := h
  simp only [decode4, hcb, hdd, hed, hfd, if_false]

/-- After DD CB and FD CB an instruction has four bytes. -/
theorem ne_cb_of_decode4_two {a b : Byte} {i : Instr} (ha : a = 0xDD#8 ∨ a = 0xFD#8)
    (h : decode4 a b 0#8 0#8 = (2, i)) : b ≠ 0xCB#8 := by
  rintro rfl
  have h4 : (decode4 a 0xCB#8 0#8 0#8).1 = 4 := by rcases ha with rfl | rfl <;> rfl
  rw [h] at h4
  cases h4

theorem decode_of_reads {bs : List Byte} {i : Instr} (h : Reads bs i) :
    decode bs = .ok (i, []) := by
  match bs, h with
  | [a], (h : entryWith baseTable a 0#8 0#8 = (1, i)) =>
    cases hl : leads a with
    | true => rw [decode_of_leads hl, h]
    | false =>
      exact decode_one (if_neg (by simp [hl])) ((decode4_of_not_leads hl _ _ _).trans h)
  | [a, b], h =>
    by_cases ha : a = 0xDD#8 ∨ a = 0xFD#8
    · exact decode_two_of_ne (ne_cb_of_decode4_two ha h) h
    · rw [not_or] at ha
      exact decode_two ha.1 ha.2 h
  | [_, _, _], h => exact decode_three h
  | [_, _, _, _], h => exact decode_four h

/-- An operand word is read from its own two bytes. -/
theorem Reads.word {bs : List Byte} {f : Word → Instr} {w : Word}
    (h : Reads bs (f (wordOf (loByte w) (hiByte w)))) : Reads bs (f w) := by
  rwa [wordOf_bytes] at h

/-- What holds of the values 0 to 7 holds of every field of three bits. -/
theorem forall_bits3 {P : BitVec 3 → Prop} (h : ∀ k, k < 8 → P (BitVec.ofNat 3 k)) (z : BitVec 3) :
    P z := by
  have := h z.toNat z.isLt; rwa [BitVec.ofNat_toNat, BitVec.setWidth_eq] at this

theorem reads_nopEd : ∀ op, nopCode op = true → Reads [0xED#8, op] (.nop__ed op) := by
  refine forall_byte fun k hk => ?_
  interval_cases k
  all_goals intro h; first | exact absurd h (by decide) | exact rfl

/-- The decoder reads every instruction in its own bytes, but for the two rows whose bytes lead on
to two more. An ignored index byte, an index register and the low bits of BIT b,(XR+d) choose the
bytes, so they are split; a byte operand stands in them, and an operand word by its two halves. -/
theorem reads_encode (i : Instr) (hw : i.wellFormed = true)
    (hi : ¬ (i = .prefix_ddcb ∨ i = .prefix_fdcb)) : Reads (encode i) i := by
  cases i
  case prefix_ddcb | prefix_fdcb => simp at hi
  case neg op | retn op | im_0 op | im_1 op | im_2 op =>
    have hop := List.contains_iff_mem.1 hw
    fin_cases hop <;> exact rfl
  case nop__ed op => exact reads_nopEd op hw
  all_goals try cases ‹IndexByte›
  all_goals try cases ‹IdxReg›
  all_goals try
    generalize ‹BitVec 3› = z
    revert z
    refine forall_bits3 fun k hk => ?_
    interval_cases k
  all_goals try
    generalize ‹Word› = nn
    refine .word ?_
  all_goals eq_refl

/-- Settles O1: the decoder reads every instruction in its own bytes, and DD CB and FD CB alone are
rows of their own. -/
theorem decodeOfEncode : Obligations.DecodeOfEncode := by
  unfold Obligations.DecodeOfEncode
  intro i hw
  by_cases hi : i = .prefix_ddcb ∨ i = .prefix_fdcb
  · rcases hi with rfl | rfl <;> rfl
  · exact decode_of_reads (reads_encode i hw hi)

end Sys2Proof
end

section
/-! SUPPORT. The cases of a step that read the state directly (R230): a halted cycle, and the running
of the instruction that the bytes at PC decode to. -/

namespace Sys2Proof.Machine

section

variable {s : State} {i : Instr} {rest : List Byte}

/-! ## The bytes at PC -/

/-- Putting the outputs away and clearing EI-pending changes no byte that is fetched. -/
theorem atFetch_byteAfter (s : State) (n : Nat) : (Claims.atFetch s).byteAfter n = s.byteAfter n :=
  byteAfter_congr (s := s) (t := Claims.atFetch s) rfl rfl rfl rfl rfl n

/-- What four bytes decode to, and how many of them that takes. -/
theorem decode4_of_decode {b0 b1 b2 b3 : Byte} (h : decode [b0, b1, b2, b3] = .ok (i, rest)) :
    decode4 b0 b1 b2 b3 = (4 - rest.length, i) := by
  obtain ⟨hi, hrest⟩ := decode_ok_of_four h
  obtain ⟨-, -, hle, -⟩ := encodeOfDecode b0 b1 b2 b3
  refine Prod.ext ?_ hi
  rw [hrest, List.length_drop]
  exact (Nat.sub_sub_self hle).symm

theorem decodeAt_atFetch
    (h : decode [s.byteAfter 0, s.byteAfter 1, s.byteAfter 2, s.byteAfter 3] = .ok (i, rest)) :
    decodeAt (Claims.atFetch s) = (4 - rest.length, i) := by
  unfold decodeAt
  simp only [atFetch_byteAfter]
  exact decode4_of_decode h

/-- No port call is on record as failing before the first is made (R801). -/
theorem atFetch_recorded (s : State) : (Claims.atFetch s).Recorded :=
  recorded_of_unfailed (beginStep_unfailed s)

/-- The step of a state in which an instruction runs. -/
theorem step_eq_runInstr (h : Claims.runsInstruction s) : step s = runInstr (Claims.atFetch s) :=
  step_of_run s h.1 h.2.1 h.2.2

/-- An instruction answers a state or what `finish` makes of one, and `finish` fails no state in
which no port fails. -/
theorem exec_completes (ho : onward i = false) (hf : s.failAfter = none) :
    ∃ t, exec i s = .next t ∧ t.params = s.params ∧ t.failAfter = none := by
  obtain ⟨t, cyc, made, m, o, d, ht⟩ := exec_answers i s ho
  have hft : t.failAfter = none := d.frame.failAfter.trans hf
  refine ⟨t, ?_, d.frame.params, hft⟩
  rcases ht with ⟨ht, -⟩ | ht
  · exact ht
  · rw [ht, finish_next hft]

end

/-- Settles O4: `runInstr` at the length and the instruction that the bytes decode to. -/
theorem stepRunsDecodedInstruction : Obligations.StepRunsDecodedInstruction := by
  unfold Obligations.StepRunsDecodedInstruction
  intro s i rest hs hd
  rw [step_eq_runInstr hs, runInstr_eq (decodeAt_atFetch hd)]
  refine if_congr Iff.rfl rfl ?_
  unfold endInstr
  rfl

/-- Settles O7: the halted cycle counts R and ticks, and the frame holds element by element. -/
theorem haltedStep : Obligations.HaltedStep := by
  unfold Obligations.HaltedStep
  intro s hn hi hh
  refine ⟨_, step_of_halted s hn hi hh, refresh_eq s.r, rfl, rfl, rfl, ?_⟩
  exact .ofElems rfl fun e he => by cases e <;> first | rfl | exact absurd (by decide) he

/-- Settles O24: no row but those that go on with the dispatch can do other than complete. -/
theorem everyInstructionCompletes : Obligations.EveryInstructionCompletes :=
  fun _ _ hi hf => exec_completes (onward_eq_false_of_notMem hi) hf

end Sys2Proof.Machine
end

section
/-! SUPPORT. The running of an instruction is the dispatch loop (R230 to R238), entry by entry of the
seven tables (`runInstr_eq_executeInstruction`). DD and FD are treated at once, as the byte of an
index register. -/

namespace Sys2Proof.Machine

section

variable {s t u v : State} {x : IdxReg} {b0 b1 b2 b3 : Byte}

/-! ## The two index bytes -/

/-- The table that the index byte of a register leads to (R201). -/
noncomputable def indexTable : IdxReg → List (List Cell)
  | .ix => ddTable
  | .iy => fdTable

/-- The table that the index byte of a register and CB lead to (R201). -/
noncomputable def indexCbTable : IdxReg → List (List Cell)
  | .ix => ddcbTable
  | .iy => fdcbTable

theorem byte_eq (x : IdxReg) : x.byte = 0xDD#8 ∨ x.byte = 0xFD#8 := by
  cases x
  · exact .inl rfl
  · exact .inr rfl

theorem exists_byte_eq (h : b0 = 0xDD#8 ∨ b0 = 0xFD#8) : ∃ x : IdxReg, b0 = x.byte := by
  rcases h with h | h
  · exact ⟨.ix, h⟩
  · exact ⟨.iy, h⟩

theorem leads_byte (x : IdxReg) : leads x.byte = true := by cases x <;> rfl

theorem indexOf_byte (x : IdxReg) : indexOf x.byte = idxByte x := by cases x <;> rfl

theorem idxByte_ne_none (x : IdxReg) : idxByte x ≠ .none := by cases x <;> nofun

theorem index_entry (x : IdxReg) {op : Byte} (h : leads op = false) (s : State) :
    EntryGives (indexTable x) 2 op (s.setPfx (idxByte x)) (runMain op (s.setPfx (idxByte x))) := by
  cases x
  · exact dd_entry op h s
  · exact fd_entry op h s

theorem onward_index (x : IdxReg) {op : Byte} (h : leads op = false) (a b : Byte) :
    onward (entryWith (indexTable x) op a b).2 = false := by
  cases x
  · exact onward_dd op h a b
  · exact onward_fd op h a b

theorem indexCb_entry (x : IdxReg) (op d : Byte) (s : State) :
    Gives (entryWith (indexCbTable x) op d 0#8).2 (s.setPfx (idxByte x))
      (runXCB d op (s.setPfx (idxByte x))) := by
  cases x
  · exact ddcb_entry op d s
  · exact fdcb_entry op d s

theorem onward_indexCb (x : IdxReg) (op a b : Byte) :
    onward (entryWith (indexCbTable x) op a b).2 = false := by
  cases x
  · exact onward_ddcb op a b
  · exact onward_fdcb op a b

/-- After an index byte and CB an instruction has four bytes (R202). -/
theorem indexCb_length (x : IdxReg) : ∀ op, (entry (indexCbTable x) op).1 = 4 := by
  cases x <;> decide

/-! ## Decoding, by the first byte -/

theorem decode4_cb : decode4 0xCB#8 b1 b2 b3 = entryWith cbTable b1 b2 b3 := rfl

theorem decode4_ed : decode4 0xED#8 b1 b2 b3 = entryWith edTable b1 b2 b3 := rfl

theorem decode4_indexCb (x : IdxReg) :
    decode4 x.byte 0xCB#8 b2 b3 = entryWith (indexCbTable x) b3 b2 0#8 := by cases x <;> rfl

theorem decode4_index (x : IdxReg) (h : b1 ≠ 0xCB#8) :
    decode4 x.byte b1 b2 b3 = entryWith (indexTable x) b1 b2 b3 := by
  cases x <;> exact if_neg h

/-- The row of a register's index byte after another index byte (R235). -/
noncomputable def supersedingRow (x : IdxReg) : IdxReg → Instr
  | .ix => .prefix_dd__supersedes x
  | .iy => .prefix_fd__supersedes x

theorem onward_supersedingRow (x y : IdxReg) : onward (supersedingRow x y) = true := by
  cases y <;> rfl

theorem exec_supersedingRow (x y : IdxReg) (s : State) :
    exec (supersedingRow x y) s
      = dispatchLoop chainFuel ((s.setPfx (idxByte x)).supersede.setPfx (idxByte y)) := by
  cases y <;> rfl

theorem entryWith_indexTable_byte (x y : IdxReg) (a b : Byte) :
    entryWith (indexTable x) y.byte a b = (2, supersedingRow x y) := by
  cases x <;> cases y <;> rfl

theorem entryWith_indexTable_ed (x : IdxReg) (a b : Byte) :
    entryWith (indexTable x) 0xED#8 a b = (2, .prefix_ed__index_prefix_dropped x) := by
  cases x <;> rfl

/-! ## The loop, by the byte it fetches -/

theorem loop_index (n : Nat) (h : s.peek s.pc = x.byte) :
    dispatchLoop (n + 1) s = dispatchLoop n (s.fetchOpcode.supersede.setPfx (idxByte x)) := by
  cases x
  · exact loop_dd n s h
  · exact loop_fd n s h

/-- The state after the first fetch of an instruction, with `pfx` set (R231). -/
def State.fetchFirst (u : State) (p : IndexByte) : State := (u.setPfx .none).fetchOpcode.setPfx p

theorem State.fetchFirst_byteAfter (u : State) (p : IndexByte) (n : Nat) :
    (u.fetchFirst p).byteAfter n = u.byteAfter (n + 1) := byteAfter_fetched u p n

theorem State.fetchFirst_fetchOpcode_byteAfter (u : State) (p : IndexByte) (n : Nat) :
    (u.fetchFirst p).fetchOpcode.byteAfter n = u.byteAfter (n + 2) :=
  byteAfter_fetched_twice u p n

theorem fetchInstr_index (h : b0 = x.byte) (n : Nat) :
    u.fetchInstr b0 n = State.fetchBytes (n - 2) (u.fetchFirst (idxByte x)).fetchOpcode := by
  rw [h, fetchInstr_lead (leads_byte x), indexOf_byte]; rfl

/-- The first round of an instruction that begins with an index byte. -/
theorem executeInstruction_index (h : u.peek u.pc = x.byte) :
    executeInstruction u = dispatchLoop (chainFuel + 1) (u.fetchFirst (idxByte x)) :=
  loop_index (chainFuel + 1) (s := u.setPfx .none) h

/-! ## An entry that goes no further -/

/-- An instruction that gives a state runs as the loop ends with that state. -/
theorem runInstr_of_gives (hr : u.Recorded)
    (hf : u.fetchInstr (u.peek u.pc) (decodeAt u).1 = t) (ho : onward (decodeAt u).2 = false)
    (g : Gives (decodeAt u).2 t v) : runInstr u = leave v := by
  have hrt := (frame_fetchInstr u (u.peek u.pc) (decodeAt u).1).recorded hr
  rw [runInstr_eq rfl]
  rw [hf] at hrt ⊢
  exact gives_leave ho hrt g

/-- An entry, in the state after its operands are fetched. -/
theorem runInstr_of_entry {table : List (List Cell)} {off : Nat} {op : Byte} (hr : u.Recorded)
    (hd : decodeAt u = entryWith table op (t.byteAfter 0) (t.byteAfter 1))
    (hf : ∀ n, u.fetchInstr (u.peek u.pc) n = State.fetchBytes (n - off) t)
    (ho : onward (decodeAt u).2 = false) (g : EntryGives table off op t v) :
    runInstr u = leave v :=
  runInstr_of_gives hr (hf _) ho (by rw [hd]; exact g)

/-! ## A row that goes on -/

/-- The meaning of a row that goes on with the dispatch ends a step by itself. -/
theorem runInstr_of_onward (hr : u.Recorded) (ho : onward (decodeAt u).2 = true) :
    runInstr u = exec (decodeAt u).2 (u.fetchInstr (u.peek u.pc) (decodeAt u).1) := by
  have hrt := (frame_fetchInstr u (u.peek u.pc) (decodeAt u).1).recorded hr
  rw [runInstr_eq rfl]
  generalize u.fetchInstr (u.peek u.pc) (decodeAt u).1 = t at hrt ⊢
  obtain ⟨v, hv, hx⟩ := onward_does _ t hrt ho
  have hrv := hv.recorded hrt
  split
  case isTrue hf =>
    have hvf := (hv.failed hf).1
    have hs : t.stop = v.stop := (hv.stop_eq hrt hf).symm
    rcases hx with hx | ⟨n, hx⟩
    · rw [hx.failed hrv hvf, hs]
    · rw [hx, loop_failed n v hrv hvf, hs]
  case isFalse =>
    rcases hx with hx | ⟨n, hx⟩
    · exact hx.endInstr_eq
    · rw [hx]; exact loop_end n v hrv

/-! ## The running of an instruction is the loop -/

theorem runInstr_plain (hr : u.Recorded) (hl : leads (u.peek u.pc) = false) :
    runInstr u = executeInstruction u := by
  have hb (n : Nat) := u.fetchFirst_byteAfter .none n
  have hi : indexOf (u.peek u.pc) = .none := by
    simp only [leads, Bool.or_eq_false_iff, beq_eq_false_iff_ne] at hl
    obtain ⟨⟨⟨-, hdd⟩, -⟩, hfd⟩ := hl
    unfold indexOf; rw [if_neg hdd, if_neg hfd]
  have hd : decodeAt u = entryWith baseTable (u.peek u.pc) (u.byteAfter 1) (u.byteAfter 2) :=
    decode4_of_not_leads hl _ _ _
  refine (runInstr_of_entry hr (t := u.fetchFirst .none) (off := 1)
    ?_ (fun n => ?_) ?_ (base_entry (u.peek u.pc) hl (u.setPfx .none).fetchOpcode)).trans
    (loop_main (chainFuel + 1) (u.setPfx .none) hl).symm
  · rw [hd, hb, hb]
  · rw [fetchInstr_plain hl, hi]; rfl
  · rw [hd]; exact onward_base _ hl _ _

theorem runInstr_cb (hr : u.Recorded) (h : u.peek u.pc = 0xCB#8) :
    runInstr u = executeInstruction u := by
  have hb (n : Nat) := u.fetchFirst_fetchOpcode_byteAfter .none n
  have hd : decodeAt u = entryWith cbTable (u.byteAfter 1) (u.byteAfter 2) (u.byteAfter 3) := by
    unfold decodeAt; rw [show u.byteAfter 0 = 0xCB#8 from h]; rfl
  refine (runInstr_of_entry hr (t := (u.fetchFirst .none).fetchOpcode)
    (off := 2) ?_ (fun n => ?_) ?_ (cb_entry (u.byteAfter 1) _)).trans ?_
  · rw [hd, hb, hb]
  · rw [h, fetchInstr_lead rfl]; rfl
  · rw [hd]; exact onward_cb _ _ _
  · rw [← u.fetchFirst_byteAfter .none 0]
    exact (loop_cb (chainFuel + 1) (u.setPfx .none) h rfl).symm

theorem runInstr_ed (hr : u.Recorded) (h : u.peek u.pc = 0xED#8) :
    runInstr u = executeInstruction u := by
  have hb (n : Nat) := u.fetchFirst_fetchOpcode_byteAfter .none n
  have hd : decodeAt u = entryWith edTable (u.byteAfter 1) (u.byteAfter 2) (u.byteAfter 3) := by
    unfold decodeAt; rw [show u.byteAfter 0 = 0xED#8 from h]; rfl
  refine (runInstr_of_entry hr (t := (u.fetchFirst .none).fetchOpcode)
    (off := 2) ?_ (fun n => ?_) ?_ (ed_entry (u.byteAfter 1) _)).trans ?_
  · rw [hd, hb, hb]
  · rw [h, fetchInstr_lead rfl]; rfl
  · rw [hd]; exact onward_ed _ _ _
  · rw [← u.fetchFirst_byteAfter .none 0]
    exact (loop_ed (chainFuel + 1) (u.setPfx .none) h).symm

/-! ### After an index byte -/

theorem runInstr_index_cb (hr : u.Recorded) (h : u.peek u.pc = x.byte)
    (h1 : u.byteAfter 1 = 0xCB#8) : runInstr u = executeInstruction u := by
  have hb (n : Nat) := u.fetchFirst_fetchOpcode_byteAfter (idxByte x) n
  have hd : decodeAt u = entryWith (indexCbTable x) (u.byteAfter 3) (u.byteAfter 2) 0#8 := by
    unfold decodeAt; rw [show u.byteAfter 0 = x.byte from h, h1, decode4_indexCb]
  have hloop := loop_xcb chainFuel (u.fetchFirst (idxByte x))
    ((u.fetchFirst_byteAfter (idxByte x) 0).trans h1) (idxByte_ne_none x)
  rw [executeInstruction_index h, hloop]
  have hlen : (entryWith (indexCbTable x) (u.byteAfter 3) (u.byteAfter 2) 0#8).1 = 4 :=
    indexCb_length x _
  have g := indexCb_entry x (u.byteAfter 3) (u.byteAfter 2)
    (State.fetchBytes 2 (u.fetchFirst (idxByte x)).fetchOpcode)
  rw [← hd] at g
  refine (runInstr_of_gives hr ?_ ?_ g).trans ?_
  · rw [hd, hlen, fetchInstr_index h]; rfl
  · rw [hd]; exact onward_indexCb x _ _ _
  · rw [← hb 0, ← hb 1]; rfl

theorem runInstr_index_index {y : IdxReg} (hr : u.Recorded) (h : u.peek u.pc = x.byte)
    (h1 : u.byteAfter 1 = y.byte) : runInstr u = executeInstruction u := by
  have hd : decodeAt u = (2, supersedingRow x y) := by
    unfold decodeAt
    rw [show u.byteAfter 0 = x.byte from h, h1, decode4_index x (by cases y <;> decide),
      entryWith_indexTable_byte]
  have hloop := loop_index chainFuel (s := u.fetchFirst (idxByte x))
    ((u.fetchFirst_byteAfter (idxByte x) 0).trans h1)
  rw [executeInstruction_index h, hloop,
    runInstr_of_onward hr (by rw [hd]; exact onward_supersedingRow x y), hd, fetchInstr_index h,
    exec_supersedingRow]
  rfl

theorem runInstr_index_ed (hr : u.Recorded) (h : u.peek u.pc = x.byte)
    (h1 : u.byteAfter 1 = 0xED#8) : runInstr u = executeInstruction u := by
  have hd : decodeAt u = (2, .prefix_ed__index_prefix_dropped x) := by
    unfold decodeAt
    rw [show u.byteAfter 0 = x.byte from h, h1, decode4_index x (by decide),
      entryWith_indexTable_ed]
  have hloop := loop_ed chainFuel (u.fetchFirst (idxByte x))
    ((u.fetchFirst_byteAfter (idxByte x) 0).trans h1)
  rw [executeInstruction_index h, hloop, runInstr_of_onward hr (by rw [hd]; rfl), hd,
    fetchInstr_index h]
  rfl

theorem runInstr_index_plain (hr : u.Recorded) (h : u.peek u.pc = x.byte)
    (hl : leads (u.byteAfter 1) = false) : runInstr u = executeInstruction u := by
  have hb (n : Nat) := u.fetchFirst_fetchOpcode_byteAfter (idxByte x) n
  have hcb : u.byteAfter 1 ≠ 0xCB#8 := fun hn => by rw [hn] at hl; cases hl
  have hd : decodeAt u
      = entryWith (indexTable x) (u.byteAfter 1) (u.byteAfter 2) (u.byteAfter 3) := by
    unfold decodeAt; rw [show u.byteAfter 0 = x.byte from h, decode4_index x hcb]
  have h1 := u.fetchFirst_byteAfter (idxByte x) 0
  have hloop := loop_main chainFuel (u.fetchFirst (idxByte x))
    ((congrArg leads h1).trans hl)
  rw [executeInstruction_index h, hloop]
  refine (runInstr_of_entry hr
    (t := (u.fetchFirst (idxByte x)).fetchOpcode) (off := 2)
    ?_ (fun n => ?_) ?_ (index_entry x hl (u.fetchFirst (idxByte x)).fetchOpcode)).trans ?_
  · rw [hd, hb, hb]
  · exact fetchInstr_index h n
  · rw [hd]; exact onward_index x hl _ _
  · rw [← h1]; rfl

/-- A byte leads no further, or is CB, ED or an index byte (R200). -/
theorem byte_cases (b : Byte) :
    leads b = false ∨ b = 0xCB#8 ∨ b = 0xED#8 ∨ ∃ x : IdxReg, b = x.byte := by
  cases h : leads b with
  | false => exact .inl rfl
  | true =>
    simp only [leads, Bool.or_eq_true, beq_iff_eq] at h
    obtain ((h | h) | h) | h := h
    · exact .inr (.inl h)
    · exact .inr (.inr (.inr ⟨.ix, h⟩))
    · exact .inr (.inr (.inl h))
    · exact .inr (.inr (.inr ⟨.iy, h⟩))

/-- The running of an instruction is the dispatch loop, by its first byte and, after an index byte,
its second. -/
theorem runInstr_eq_executeInstruction (hr : u.Recorded) :
    runInstr u = executeInstruction u := by
  obtain hl | hcb | hed | ⟨x, hx⟩ := byte_cases (u.peek u.pc)
  · exact runInstr_plain hr hl
  · exact runInstr_cb hr hcb
  · exact runInstr_ed hr hed
  obtain hl | hcb | hed | ⟨y, hy⟩ := byte_cases (u.byteAfter 1)
  · exact runInstr_index_plain hr hx hl
  · exact runInstr_index_cb hr hx hcb
  · exact runInstr_index_ed hr hx hed
  · exact runInstr_index_index hr hx hy

end

/-- Settles O6: no call has failed when the step fetches, so the running of the instruction is the
loop. -/
theorem stepIsDispatchLoop : Obligations.StepIsDispatchLoop := by
  unfold Obligations.StepIsDispatchLoop
  intro s hs
  rw [step_eq_runInstr hs]
  exact runInstr_eq_executeInstruction (atFetch_recorded s)

end Sys2Proof.Machine
end

section
/-! SUPPORT. What stops a step (R238, R801, R812), and what the rows that go on with the dispatch run
(R232 to R236). -/

namespace Sys2Proof.Machine

section

variable {i : Instr} {s t u v : State}

/-! ## An endless chain (R238) -/

theorem portFailed_of_none (h : s.failAfter = none) : s.portFailed = false := by
  simp only [State.portFailed, h]

theorem supersede_failAfter (s : State) : s.supersede.failAfter = s.failAfter :=
  (frame_supersede s).failAfter

theorem fetchOpcode_byteAfter (s : State) (n : Nat) :
    s.fetchOpcode.byteAfter n = s.byteAfter (n + 1) :=
  byteAfter_congr (s := s.fetchByte) (t := s.fetchOpcode) rfl rfl rfl rfl rfl n

theorem setPfx_byteAfter (s : State) (p : IndexByte) (n : Nat) :
    (s.setPfx p).byteAfter n = s.byteAfter n :=
  byteAfter_congr (s := s) (t := s.setPfx p) rfl rfl rfl rfl rfl n

theorem tick_byteAfter (s : State) (k n : Nat) : (s.tick k).byteAfter n = s.byteAfter n :=
  byteAfter_congr (s := s) (t := s.tick k) rfl rfl rfl rfl rfl n

theorem supersede_byteAfter (s : State) (n : Nat) : s.supersede.byteAfter n = s.byteAfter n := by
  unfold State.supersede
  split
  · rfl
  · exact tick_byteAfter s 4 n
  · exact tick_byteAfter s 4 n

/-- The loop follows a chain of index bytes until its fuel is used up. -/
theorem dispatchLoop_endless (n : Nat) (hf : s.failAfter = none)
    (h : ∀ k, s.byteAfter k = 0xDD#8 ∨ s.byteAfter k = 0xFD#8) :
    dispatchLoop n s = .fault .endlessIndexChain := by
  induction n generalizing s with
  | zero => exact if_neg (by rw [portFailed_of_none hf]; exact Bool.false_ne_true)
  | succ n ih =>
    obtain ⟨x, hx⟩ := exists_byte_eq (h 0)
    rw [loop_index (s := s) n hx]
    refine ih ?_ fun k => ?_
    · exact (supersede_failAfter _).trans hf
    · rw [setPfx_byteAfter, supersede_byteAfter, fetchOpcode_byteAfter]
      exact h (k + 1)

/-! ## What else stops a step -/

/-- Only an index byte begins a row that goes on with the dispatch. -/
theorem onward_decode4 {b0 : Byte} (h : ¬ (b0 = 0xDD#8 ∨ b0 = 0xFD#8)) (b1 b2 b3 : Byte) :
    onward (decode4 b0 b1 b2 b3).2 = false := by
  obtain hl | rfl | rfl | ⟨x, rfl⟩ := byte_cases b0
  · rw [decode4_of_not_leads hl]; exact onward_base b0 hl b1 b2
  · exact onward_cb b1 b2 b3
  · exact onward_ed b1 b2 b3
  · exact absurd (byte_eq x) h

/-- The running of an instruction hangs only where it begins with an index byte. -/
theorem index_of_runInstr_endless (hr : u.Recorded)
    (h : runInstr u = .fault .endlessIndexChain) : u.peek u.pc = 0xDD#8 ∨ u.peek u.pc = 0xFD#8 := by
  by_contra hn
  have hone : RunsOne u (runInstr u) :=
    ⟨_, _, onward_decode4 hn _ _ _, frame_fetchInstr u _ _, rfl⟩
  rw [h] at hone
  rcases hone.cases hr with ⟨t, ht⟩ | ⟨t, ht, -⟩ <;> cases ht

theorem finish_ne_refused (s : State) (r : Refusal) : finish s ≠ .refused r := by
  rcases finish_cases s with ⟨h, -⟩ | ⟨h, -⟩ <;> rw [h] <;> nofun

/-- The running of an instruction is never refused. -/
theorem runInstr_ne_refused (hr : u.Recorded) (r : Refusal) : runInstr u ≠ .refused r := by
  intro h
  rcases runInstr_does u hr with h1 | ⟨t, -, h1⟩
  · rw [h] at h1
    rcases h1.cases hr with ⟨t, ht⟩ | ⟨t, ht, -⟩ <;> cases ht
  · rw [h] at h1
    rcases chainEnd_cases t with ⟨h2, -⟩ | h2 <;> rw [h2] at h1 <;> cases h1

/-- An acceptance of the maskable request is refused only in mode 0, for a byte that is no RST. -/
theorem acceptInt_refused {r : Refusal} (h : acceptInt s.beginStep = .refused r) :
    r = .im0Unsupported ∧ s.im = .im0 ∧ s.intData &&& 0xC7#8 ≠ 0xC7#8 := by
  cases him : s.im with
  | im0 =>
    rw [acceptInt_im0 s him, acceptIm0] at h
    split at h
    · exact absurd h (finish_ne_refused _ r)
    · rename_i hd
      cases h
      exact ⟨rfl, rfl, hd⟩
  | im1 => rw [acceptInt_im1 s him] at h; exact absurd h (finish_ne_refused _ r)
  | im2 => rw [acceptInt_im2 s him] at h; exact absurd h (finish_ne_refused _ r)

theorem takesInt_of_acceptsInt (hn : s.nmiPending = false) (h : s.acceptsInt = true) :
    Claims.takesInt s := by
  simp only [State.acceptsInt, Bool.and_eq_true, Bool.not_eq_true'] at h
  obtain ⟨⟨hline, hiff⟩, hei⟩ := h
  exact ⟨hn, hline, hiff, hei⟩

theorem step_refused {r : Refusal} (h : step s = .refused r) :
    r = .im0Unsupported ∧ Claims.takesInt s ∧ s.im = .im0 ∧ s.intData &&& 0xC7#8 ≠ 0xC7#8 := by
  cases hn : s.nmiPending with
  | true => rw [step_of_nmi s hn] at h; exact absurd h (finish_ne_refused _ r)
  | false =>
  cases hi : s.acceptsInt with
  | true =>
    rw [step_of_int s hn hi] at h
    obtain ⟨hr, him, hd⟩ := acceptInt_refused h
    exact ⟨hr, takesInt_of_acceptsInt hn hi, him, hd⟩
  | false =>
  cases hh : s.halted with
  | true => rw [step_of_halted s hn hi hh] at h; cases h
  | false =>
    rw [step_eq_runInstr ⟨hn, hi, hh⟩] at h
    exact absurd h (runInstr_ne_refused (atFetch_recorded s) r)

/-! ## The rows that go on with the dispatch -/

/-- Where no port fails, an instruction that gives a state completes in it, and so does the loop. -/
theorem leave_of_gives (ho : onward i = false) (hf : t.failAfter = none) (g : Gives i t u) :
    ∃ v, exec i t = .next v ∧ leave u = .next (v.setPfx .none) := by
  obtain ⟨v, hv, -, hvf⟩ := exec_completes ho hf
  obtain rfl : v = u := by
    rcases g with g | g <;> rw [hv] at g
    · exact Host.Outcome.next.inj g
    · exact (eq_of_finish_next g.symm).1
  refine ⟨v, hv, ?_⟩
  rw [leave_eq, portFailed_of_none hvf]; rfl

/-- The same of an entry of a table, in the state after its operands are fetched. -/
theorem leave_of_entryGives {table : List (List Cell)} {off : Nat} {op a b : Byte}
    (ha : t.byteAfter 0 = a) (hb : t.byteAfter 1 = b)
    (ho : onward (entryWith table op a b).2 = false) (hf : t.failAfter = none)
    (g : EntryGives table off op t u) :
    ∃ v, exec (entryWith table op a b).2
        (State.fetchBytes ((entryWith table op a b).1 - off) t) = .next v
      ∧ leave u = .next (v.setPfx .none) := by
  subst ha hb
  exact leave_of_gives ho ((frame_fetchBytes t _).failAfter.trans hf) g

theorem afterCB_runs (hf : s.failAfter = none) {d : Nat × Instr}
    (hd : d = entryWith cbTable (s.byteAfter 0) (s.byteAfter 1) (s.byteAfter 2)) :
    ∃ v, exec d.2 (State.fetchBytes (d.1 - 2) s.fetchOpcode) = .next v
      ∧ afterCB s = .next (v.setPfx .none) := by
  subst hd
  exact leave_of_entryGives (fetchOpcode_byteAfter s 0) (fetchOpcode_byteAfter s 1)
    (onward_cb _ _ _) hf (cb_entry (s.byteAfter 0) s.fetchOpcode)

/-- After ED, whatever index byte came before it; `t` is the state in which its opcode is fetched.
-/
theorem afterED_runs (ht : s.supersede.setPfx .none = t) (hf : s.failAfter = none) :
    ∃ v, exec (entryWith edTable (s.byteAfter 0) (s.byteAfter 1) (s.byteAfter 2)).2
        (State.fetchBytes ((entryWith edTable (s.byteAfter 0) (s.byteAfter 1)
          (s.byteAfter 2)).1 - 2) t.fetchOpcode) = .next v
      ∧ afterED s = .next (v.setPfx .none) := by
  have hb (n : Nat) : t.byteAfter n = s.byteAfter n := by
    rw [← ht, setPfx_byteAfter, supersede_byteAfter]
  have hft : t.failAfter = none := by rw [← ht]; exact (supersede_failAfter s).trans hf
  have hleave : afterED s = leave (runED (t.byteAfter 0) t.fetchOpcode) := by subst ht; rfl
  rw [hleave, ← hb 0, ← hb 1, ← hb 2]
  exact leave_of_entryGives (fetchOpcode_byteAfter t 0) (fetchOpcode_byteAfter t 1)
    (onward_ed _ _ _) hft (ed_entry (t.byteAfter 0) t.fetchOpcode)

theorem afterXCB_runs (x : IdxReg) (hf : s.failAfter = none) :
    ∃ v, exec (entryWith (indexCbTable x) (s.byteAfter 1) (s.byteAfter 0) 0#8).2
        (s.setPfx (idxByte x)).fetchByte.fetchByte = .next v
      ∧ afterXCB (s.setPfx (idxByte x)) = .next (v.setPfx .none) :=
  leave_of_gives (onward_indexCb x _ _ _) hf
    (indexCb_entry x (s.byteAfter 1) (s.byteAfter 0) (s.setPfx (idxByte x)).fetchByte.fetchByte)

/-- The loop after an index byte that no other lead byte follows. -/
theorem dispatchLoop_runs (x : IdxReg) (hf : s.failAfter = none)
    (hl : leads (s.byteAfter 0) = false) :
    ∃ v, exec (entryWith (indexTable x) (s.byteAfter 0) (s.byteAfter 1) (s.byteAfter 2)).2
        (State.fetchBytes ((entryWith (indexTable x) (s.byteAfter 0) (s.byteAfter 1)
          (s.byteAfter 2)).1 - 2) (s.setPfx (idxByte x)).fetchOpcode) = .next v
      ∧ dispatchLoop chainFuel (s.setPfx (idxByte x)) = .next (v.setPfx .none) := by
  have hloop := loop_main 65535 (s.setPfx (idxByte x)) hl
  rw [show chainFuel = 65535 + 1 from rfl, hloop]
  refine leave_of_entryGives ?_ ?_ (onward_index x hl _ _) hf
    (index_entry x hl (s.setPfx (idxByte x)).fetchOpcode)
  · rw [fetchOpcode_byteAfter, setPfx_byteAfter]
  · rw [fetchOpcode_byteAfter, setPfx_byteAfter]

end

/-- Settles O13: the step is the dispatch loop (O6), whose passes each meet an index byte until the
fuel is out (`dispatchLoop_endless`). -/
theorem endlessIndexChainHangs : Obligations.EndlessIndexChainHangs := by
  unfold Obligations.EndlessIndexChainHangs
  intro s hs hf h
  rw [stepIsDispatchLoop s hs]
  refine dispatchLoop_endless (chainFuel + 2) (s := (Claims.atFetch s).setPfx .none) hf fun n => ?_
  rw [setPfx_byteAfter, atFetch_byteAfter]
  exact h n

/-- Settles O15: a step is refused in the acceptance of mode 0 alone, and a fault is a stop after a
failed call or the end of the fuel, which only a chain of index bytes uses up. -/
theorem nothingElseStopsAStep : Obligations.NothingElseStopsAStep := by
  unfold Obligations.NothingElseStopsAStep
  intro s
  refine ⟨fun f h => ?_, fun r h => step_refused h⟩
  rcases step_fault h with ⟨t, ht, hfail, -, hft⟩ | ⟨rfl, hn, hi, hh, hrun⟩
  · refine .inl ⟨⟨t.failure, Host.Outcome.fault.inj ht⟩, ?_⟩
    rw [← hft]; exact failAfter_of_failed hfail
  · exact .inr ⟨rfl, ⟨hn, hi, hh⟩,
      index_of_runInstr_endless (u := Claims.atFetch s) (atFetch_recorded s) hrun⟩

/-- Settles O26: each row's handler is the running of the table's entry and the end of the step; the
index byte that gives way leaves its four cycles. -/
theorem dispatchRows : Obligations.DispatchRows := by
  unfold Obligations.DispatchRows
  intro s hf
  have hx (x : IdxReg) (p : IndexByte) :
      (s.setPfx (idxByte x)).supersede.setPfx p = (s.tick 4).setPfx p := by cases x <;> rfl
  have hb (n : Nat) := tick_byteAfter s 4 n
  have hrow (y : IdxReg) (hl : leads (s.byteAfter 0) = false) :=
    dispatchLoop_runs (s := s.tick 4) y hf ((congrArg leads (hb 0)).trans hl)
  simp only [hb] at hrow
  refine ⟨afterCB_runs hf rfl, afterED_runs (s := s.setPfx .none) rfl hf,
    fun x => ?_, afterXCB_runs .ix hf, afterXCB_runs .iy hf, fun hl =>
      ⟨dispatchLoop_runs .ix hf hl, dispatchLoop_runs .iy hf hl, fun x => ?_, fun x => ?_⟩⟩
  · exact afterED_runs (s := s.setPfx (idxByte x)) (hx x .none) hf
  · obtain ⟨v, h1, h2⟩ := hrow .ix hl
    refine ⟨v, h1, ?_⟩
    rw [← h2, ← hx x]
    rfl
  · obtain ⟨v, h1, h2⟩ := hrow .iy hl
    refine ⟨v, h1, ?_⟩
    rw [← h2, ← hx x]
    rfl

end Sys2Proof.Machine
end

section
/-! SUPPORT. The ignored index byte (R222): an instruction that takes one runs as without it, and
takes the cycles of the byte beside (`Ignores`). The ways an instruction takes it are those of the
operations it is one of; `ignores` names each entry's. -/

namespace Sys2Proof.Machine

section

variable {f : IndexByte → Instr} {s t : State} {k cyc : Nat}

/-! ## Four cycles more -/

/-- The cycles of an index byte come on top. -/
theorem tick_add_four (t : State) (k : Nat) :
    t.tick (k + 4) = { t.tick k with cycles := (t.tick k).cycles + 4#32 } := by
  simp only [State.tick, BitVec.ofNat_add, BitVec.add_assoc]

/-- With the failing state on record, later by four cycles stops the step alike. -/
theorem finish_later (h : (t.tick k).Recorded) :
    finish (t.tick (k + 4)) = Claims.fourLater (finish (t.tick k)) := by
  have hp : (t.tick (k + 4)).portFailed = (t.tick k).portFailed := rfl
  rcases finish_cases (t.tick k) with ⟨h1, hf⟩ | ⟨h1, hf⟩
  · have hs : (t.tick (k + 4)).stop = (t.tick k).stop := by
      unfold State.stop
      rw [h.failure (t := t.tick (k + 4)) hf rfl]
    rw [h1]
    unfold finish
    rw [hp, if_pos hf, hs]
    rfl
  · rw [h1]
    unfold finish
    rw [hp, hf, tick_add_four]
    rfl

/-! ## Running alike under every index byte -/

/-- Under every index byte the instruction reaches one state and takes the cycles of that byte on
top. Where a port call may fail, a failure is on record in that state (R801). -/
def Ignores (f : IndexByte → Instr) (s : State) : Prop :=
  ∃ (t : State) (k : Nat),
    ((fun p => exec (f p) s) = fun p => .next (t.tick (k + extra p)))
      ∨ (t.tick k).Recorded ∧ (fun p => exec (f p) s) = fun p => finish (t.tick (k + extra p))

/-- An index byte that takes four cycles. -/
theorem Ignores.exec_eq {p : IndexByte} (h : Ignores f s) (hp : extra p = 4) :
    exec (f p) s = Claims.fourLater (exec (f .none) s) := by
  obtain ⟨t, k, h | ⟨hr, h⟩⟩ := h
  · rw [congrFun h p, congrFun h .none, hp, tick_add_four]
    rfl
  · rw [congrFun h p, congrFun h .none, hp]
    exact finish_later hr

/-- An instruction that makes no port call. -/
theorem Ignores.next (h : (fun p => exec (f p) s) = fun p => .next (t.tick (k + extra p))) :
    Ignores f s :=
  ⟨t, k, .inl h⟩

/-- An instruction that makes port calls: its operation keeps a failure on record. -/
theorem Ignores.finish {made : List PortCall} {w : List Elem} {m : List Word}
    {o : List (Byte × Byte)} (hr : s.Recorded) (d : Did s (t.tick k) cyc made w m o)
    (h : (fun p => exec (f p) s) = fun p => finish (t.tick (k + extra p))) : Ignores f s :=
  ⟨t, k, .inr ⟨d.frame.recorded hr, h⟩⟩

/-! ## The operations that choose -/

theorem Ignores.jumpIf {cc : Cond} {nn : Word}
    (h : (fun p => exec (f p) s) = fun p => .next (jumpIf cc nn (k + extra p) s)) :
    Ignores f s := by
  unfold Machine.jumpIf at h
  split at h
  · exact .next h
  · exact .next h

theorem Ignores.jumpRelIf {cc : Cond} {e : Byte}
    (h : (fun p => exec (f p) s) = fun p => .next (jumpRelIf cc e (extra p) s)) :
    Ignores f s := by
  unfold Machine.jumpRelIf at h
  split at h
  · exact .next h
  · exact .next h

theorem Ignores.djnz {e : Byte}
    (h : (fun p => exec (f p) s) = fun p => .next (djnz e (extra p) s)) : Ignores f s := by
  unfold Machine.djnz at h
  dsimp only at h
  split at h
  · exact .next h
  · exact .next h

theorem Ignores.callIf {cc : Cond} {nn : Word} (hr : s.Recorded)
    (h : (fun p => exec (f p) s) = fun p => Machine.finish (callIf cc nn (extra p) s)) :
    Ignores f s := by
  unfold Machine.callIf at h
  split at h
  · exact .finish hr (call_did s nn 17) h
  · exact .finish hr (tick_did s 10) h

theorem Ignores.retIf {cc : Cond} (hr : s.Recorded)
    (h : (fun p => exec (f p) s) = fun p => Machine.finish (retIf cc (extra p) s)) :
    Ignores f s := by
  unfold Machine.retIf at h
  split at h
  · exact .finish hr (ret_did s 11) h
  · exact .finish hr (tick_did s 5) h

/-! ## The operations that call a port -/

theorem Ignores.storeByte {a : Word} {v : Byte} (hr : s.Recorded)
    (h : (fun p => exec (f p) s) =
      fun p => Machine.finish (Machine.storeByte a v (k + extra p) s)) :
    Ignores f s :=
  .finish hr (storeByte_did s _ _ _) h

theorem Ignores.loadByte {dst : R8} {a : Word} (hr : s.Recorded)
    (h : (fun p => exec (f p) s) =
      fun p => Machine.finish (Machine.loadByte dst a (k + extra p) s)) :
    Ignores f s :=
  .finish hr (loadByte_did s _ _ _) h

theorem Ignores.push16 {src : R16} (hr : s.Recorded)
    (h : (fun p => exec (f p) s) = fun p => Machine.finish (Machine.push16 src (k + extra p) s)) :
    Ignores f s :=
  .finish hr (push16_did s _ _) h

theorem Ignores.pop16 {dst : R16} (hr : s.Recorded)
    (h : (fun p => exec (f p) s) = fun p => Machine.finish (Machine.pop16 dst (k + extra p) s)) :
    Ignores f s :=
  .finish hr (pop16_did s _ _) h

theorem Ignores.call {nn : Word} (hr : s.Recorded)
    (h : (fun p => exec (f p) s) = fun p => Machine.finish (Machine.call nn (k + extra p) s)) :
    Ignores f s :=
  .finish hr (call_did s _ _) h

theorem Ignores.ret (hr : s.Recorded)
    (h : (fun p => exec (f p) s) = fun p => Machine.finish (Machine.ret (k + extra p) s)) :
    Ignores f s :=
  .finish hr (ret_did s _) h

theorem Ignores.outPort {b v : Byte} (hr : s.Recorded)
    (h : (fun p => exec (f p) s) = fun p => Machine.finish (Machine.outPort b v (k + extra p) s)) :
    Ignores f s :=
  .finish hr (outPort_did s _ _ _) h

theorem Ignores.inA {n : Byte} (hr : s.Recorded)
    (h : (fun p => exec (f p) s) = fun p => Machine.finish (Machine.inA n (k + extra p) s)) :
    Ignores f s :=
  .finish hr (inA_did s _ _) h

/-! ## The entries -/

theorem ignores0 (hr : s.Recorded) (n : Byte) (nn : Word) :
    ∀ f ∈ Claims.ignored0 n nn, Ignores f s :=
  List.forall_iff_forall_mem.1
    ⟨.next rfl, .next rfl, .storeByte hr rfl, .next rfl, .next rfl, .next rfl, .next rfl,
      .next rfl, .next rfl, .loadByte hr rfl, .next rfl, .next rfl, .next rfl, .next rfl,
      .next rfl, .djnz rfl, .next rfl, .storeByte hr rfl, .next rfl, .next rfl, .next rfl,
      .next rfl, .next rfl, .next rfl, .loadByte hr rfl, .next rfl, .next rfl, .next rfl,
      .next rfl, .next rfl, .jumpRelIf rfl, .next rfl, .jumpRelIf rfl, .next rfl, .jumpRelIf rfl,
      .next rfl, .storeByte hr rfl, .next rfl, .next rfl, .jumpRelIf rfl⟩

theorem ignores1 (hr : s.Recorded) (n : Byte) (nn : Word) :
    ∀ f ∈ Claims.ignored1 n nn, Ignores f s :=
  List.forall_iff_forall_mem.1
    ⟨.loadByte hr rfl, .next rfl, .next rfl, .next rfl, .next rfl, .next rfl, .next rfl,
      .next rfl, .next rfl, .next rfl, .next rfl, .next rfl, .next rfl, .next rfl, .next rfl,
      .next rfl, .next rfl, .next rfl, .next rfl, .next rfl, .next rfl, .next rfl, .next rfl,
      .next rfl, .next rfl, .next rfl, .next rfl, .next rfl, .next rfl, .next rfl, .next rfl,
      .next rfl, .next rfl, .next rfl, .next rfl, .next rfl, .next rfl, .next rfl, .next rfl,
      .next rfl⟩

theorem ignores2 (hr : s.Recorded) (n : Byte) (nn : Word) :
    ∀ f ∈ Claims.ignored2 n nn, Ignores f s :=
  List.forall_iff_forall_mem.1
    ⟨.next rfl, .next rfl, .next rfl, .next rfl, .next rfl, .next rfl, .next rfl, .next rfl,
      .next rfl, .next rfl, .next rfl, .next rfl, .next rfl, .next rfl, .next rfl, .next rfl,
      .next rfl, .next rfl, .next rfl, .next rfl, .next rfl, .next rfl, .next rfl, .next rfl,
      .next rfl, .next rfl, .next rfl, .next rfl, .next rfl, .next rfl, .next rfl, .next rfl,
      .retIf hr rfl, .pop16 hr rfl, .jumpIf rfl, .next rfl, .callIf hr rfl, .push16 hr rfl,
      .next rfl, .call hr rfl⟩

theorem ignores3 (hr : s.Recorded) (n : Byte) (nn : Word) :
    ∀ f ∈ Claims.ignored3 n nn, Ignores f s :=
  List.forall_iff_forall_mem.1
    ⟨.retIf hr rfl, .ret hr rfl, .jumpIf rfl, .callIf hr rfl, .call hr rfl, .next rfl,
      .call hr rfl, .retIf hr rfl, .pop16 hr rfl, .jumpIf rfl, .outPort hr rfl, .callIf hr rfl,
      .push16 hr rfl, .next rfl, .call hr rfl, .retIf hr rfl, .next rfl, .jumpIf rfl, .inA hr rfl,
      .callIf hr rfl, .next rfl, .call hr rfl, .retIf hr rfl, .jumpIf rfl, .callIf hr rfl,
      .next rfl, .call hr rfl, .retIf hr rfl, .jumpIf rfl, .next rfl, .callIf hr rfl, .next rfl,
      .call hr rfl, .retIf hr rfl, .pop16 hr rfl, .jumpIf rfl, .next rfl, .callIf hr rfl,
      .push16 hr rfl, .next rfl⟩

theorem ignores4 (hr : s.Recorded) (n : Byte) (nn : Word) :
    ∀ f ∈ Claims.ignored4 n nn, Ignores f s :=
  List.forall_iff_forall_mem.1
    ⟨.call hr rfl, .retIf hr rfl, .jumpIf rfl, .next rfl, .callIf hr rfl, .next rfl, .call hr rfl⟩

/-- Every entry that takes an ignored index byte. -/
theorem ignores (hr : s.Recorded) (n : Byte) (nn : Word) :
    ∀ f ∈ Claims.ignored n nn, Ignores f s := by
  unfold Claims.ignored
  simp only [List.forall_mem_append]
  exact ⟨⟨⟨⟨ignores0 hr n nn, ignores1 hr n nn⟩, ignores2 hr n nn⟩, ignores3 hr n nn⟩,
    ignores4 hr n nn⟩

/-- The index byte stands before the bytes of the instruction. -/
theorem prefixes (n : Byte) (nn : Word) : ∀ f ∈ Claims.ignored n nn,
    (fun p => encode (f p)) = fun p => p.bytes ++ encode (f .none) := by
  intro f hf
  fin_cases hf <;> rfl

end

/-- Settles O25: each entry's index byte stands before its bytes and ticks beside what it does. -/
theorem ignoredIndexByte : Obligations.IgnoredIndexByte := by
  unfold Obligations.IgnoredIndexByte
  intro s n nn hr f hf
  have he := prefixes n nn f hf
  have hx := ignores hr n nn f hf
  exact ⟨⟨congrFun he .dd, hx.exec_eq rfl⟩, congrFun he .fd, hx.exec_eq rfl⟩

end Sys2Proof.Machine
end

section
/-! SUPPORT. The spec's sample words (R203 to R206): each is the encoding of its instruction. -/

namespace Sys2Proof

/-- The bytes of a well-formed instruction decode to it. -/
theorem decode_of_encode_eq {i : Instr} {bs : List Byte} (hw : i.wellFormed = true)
    (he : encode i = bs) : decode bs = .ok (i, []) :=
  he ▸ decodeOfEncode i hw

/-- Settles O3: each word is the encoding of its instruction, which the decoder reads back (O1). -/
theorem sampleWordsDecode : Obligations.SampleWordsDecode := by
  unfold Obligations.SampleWordsDecode
  and_intros <;> exact decode_of_encode_eq rfl rfl

end Sys2Proof
end

section
/-! SUPPORT. Control flow (R350 to R372): every jump, call and return is a branch on its condition
between two shared operations, row by row of the tables. -/

namespace Sys2Proof.Machine

section

variable {α : Type} {row : Claims.Row α} {s t u : State}

/-! ## Branches -/

/-- A row that goes one of two ways, by its condition on F. -/
theorem runs_branch {c : Option Cond} {P Q : State → Prop} (he : encode row.instr = row.bytes)
    (hx : exec row.instr s = .next (if Claims.taken c s.main.f then t else u))
    (ht : P t) (hu : Q u) :
    Claims.Runs row s fun v => if Claims.taken c s.main.f then P v else Q v := by
  refine ⟨he, _, hx, ?_⟩
  split_ifs
  · exact ht
  · exact hu

/-- An operation that has done its work completes where no port fails. -/
theorem Did.finish_eq {cyc : Nat} {made : List PortCall} {w : List Elem} {m : List Word}
    {o : List (Byte × Byte)} (d : Did s t cyc made w m o) (hf : s.failAfter = none) :
    finish t = .next t :=
  finish_next (d.frame.failAfter.trans hf)

theorem finish_ite {c : Prop} [Decidable c] (ht : finish t = .next t) (hu : finish u = .next u) :
    finish (if c then t else u) = .next (if c then t else u) := by
  split_ifs
  · exact ht
  · exact hu

/-! ## The tables -/

/-- Every jump goes to its target, or past itself (R360 to R363, R365). -/
theorem jumps_branch (s : State) (p : IndexByte) (e : Byte) (nn : Word) :
    ∀ row ∈ Claims.jumps s p e nn, encode row.instr = row.bytes
      ∧ exec row.instr s = .next (if Claims.taken row.data.1 s.main.f
          then jumpTo row.data.2.1 row.cyc s else s.tick row.data.2.2) := by
  intro row hrow
  fin_cases hrow <;> exact ⟨rfl, rfl⟩

/-- Every call and restart enters its target, or goes past itself (R366, R367, R372). -/
theorem calls_branch (s : State) (p : IndexByte) (nn : Word) :
    ∀ row ∈ Claims.calls p nn, encode row.instr = row.bytes
      ∧ exec row.instr s = finish (if Claims.taken row.data.1 s.main.f
          then call row.data.2.1 row.cyc s else s.tick row.data.2.2) := by
  intro row hrow
  fin_cases hrow <;> exact ⟨rfl, rfl⟩

/-- Every return pops PC, or goes past itself (R368, R369). -/
theorem returns_branch (s : State) (p : IndexByte) :
    ∀ row ∈ Claims.returns p, encode row.instr = row.bytes
      ∧ exec row.instr s = finish (if Claims.taken row.data.1 s.main.f
          then ret row.cyc s else s.tick row.data.2) := by
  intro row hrow
  fin_cases hrow <;> exact ⟨rfl, rfl⟩

/-! ## The operations -/

/-- B = 1 counts down to 0, and the loop ends. -/
theorem djnz_of_one (e : Byte) (x : Nat) (h : s.main.b = 1#8) :
    djnz e x s = (s.setR8 .b (s.main.b - 1#8)).tick (8 + x) :=
  if_pos (by rw [h]; rfl)

/-- Every other value of B goes round. -/
theorem djnz_of_ne_one (e : Byte) (x : Nat) (h : s.main.b ≠ 1#8) :
    djnz e x s = jumpRel e (13 + x) (s.setR8 .b (s.main.b - 1#8)) :=
  if_neg (show s.main.b - 1#8 ≠ 0#8 by bv_omega)

/-- A call leaves PC on the stack (R19). -/
theorem call_peek (s : State) (nn : Word) (cyc : Nat) :
    (s.keeps (s.sp - 1#16) → (call nn cyc s).peek (s.sp - 1#16) = hi s.pc)
      ∧ (s.keeps (s.sp - 2#16) → (call nn cyc s).peek (s.sp - 2#16) = lo s.pc) :=
  have ⟨hHigh, hLow⟩ := s.push_byteAt s.pc
  ⟨fun hk => State.peek_of_byteAt (hHigh hk), fun hk => State.peek_of_byteAt (hLow hk)⟩

end

/-- Settles O27: each row is a branch between `jumpTo` and going past the instruction. -/
theorem jumps : Obligations.Jumps := by
  unfold Obligations.Jumps
  intro s p e nn row hrow
  obtain ⟨he, hx⟩ := jumps_branch s p e nn row hrow
  exact runs_branch he hx ⟨rfl, jumpTo_did s _ _⟩ ⟨rfl, tick_did s _⟩

/-- Settles O28: B counts down whether it was 1, where the loop ends, or not. -/
theorem decrementAndJump : Obligations.DecrementAndJump := by
  unfold Obligations.DecrementAndJump
  intro s p e
  refine ⟨rfl, djnz e (extra p) s, rfl, ?_⟩
  have d := djnz_did s e (extra p)
  by_cases h : s.main.b = 1#8
  · simp only [if_pos h, djnz_of_one e _ h] at d ⊢
    exact ⟨rfl, rfl, d⟩
  · simp only [if_neg h, djnz_of_ne_one e _ h] at d ⊢
    exact ⟨rfl, rfl, d⟩

/-- Settles O29: each row is a branch between `call` and going past the instruction. -/
theorem calls : Obligations.Calls := by
  unfold Obligations.Calls
  intro s p nn hf row hrow
  obtain ⟨he, hx⟩ := calls_branch s p nn row hrow
  have hd := call_did s row.data.2.1 row.cyc
  have hu := tick_did s row.data.2.2
  rw [finish_ite (hd.finish_eq hf) (hu.finish_eq hf)] at hx
  obtain ⟨hHigh, hLow⟩ := call_peek s row.data.2.1 row.cyc
  exact runs_branch he hx ⟨rfl, rfl, hHigh, hLow, hd⟩ ⟨rfl, hu⟩

/-- Settles O30: each row is a branch between `ret` and going past the instruction. -/
theorem returns : Obligations.Returns := by
  unfold Obligations.Returns
  intro s p hf row hrow
  obtain ⟨he, hx⟩ := returns_branch s p row hrow
  have hd := ret_did s row.cyc
  have hu := tick_did s row.data.2
  rw [finish_ite (hd.finish_eq hf) (hu.finish_eq hf)] at hx
  exact runs_branch he hx ⟨rfl, rfl, hd⟩ ⟨rfl, hu⟩

/-- Settles O31: RETI and every RETN run `retInt`. -/
theorem returnsFromInterrupt : Obligations.ReturnsFromInterrupt := by
  unfold Obligations.ReturnsFromInterrupt
  intro s op hf
  have hd := retInt_did s
  have hx := hd.finish_eq hf
  simp only [List.forall_mem_cons]
  exact ⟨⟨rfl, _, hx, rfl, rfl, rfl, hd⟩, ⟨rfl, _, hx, rfl, rfl, rfl, hd⟩, List.forall_mem_nil _⟩

end Sys2Proof.Machine
end

section
/-! SUPPORT. 8-bit loads (R400 to R420): every row of a table runs one shared operation, and what
the operation leaves in its destination. -/

namespace Sys2Proof.Machine

section

variable (s : State)

/-! ## The tables -/

/-- Every copy of a register runs `ld8` (R401, R419). -/
theorem registerLoads_ld8 (p : IndexByte) : ∀ row ∈ Claims.registerLoads p,
    encode row.instr = row.bytes
      ∧ exec row.instr s = .next (ld8 row.data.1 row.data.2 row.cyc s) := by
  intro row hrow
  fin_cases hrow <;> exact ⟨rfl, rfl⟩

/-- Every load of an immediate byte runs `ldImm8` (R402, R420). -/
theorem immediateLoads_ldImm8 (p : IndexByte) (n : Byte) : ∀ row ∈ Claims.immediateLoads p n,
    encode row.instr = row.bytes
      ∧ exec row.instr s = .next (ldImm8 row.data n row.cyc s) := by
  intro row hrow
  fin_cases hrow <;> exact ⟨rfl, rfl⟩

/-- Every load of a byte of memory runs `loadByte` (R403, R404, R409 to R411). -/
theorem byteLoads_loadByte (p : IndexByte) (d : Byte) (nn : Word) :
    ∀ row ∈ Claims.byteLoads s p d nn, encode row.instr = row.bytes
      ∧ exec row.instr s = finish (loadByte row.data.1 row.data.2 row.cyc s) := by
  intro row hrow
  fin_cases hrow <;> exact ⟨rfl, rfl⟩

/-- Every store of a byte runs `storeByte` (R405 to R408, R412 to R414). -/
theorem byteStores_storeByte (p : IndexByte) (d n : Byte) (nn : Word) :
    ∀ row ∈ Claims.byteStores s p d n nn, encode row.instr = row.bytes
      ∧ exec row.instr s = finish (storeByte row.data.1 row.data.2 row.cyc s) := by
  intro row hrow
  fin_cases hrow <;> exact ⟨rfl, rfl⟩

/-! ## The operations -/

@[simp] theorem ld8_getR8 (dst src : R8) (cyc : Nat) :
    (ld8 dst src cyc s).getR8 dst = s.getR8 src := by
  rw [ld8, State.tick_getR8, State.getR8_setR8_self]

@[simp] theorem ldImm8_getR8 (dst : R8) (n : Byte) (cyc : Nat) :
    (ldImm8 dst n cyc s).getR8 dst = n := by
  rw [ldImm8, State.tick_getR8, State.getR8_setR8_self]

/-- The byte is read before the destination changes, which may be half of the address (R403). -/
@[simp] theorem loadByte_getR8 (dst : R8) (a : Word) (cyc : Nat) :
    (loadByte dst a cyc s).getR8 dst = s.peek a := by
  rw [loadByte, State.tick_getR8, State.getR8_setR8_self]

theorem storeByte_peek {a : Word} (h : s.keeps a) (v : Byte) (cyc : Nat) :
    (storeByte a v cyc s).peek a = v := by
  rw [storeByte, State.tick_peek, State.peek_of_byteAt (State.byteAt_write h v)]

/-- F of LD A,I and LD A,R: P/V is IFF2, C stays (R415, R416). -/
theorem ldAirFlags_eq (v f : Byte) (iff2 : Bool) :
    ldAirFlags v f iff2 = flags (v.getLsbD 7) (v == 0#8) (v.getLsbD 5) false (v.getLsbD 3) iff2
      false (f.getLsbD 0) := by
  apply eq_flags_of <;> simp [ldAirFlags, -BitVec.getLsbD_eq_getElem]

end

/-- Settles O32: each row is a copy by `ld8`. -/
theorem registerLoads : Obligations.RegisterLoads := by
  unfold Obligations.RegisterLoads
  intro s p row hrow
  obtain ⟨he, hx⟩ := registerLoads_ld8 s p row hrow
  exact ⟨he, _, hx, ld8_getR8 s _ _ _, ld8_did s _ _ _⟩

/-- Settles O33: each row loads its byte by `ldImm8`. -/
theorem immediateLoads : Obligations.ImmediateLoads := by
  unfold Obligations.ImmediateLoads
  intro s p n row hrow
  obtain ⟨he, hx⟩ := immediateLoads_ldImm8 s p n row hrow
  exact ⟨he, _, hx, ldImm8_getR8 s _ n _, ldImm8_did s _ n _⟩

/-- Settles O34: each row reads its byte by `loadByte`, which completes where no port fails. -/
theorem byteLoads : Obligations.ByteLoads := by
  unfold Obligations.ByteLoads
  intro s p d nn hf row hrow
  obtain ⟨he, hx⟩ := byteLoads_loadByte s p d nn row hrow
  have hd := loadByte_did s row.data.1 row.data.2 row.cyc
  exact ⟨he, _, hx.trans (hd.finish_eq hf), loadByte_getR8 s _ _ _, hd⟩

/-- Settles O35: each row writes its byte by `storeByte`, which completes where no port fails. -/
theorem byteStores : Obligations.ByteStores := by
  unfold Obligations.ByteStores
  intro s p d n nn hf row hrow
  obtain ⟨he, hx⟩ := byteStores_storeByte s p d n nn row hrow
  have hd := storeByte_did s row.data.1 row.data.2 row.cyc
  exact ⟨he, _, hx.trans (hd.finish_eq hf), fun hk => storeByte_peek s hk _ _, hd⟩

/-- Settles O36: LD A,I and LD A,R run `ldSpecial`; LD I,A and LD R,A copy A whole. -/
theorem specialRegisterLoads : Obligations.SpecialRegisterLoads := by
  unfold Obligations.SpecialRegisterLoads
  intro s
  refine ⟨fun row hrow => ?toA, ⟨rfl, _, rfl, rfl, ldIA_did s⟩, rfl, _, rfl, rfl, ldRA_did s⟩
  case toA =>
    have hF (v : Byte) := ldAirFlags_eq v s.main.f s.iff2
    fin_cases hrow <;> exact ⟨rfl, _, rfl, rfl, hF _, ldSpecial_did s _⟩

end Sys2Proof.Machine
end

section
/-! SUPPORT. 16-bit loads, stack and exchanges (R450 to R462): every row of a table runs one shared
operation, and what the operation leaves in its pair, in memory and in SP. -/

namespace Sys2Proof.Machine

section

variable (s : State)

/-! ## The tables -/

/-- Every load of an immediate word runs `ldImm16`, and `ldSp` is one of what it copies (R451,
R456). -/
theorem pairLoads_ldImm16 (p : IndexByte) (nn : Word) : ∀ row ∈ Claims.pairLoads s p nn,
    encode row.instr = row.bytes
      ∧ exec row.instr s = .next (ldImm16 row.data.1 row.data.2 row.cyc s) := by
  intro row hrow
  fin_cases hrow <;> exact ⟨rfl, rfl⟩

/-- Every load of a word of memory runs `loadWord` (R452, R453). -/
theorem wordLoads_loadWord (nn : Word) : ∀ row ∈ Claims.wordLoads nn,
    encode row.instr = row.bytes
      ∧ exec row.instr s = finish (loadWord row.data nn row.cyc s) := by
  intro row hrow
  fin_cases hrow <;> exact ⟨rfl, rfl⟩

/-- Every store of a pair runs `storeWord` (R454, R455). -/
theorem wordStores_storeWord (nn : Word) : ∀ row ∈ Claims.wordStores nn,
    encode row.instr = row.bytes
      ∧ exec row.instr s = finish (storeWord nn (s.getR16 row.data) row.cyc s) := by
  intro row hrow
  fin_cases hrow <;> exact ⟨rfl, rfl⟩

/-- Every PUSH runs `push16` (R457). -/
theorem pushes_push16 (p : IndexByte) : ∀ row ∈ Claims.pushes p,
    encode row.instr = row.bytes ∧ exec row.instr s = finish (push16 row.data row.cyc s) := by
  intro row hrow
  fin_cases hrow <;> exact ⟨rfl, rfl⟩

/-- Every POP runs `pop16`, and none pops SP (R458). -/
theorem pops_pop16 (p : IndexByte) : ∀ row ∈ Claims.pops p,
    encode row.instr = row.bytes ∧ exec row.instr s = finish (pop16 row.data row.cyc s)
      ∧ row.data ≠ .sp := by
  intro row hrow
  fin_cases hrow <;> exact ⟨rfl, rfl, nofun⟩

/-- Every exchange with the top of the stack runs `exSp` (R462). -/
theorem stackExchanges_exSp : ∀ row ∈ Claims.stackExchanges,
    encode row.instr = row.bytes ∧ exec row.instr s = finish (exSp row.data row.cyc s) := by
  intro row hrow
  fin_cases hrow <;> exact ⟨rfl, rfl⟩

/-! ## Pairs and words -/

/-- The statements name the elements of a pair as the frames do. -/
theorem halves_eq_pairElems (r : R16) : Claims.halves r = pairElems r := by
  cases r <;> rfl

theorem State.setR16_sp_of_ne {r : R16} (v : Word) (h : r ≠ .sp) : (s.setR16 r v).sp = s.sp := by
  cases r with
  | sp => exact absurd rfl h
  | _ => rfl

/-- The statements read a word as `MemRead(addr, 2)` does (R16). -/
theorem State.peekWord_eq_wordAt (a : Word) : s.peekWord a = Claims.wordAt s a := rfl

theorem State.topWord_eq_wordAt : s.topWord = Claims.wordAt s s.sp := s.peekWord_eq_wordAt s.sp

/-! ## The operations -/

@[simp] theorem ldImm16_getR16 (dst : R16) (nn : Word) (cyc : Nat) :
    (ldImm16 dst nn cyc s).getR16 dst = nn := by
  rw [ldImm16, State.tick_getR16, State.getR16_setR16_self]

@[simp] theorem loadWord_getR16 (dst : R16) (a : Word) (cyc : Nat) :
    (loadWord dst a cyc s).getR16 dst = Claims.wordAt s a := by
  rw [loadWord, State.tick_getR16, State.getR16_setR16_self, State.peekWord_eq_wordAt]

theorem storeWord_peek (a v : Word) (cyc : Nat) :
    (s.keeps a → (storeWord a v cyc s).peek a = lo v)
      ∧ (s.keeps (a + 1#16) → (storeWord a v cyc s).peek (a + 1#16) = hi v) :=
  have ⟨hLow, hHigh⟩ := s.writeWord_byteAt a v
  ⟨fun hk => State.peek_of_byteAt (hLow hk), fun hk => State.peek_of_byteAt (hHigh hk)⟩

@[simp] theorem push16_sp (src : R16) (cyc : Nat) : (push16 src cyc s).sp = s.sp - 2#16 := by
  rw [push16, State.tick_sp, State.push_sp]

theorem push16_peek (src : R16) (cyc : Nat) :
    (s.keeps (s.sp - 1#16) → (push16 src cyc s).peek (s.sp - 1#16) = hi (s.getR16 src))
      ∧ (s.keeps (s.sp - 2#16) → (push16 src cyc s).peek (s.sp - 2#16) = lo (s.getR16 src)) :=
  have ⟨hHigh, hLow⟩ := s.push_byteAt (s.getR16 src)
  ⟨fun hk => State.peek_of_byteAt (hHigh hk), fun hk => State.peek_of_byteAt (hLow hk)⟩

@[simp] theorem pop16_getR16 (dst : R16) (cyc : Nat) :
    (pop16 dst cyc s).getR16 dst = Claims.wordAt s s.sp := by
  rw [pop16, State.tick_getR16, State.getR16_setR16_self, State.topWord_eq_wordAt]

/-- A pop into a pair other than SP leaves SP where the reads moved it. -/
theorem pop16_sp {dst : R16} (h : dst ≠ .sp) (cyc : Nat) :
    (pop16 dst cyc s).sp = s.sp + 2#16 := by
  rw [pop16, State.tick_sp, State.setR16_sp_of_ne _ _ h, State.pop_sp]

/-- The write of HL leaves D and E alone. -/
@[simp] theorem exDeHl_getR16_de (cyc : Nat) : (exDeHl cyc s).getR16 .de = s.getR16 .hl :=
  s.getR16_setR16_self .de (s.getR16 .hl)

@[simp] theorem exDeHl_getR16_hl (cyc : Nat) : (exDeHl cyc s).getR16 .hl = s.getR16 .de := by
  rw [exDeHl, State.tick_getR16, State.getR16_setR16_self]

@[simp] theorem exSp_getR16 (r : R16) (cyc : Nat) :
    (exSp r cyc s).getR16 r = Claims.wordAt s s.sp := by
  rw [exSp, State.tick_getR16, State.getR16_setR16_self, State.topWord_eq_wordAt]

/-- The old pair lies at SP: the second write leaves the byte of the first alone (R462). -/
theorem exSp_peek (r : R16) (cyc : Nat) :
    (s.keeps s.sp → (exSp r cyc s).peek s.sp = lo (s.getR16 r))
      ∧ (s.keeps (s.sp + 1#16) → (exSp r cyc s).peek (s.sp + 1#16) = hi (s.getR16 r)) := by
  have fReads := frame_noteReadWord s s.sp
  have fHigh := fReads.trans (frame_write _ (s.sp + 1#16) (hi (s.getR16 r)))
  have hne : s.sp + 1#16 ∉ [s.sp] := by rw [List.mem_singleton]; bv_omega
  simp only [exSp, State.tick_peek, State.setR16_peek]
  refine ⟨fun hk => ?low, fun hk => ?high⟩
  case low => exact State.peek_of_byteAt (State.byteAt_write (fHigh.keeps hk) _)
  case high =>
    have hWritten := State.byteAt_write (fReads.keeps hk) (hi (s.getR16 r))
    exact State.peek_of_byteAt ((frame_write _ _ _).byteAt hWritten (fHigh.keeps hk) hne)

end

/-- Settles O37: each row loads its word by `ldImm16`. -/
theorem pairLoads : Obligations.PairLoads := by
  unfold Obligations.PairLoads
  intro s p nn row hrow
  obtain ⟨he, hx⟩ := pairLoads_ldImm16 s p nn row hrow
  rw [halves_eq_pairElems]
  exact ⟨he, _, hx, ldImm16_getR16 s _ _ _, ldImm16_did s _ _ _⟩

/-- Settles O38: each row reads its word by `loadWord`, which completes where no port fails. -/
theorem wordLoads : Obligations.WordLoads := by
  unfold Obligations.WordLoads
  intro s nn hf row hrow
  obtain ⟨he, hx⟩ := wordLoads_loadWord s nn row hrow
  have hd := loadWord_did s row.data nn row.cyc
  rw [halves_eq_pairElems]
  exact ⟨he, _, hx.trans (hd.finish_eq hf), loadWord_getR16 s _ _ _, hd⟩

/-- Settles O39: each row writes its word by `storeWord`, which completes where no port fails. -/
theorem wordStores : Obligations.WordStores := by
  unfold Obligations.WordStores
  intro s nn hf row hrow
  obtain ⟨he, hx⟩ := wordStores_storeWord s nn row hrow
  have hd := storeWord_did s nn (s.getR16 row.data) row.cyc
  obtain ⟨hLow, hHigh⟩ := storeWord_peek s nn (s.getR16 row.data) row.cyc
  exact ⟨he, _, hx.trans (hd.finish_eq hf), hLow, hHigh, hd⟩

/-- Settles O40: each row pushes its pair by `push16`, which completes where no port fails. -/
theorem pushes : Obligations.Pushes := by
  unfold Obligations.Pushes
  intro s p hf row hrow
  obtain ⟨he, hx⟩ := pushes_push16 s p row hrow
  have hd := push16_did s row.data row.cyc
  obtain ⟨hHigh, hLow⟩ := push16_peek s row.data row.cyc
  exact ⟨he, _, hx.trans (hd.finish_eq hf), push16_sp s _ _, hHigh, hLow, hd⟩

/-- Settles O41: each row pops its pair by `pop16`, which completes where no port fails. -/
theorem pops : Obligations.Pops := by
  unfold Obligations.Pops
  intro s p hf row hrow
  obtain ⟨he, hx, hne⟩ := pops_pop16 s p row hrow
  have hd := pop16_did s row.data row.cyc
  rw [halves_eq_pairElems]
  exact ⟨he, _, hx.trans (hd.finish_eq hf), pop16_getR16 s _ _, pop16_sp s hne _, hd⟩

/-- Settles O42: EX DE,HL goes through the two words; EX AF,AF' and EXX swap the halves as they lie
in the two register sets. -/
theorem registerExchanges : Obligations.RegisterExchanges := by
  unfold Obligations.RegisterExchanges
  intro s p
  refine ⟨⟨rfl, _, rfl, ?deHl⟩, ⟨rfl, _, rfl, ?af⟩, rfl, _, rfl, ?exx⟩
  case deHl => exact ⟨exDeHl_getR16_de s _, exDeHl_getR16_hl s _, exDeHl_did s _⟩
  case af => exact ⟨rfl, rfl, exAf_did s _⟩
  case exx => exact ⟨rfl, rfl, rfl, rfl, rfl, rfl, exx_did s _⟩

/-- Settles O43: each row swaps by `exSp`, which completes where no port fails. -/
theorem stackExchanges : Obligations.StackExchanges := by
  unfold Obligations.StackExchanges
  intro s hf row hrow
  obtain ⟨he, hx⟩ := stackExchanges_exSp s row hrow
  have hd := exSp_did s row.data row.cyc
  obtain ⟨hLow, hHigh⟩ := exSp_peek s row.data row.cyc
  rw [halves_eq_pairElems]
  exact ⟨he, _, hx.trans (hd.finish_eq hf), exSp_getR16 s _ _, hLow, hHigh, hd⟩

end Sys2Proof.Machine
end

section
/-! SUPPORT. Block transfer and search (R500 to R510): every row of a table is one iteration and its
end, and what the two leave in the pointers, in BC, F and PC and in memory. -/

namespace Sys2Proof.Machine

section

variable (s : State)

/-! ## The tables -/

/-- Every block transfer is one transfer; the repeating forms go on by the BC it leaves (R503 to
R506). -/
theorem blockTransfers_repeatIf : ∀ row ∈ Claims.blockTransfers,
    encode row.instr = row.bytes
      ∧ exec row.instr s = finish (repeatIf
          (row.data.2 && (transfer row.data.1 s).getR16 .bc != 0#16) (transfer row.data.1 s)) := by
  intro row hrow
  fin_cases hrow <;> exact ⟨rfl, rfl⟩

/-- Every block search is one search; the repeating forms go on by the BC it leaves and by whether
the byte is A (R507 to R510). -/
theorem blockSearches_repeatIf : ∀ row ∈ Claims.blockSearches,
    encode row.instr = row.bytes
      ∧ exec row.instr s = finish (repeatIf
          (row.data.2 && ((search row.data.1 s).getR16 .bc != 0#16 && s.main.a != s.peek s.hl))
          (search row.data.1 s)) := by
  intro row hrow
  fin_cases hrow <;> exact ⟨rfl, rfl⟩

/-! ## The end of an iteration (R500) -/

@[simp] theorem repeatIf_main (again : Bool) : (repeatIf again s).main = s.main := by
  cases again <;> rfl

@[simp] theorem repeatIf_getR16 (again : Bool) (r : R16) :
    (repeatIf again s).getR16 r = s.getR16 r := by
  cases again <;> simp [repeatIf]

@[simp] theorem repeatIf_peek (again : Bool) (a : Word) : (repeatIf again s).peek a = s.peek a := by
  cases again <;> rfl

@[simp] theorem repeatIf_pc (again : Bool) :
    (repeatIf again s).pc = if again then s.pc - 2#16 else s.pc := by
  cases again <;> rfl

/-! ## One transfer and one search -/

/-- A pointer down by 1 is a pointer up by 0xFFFF. -/
theorem advance_eq_moved (up : Bool) (w : Word) : advance up w = Claims.moved up w := by
  unfold advance Claims.moved
  split_ifs
  · rfl
  · exact BitVec.sub_eq_add_neg w 1#16

/-- The later writes of DE and BC leave H and L alone. -/
theorem transfer_getR16_hl (up : Bool) :
    (transfer up s).getR16 .hl = Claims.moved up (s.getR16 .hl) :=
  (pair_hi_lo _).trans (advance_eq_moved up _)

theorem transfer_getR16_de (up : Bool) :
    (transfer up s).getR16 .de = Claims.moved up (s.getR16 .de) :=
  (pair_hi_lo _).trans (advance_eq_moved up _)

theorem transfer_getR16_bc (up : Bool) : (transfer up s).getR16 .bc = s.getR16 .bc - 1#16 :=
  pair_hi_lo _

/-- The byte lands at the old DE (R503). -/
theorem transfer_peek (up : Bool) (hk : s.keeps (s.getR16 .de)) :
    (transfer up s).peek (s.getR16 .de) = s.peek (s.getR16 .hl) := by
  have hWritten := State.byteAt_write ((frame_noteRead s s.hl).keeps hk) (s.peek s.hl)
  simp only [transfer, State.setF_peek, State.setR16_peek]
  exact State.peek_of_byteAt hWritten

theorem search_getR16_hl (up : Bool) :
    (search up s).getR16 .hl = Claims.moved up (s.getR16 .hl) :=
  (pair_hi_lo _).trans (advance_eq_moved up _)

theorem search_getR16_bc (up : Bool) : (search up s).getR16 .bc = s.getR16 .bc - 1#16 :=
  pair_hi_lo _

/-! ## Flags -/

/-- F of a transfer: S, Z and C stay, X5 and X3 are bits 1 and 3 of A plus the byte (R501). -/
theorem transferFlags_eq (f a val : Byte) (bc : Word) :
    transferFlags f a val bc = flags (f.getLsbD 7) (f.getLsbD 6) ((a + val).getLsbD 1) false
      ((a + val).getLsbD 3) (bc != 0#16) false (f.getLsbD 0) := by
  apply eq_flags_of <;> simp [transferFlags, -BitVec.getLsbD_eq_getElem]

/-- A borrow into bit 4 is a comparison of the low halves (R306). -/
theorem halfBorrow_eq (a b : Byte) :
    decide (((a &&& 0x0F#8).toNat : Int) - (b &&& 0x0F#8).toNat < 0)
      = decide (a.toNat % 16 < b.toNat % 16) := by
  have low (v : Byte) : (v &&& 0x0F#8).toNat = v.toNat % 16 :=
    (BitVec.toNat_and ..).trans (Nat.and_two_pow_sub_one_eq_mod v.toNat 4)
  rw [low, low, decide_eq_decide]
  omega

theorem cinByte_eq (c : Bool) : cinByte c = (BitVec.ofBool c).setWidth 8 := by
  cases c <;> rfl

/-- F of a search: the comparison's S, Z and H, X5 and X3 from bits 1 and 3 of its result less H,
and C stays (R502). -/
theorem searchFlags_eq (f a val : Byte) (bc : Word) :
    let res := a - val
    let h := decide (a.toNat % 16 < val.toNat % 16)
    let k := res - (BitVec.ofBool h).setWidth 8
    searchFlags f a val bc = flags (res.getLsbD 7) (res == 0#8) (k.getLsbD 1) h (k.getLsbD 3)
      (bc != 0#16) true (f.getLsbD 0) := by
  simp only [searchFlags, halfBorrow_eq, cinByte_eq]
  apply eq_flags_of <;> simp [-BitVec.getLsbD_eq_getElem]

/-- The byte differs from A where the comparison's result is not 0 (R508). -/
theorem sub_bne_zero (a b : Byte) : (a - b != 0#8) = (a != b) := by
  rw [Bool.eq_iff_iff, bne_iff_ne, bne_iff_ne, ne_eq, ne_eq, BitVec.sub_eq_iff_eq_add,
    BitVec.zero_add]

end

/-- Settles O44: each row is a `transfer` and its end, which completes where no port fails. -/
theorem blockTransfers : Obligations.BlockTransfers := by
  unfold Obligations.BlockTransfers
  intro s hf row hrow
  obtain ⟨he, hx⟩ := blockTransfers_repeatIf s row hrow
  rw [transfer_getR16_bc] at hx
  have hd := repeatIf_did (row.data.2 && s.getR16 .bc - 1#16 != 0#16) (transfer_did s row.data.1)
  refine ⟨he, _, hx.trans (hd.finish_eq hf), fun hk => ?byte, ?hl, ?de, ?bc, ?f, ?pc, hd⟩
  case byte => rw [repeatIf_peek, transfer_peek s _ hk]
  case hl => rw [repeatIf_getR16, transfer_getR16_hl]
  case de => rw [repeatIf_getR16, transfer_getR16_de]
  case bc => rw [repeatIf_getR16, transfer_getR16_bc]
  case f => rw [repeatIf_main]; exact transferFlags_eq ..
  case pc => exact repeatIf_pc ..

/-- Settles O45: each row is a `search` and its end, which completes where no port fails. -/
theorem blockSearches : Obligations.BlockSearches := by
  unfold Obligations.BlockSearches
  intro s hf row hrow
  obtain ⟨he, hx⟩ := blockSearches_repeatIf s row hrow
  rw [search_getR16_bc, ← sub_bne_zero, ← Bool.and_assoc] at hx
  have hd := repeatIf_did (row.data.2 && s.getR16 .bc - 1#16 != 0#16
    && s.main.a - s.peek s.hl != 0#8) (search_did s row.data.1)
  refine ⟨he, _, hx.trans (hd.finish_eq hf), ?hl, ?bc, ?f, ?pc, hd⟩
  case hl => rw [repeatIf_getR16, search_getR16_hl]
  case bc => rw [repeatIf_getR16, search_getR16_bc]
  case f => rw [repeatIf_main]; exact searchFlags_eq ..
  case pc => exact repeatIf_pc ..

end Sys2Proof.Machine
end

section
/-! SUPPORT. Input and output (R550 to R565): every row of a table runs one shared operation, and
what the operation leaves in its register, in B, HL, F and PC and in memory. -/

namespace Sys2Proof.Machine

section

variable (s : State)

/-! ## The tables -/

/-- Every input from port C runs `inReg` into its register, or `inF` where it has none (R553,
R554). -/
theorem registerInputs_inReg_or_inF : ∀ row ∈ Claims.registerInputs,
    encode row.instr = row.bytes ∧ row.cyc = 12
      ∧ exec row.instr s = finish (row.data.elim (inF s) (inReg · s)) := by
  intro row hrow
  fin_cases hrow <;> exact ⟨rfl, rfl, rfl⟩

/-- Every output of one byte runs `outPort` (R555 to R557). -/
theorem outputs_outPort (p : IndexByte) (n : Byte) : ∀ row ∈ Claims.outputs s p n,
    encode row.instr = row.bytes
      ∧ exec row.instr s = finish (outPort row.data.1 row.data.2 row.cyc s) := by
  intro row hrow
  fin_cases hrow <;> exact ⟨rfl, rfl⟩

/-- Every block input is one input; the repeating forms go on by the B it leaves (R558 to R561). -/
theorem blockInputs_repeatIf : ∀ row ∈ Claims.blockInputs,
    encode row.instr = row.bytes
      ∧ exec row.instr s = finish (repeatIf
          (row.data.2 && (blockIn row.data.1 s).main.b != 0#8) (blockIn row.data.1 s)) := by
  intro row hrow
  fin_cases hrow <;> exact ⟨rfl, rfl⟩

/-- Every block output is one output; the repeating forms go on by the B it leaves (R562 to
R565). -/
theorem blockOutputs_repeatIf : ∀ row ∈ Claims.blockOutputs,
    encode row.instr = row.bytes
      ∧ exec row.instr s = finish (repeatIf
          (row.data.2 && (blockOut row.data.1 s).main.b != 0#8) (blockOut row.data.1 s)) := by
  intro row hrow
  fin_cases hrow <;> exact ⟨rfl, rfl⟩

/-! ## Flags -/

/-- The count of 1 bits is even where their exclusive or is 0 (R305). -/
theorem evenOnes_eq_even (v : Byte) : evenOnes v = Claims.even v := by
  revert v; decide

/-- F of an input: S, Z, X5, X3 and parity of the byte, and C stays (R553). -/
theorem inFlags_eq (val f : Byte) :
    inFlags val f = flags (val.getLsbD 7) (val == 0#8) (val.getLsbD 5) false (val.getLsbD 3)
      (Claims.even val) false (f.getLsbD 0) := by
  apply eq_flags_of <;> simp [inFlags, evenOnes_eq_even, -BitVec.getLsbD_eq_getElem]

theorem ofNat_and_seven (k : Nat) : BitVec.ofNat 8 k &&& 0x07#8 = BitVec.ofNat 8 (k % 8) := by
  apply BitVec.eq_of_toNat_eq
  have hLow : k % 2 ^ 8 &&& 7 = k % 2 ^ 8 % 8 := Nat.and_two_pow_sub_one_eq_mod _ 3
  refine (BitVec.toNat_and ..).trans (hLow.trans ?_)
  rw [BitVec.toNat_ofNat]
  omega

/-- F of a block input or output: S, Z, X5 and X3 from B, H and C where the sum is above 8 bits,
parity of its low three bits with B, and N from bit 7 of the byte (R551). -/
theorem blockIoFlags_eq (val b : Byte) (k : Nat) :
    blockIoFlags val b k = flags (b.getLsbD 7) (b == 0#8) (b.getLsbD 5) (decide (255 < k))
      (b.getLsbD 3) (Claims.even (BitVec.ofNat 8 (k % 8) ^^^ b)) (val.getLsbD 7)
      (decide (255 < k)) := by
  simp only [blockIoFlags, ofNat_and_seven]
  apply eq_flags_of <;> simp [evenOnes_eq_even, -BitVec.getLsbD_eq_getElem]

/-! ## One input and one output -/

@[simp] theorem inA_a (n : Byte) (cyc : Nat) : (inA n cyc s).main.a = s.portValue n := rfl

@[simp] theorem inReg_getR8 (dst : R8) : (inReg dst s).getR8 dst = s.portValue s.main.c := by
  rw [inReg, State.tick_getR8, State.setF_getR8, State.getR8_setR8_self]

@[simp] theorem inReg_f (dst : R8) :
    (inReg dst s).main.f = inFlags (s.portValue s.main.c) s.main.f := rfl

@[simp] theorem inF_f : (inF s).main.f = inFlags (s.portValue s.main.c) s.main.f := rfl

@[simp] theorem blockIn_b (up : Bool) : (blockIn up s).main.b = s.main.b - 1#8 := rfl

/-- The later write of B leaves H and L alone. -/
theorem blockIn_getR16_hl (up : Bool) :
    (blockIn up s).getR16 .hl = Claims.moved up (s.getR16 .hl) :=
  (pair_hi_lo _).trans (advance_eq_moved up _)

/-- The byte lands at the old HL (R558). -/
theorem blockIn_peek (up : Bool) (hk : s.keeps (s.getR16 .hl)) :
    (blockIn up s).peek (s.getR16 .hl) = s.portValue s.main.c := by
  have hWritten :=
    State.byteAt_write ((frame_noteIn s s.main.c).keeps hk) (s.portValue s.main.c)
  simp only [blockIn, State.setF_peek, State.setR8_peek, State.setR16_peek]
  exact State.peek_of_byteAt hWritten

@[simp] theorem blockOut_b (up : Bool) : (blockOut up s).main.b = s.main.b - 1#8 := rfl

theorem blockOut_getR16_hl (up : Bool) :
    (blockOut up s).getR16 .hl = Claims.moved up (s.getR16 .hl) :=
  (pair_hi_lo _).trans (advance_eq_moved up _)

/-- The sum takes L after the move of HL (R562). -/
theorem blockOut_f (up : Bool) :
    (blockOut up s).main.f = blockIoFlags (s.peek (s.getR16 .hl)) (s.main.b - 1#8)
      ((s.peek (s.getR16 .hl)).toNat + (lo (Claims.moved up (s.getR16 .hl))).toNat) := by
  rw [← advance_eq_moved]; rfl

end

/-- Settles O46: IN A,(n) runs `inA`, and each row `inReg` or `inF`, which complete where no port
fails. -/
theorem inputs : Obligations.Inputs := by
  unfold Obligations.Inputs
  intro s hf
  refine ⟨fun p n => ?toA, fun row hrow => ?fromC⟩
  case toA =>
    have hd := inA_did s n (11 + extra p)
    exact ⟨rfl, _, hd.finish_eq hf, inA_a s n _, hd⟩
  case fromC =>
    obtain ⟨he, hc, hx⟩ := registerInputs_inReg_or_inF s row hrow
    obtain ⟨instr, bytes, cyc, dst⟩ := row
    obtain rfl : cyc = 12 := hc
    cases dst with
    | some r =>
      have hd := inReg_did s r
      refine ⟨he, _, hx.trans (hd.finish_eq hf), ?reg, (inReg_f s r).trans (inFlags_eq ..), hd⟩
      case reg => rintro _ ⟨rfl⟩; exact inReg_getR8 s r
    | none =>
      have hd := inF_did s
      exact ⟨he, _, hx.trans (hd.finish_eq hf), nofun, (inF_f s).trans (inFlags_eq ..), hd⟩

/-- Settles O47: each row sends its byte by `outPort`, which completes where no port fails. -/
theorem outputs : Obligations.Outputs := by
  unfold Obligations.Outputs
  intro s p n hf row hrow
  obtain ⟨he, hx⟩ := outputs_outPort s p n row hrow
  have hd := outPort_did s row.data.1 row.data.2 row.cyc
  exact ⟨he, _, hx.trans (hd.finish_eq hf), hd⟩

/-- Settles O48: each row is a `blockIn` or a `blockOut` and its end, which completes where no port
fails. -/
theorem blockInputsAndOutputs : Obligations.BlockInputsAndOutputs := by
  unfold Obligations.BlockInputsAndOutputs
  intro s hf
  refine ⟨fun row hrow => ?input, fun row hrow => ?output⟩
  case input =>
    obtain ⟨he, hx⟩ := blockInputs_repeatIf s row hrow
    rw [blockIn_b] at hx
    have hd := repeatIf_did (row.data.2 && s.main.b - 1#8 != 0#8) (blockIn_did s row.data.1)
    refine ⟨he, _, hx.trans (hd.finish_eq hf), fun hk => ?byte, ?hl, ?b, ?f, ?pc, hd⟩
    case byte => rw [repeatIf_peek, blockIn_peek s _ hk]
    case hl => rw [repeatIf_getR16, blockIn_getR16_hl]
    case b => rw [repeatIf_main, blockIn_b]
    case f => rw [repeatIf_main]; exact blockIoFlags_eq ..
    case pc => exact repeatIf_pc ..
  case output =>
    obtain ⟨he, hx⟩ := blockOutputs_repeatIf s row hrow
    rw [blockOut_b] at hx
    have hd := repeatIf_did (row.data.2 && s.main.b - 1#8 != 0#8) (blockOut_did s row.data.1)
    refine ⟨he, _, hx.trans (hd.finish_eq hf), ?hl, ?b, ?f, ?pc, hd⟩
    case hl => rw [repeatIf_getR16, blockOut_getR16_hl]
    case b => rw [repeatIf_main, blockOut_b]
    case f => rw [repeatIf_main, blockOut_f]; exact blockIoFlags_eq ..
    case pc => exact repeatIf_pc ..

end Sys2Proof.Machine
end

section
/-! SUPPORT. CPU control (R600 to R608): each instruction sets its control state, ticks and completes,
with no port call that could fail. -/

namespace Sys2Proof.Machine

/-- Settles O49: NOP and the ED no-operations tick alone, HALT, DI and EI run `halt`, `di` and `ei`,
and each row of IM runs `setIm` with its mode. -/
theorem cpuControl : Obligations.CpuControl := by
  unfold Obligations.CpuControl
  intro s p op
  refine ⟨⟨rfl, _, rfl, ?nop⟩, ⟨rfl, _, rfl, ?nopEd⟩, ⟨rfl, _, rfl, ?halt⟩, ⟨rfl, _, rfl, ?di⟩,
    ⟨rfl, _, rfl, ?ei⟩, fun row hrow => ?im⟩
  case nop => exact tick_did s _
  case nopEd => exact tick_did s 8
  case halt => exact ⟨rfl, halt_did s _⟩
  case di => exact ⟨rfl, rfl, di_did s _⟩
  case ei => exact ⟨rfl, rfl, rfl, ei_did s _⟩
  case im => fin_cases hrow <;> exact ⟨rfl, _, rfl, rfl, setIm_did s _⟩

end Sys2Proof.Machine
end

section
/-! SUPPORT. 8-bit arithmetic and logic (R650 to R669): every row of a table runs one shared
operation, and what the operation leaves in its operand and in F, bit by bit. -/

namespace Sys2Proof.Machine

section

variable (s : State)

/-! ## The tables -/

/-- How an accumulator operation runs: `alu` on a value at hand, or `aluMem` on a byte of memory,
which it reads once (R650). -/
inductive RunsAccumulator (i : Instr) (cyc : Nat) : AluOp × Byte × List PortCall → Prop
  | value (op : AluOp) (v : Byte) (h : exec i s = .next (alu op v cyc s)) :
      RunsAccumulator i cyc (op, v, [])
  | byteAt (op : AluOp) (a : Word) (h : exec i s = finish (aluMem op a cyc s)) :
      RunsAccumulator i cyc (op, s.peek a, [.memRead a (s.peek a)])

/-- How a byte is counted: up or down, in a register or in memory (R659 to R664). -/
inductive RunsCount (i : Instr) (cyc : Nat) : Bool × Claims.Place → Prop
  | incReg (r : R8) (h : exec i s = .next (incReg r cyc s)) : RunsCount i cyc (true, .reg r)
  | decReg (r : R8) (h : exec i s = .next (decReg r cyc s)) : RunsCount i cyc (false, .reg r)
  | incMem (a : Word) (h : exec i s = finish (incMem a cyc s)) : RunsCount i cyc (true, .mem a)
  | decMem (a : Word) (h : exec i s = finish (decMem a cyc s)) : RunsCount i cyc (false, .mem a)

theorem accumulators_runsAccumulator (p : IndexByte) (d n : Byte) :
    ∀ row ∈ Claims.accumulators s p d n,
      encode row.instr = row.bytes ∧ RunsAccumulator s row.instr row.cyc row.data := by
  intro row hrow
  fin_cases hrow <;> exact ⟨rfl, by constructor; rfl⟩

theorem byteCounts_runsCount (p : IndexByte) (d : Byte) : ∀ row ∈ Claims.byteCounts s p d,
    encode row.instr = row.bytes ∧ RunsCount s row.instr row.cyc row.data := by
  intro row hrow
  fin_cases hrow <;> exact ⟨rfl, by constructor; rfl⟩

/-! ## Primitives (R314 to R318) -/

theorem toNat_and_0x0F (v : Byte) : (v &&& 0x0F#8).toNat = v.toNat % 16 :=
  (BitVec.toNat_and ..).trans (Nat.and_two_pow_sub_one_eq_mod v.toNat 4)

theorem outside8_eq_noByte (n : Int) : outside8 n = Claims.noByte n := Bool.decide_or ..

theorem carryOf_eq_carryIn (f : Byte) : carryOf f = Claims.carryIn f := by
  revert f; decide

/-- A sum is the same narrowed at the end and at each step (R13, R314). -/
theorem add8_eq_sum8 (a v : Byte) (c : Nat) : add8 a v c = Claims.sum8 a v c := by
  have hr : BitVec.ofNat 8 (a.toNat + v.toNat + c) = a + v + BitVec.ofNat 8 c := by bv_omega
  simp only [add8, Claims.sum8, hr, toNat_and_0x0F, outside8_eq_noByte]
  refine Prod.ext rfl ?_
  apply eq_flags_of <;> simp [-BitVec.getLsbD_eq_getElem]

/-- A difference is the same narrowed at the end and at each step, and a borrow is a comparison
(R13, R315). -/
theorem sub8_eq_difference8 (a v : Byte) (c : Nat) : sub8 a v c = Claims.difference8 a v c := by
  have hr : BitVec.ofInt 8 (a.toNat - v.toNat - c) = a - v - BitVec.ofNat 8 c := by bv_omega
  have hBorrow (m n : Nat) : ((m : Int) - n - c < 0) ↔ m < n + c := by omega
  simp only [sub8, Claims.difference8, hr, hBorrow, toNat_and_0x0F, outside8_eq_noByte]
  refine Prod.ext rfl ?_
  apply eq_flags_of <;> simp [-BitVec.getLsbD_eq_getElem]

/-- F of AND, and with no half carry F of XOR and OR (R318). -/
theorem sz53p_halfCarry_eq_logic8 (r : Byte) (h : Bool) :
    sz53p r ||| halfCarry h = Claims.logic8 r h := by
  apply eq_flags_of <;> simp [evenOnes_eq_even, -BitVec.getLsbD_eq_getElem]

theorem sz53p_eq_logic8 (r : Byte) : sz53p r = Claims.logic8 r false :=
  BitVec.or_zero.symm.trans (sz53p_halfCarry_eq_logic8 r false)

/-- F of CP is F of the difference but for X5 and X3, which are the operand's (R658). -/
theorem cp8_eq_accumulator (a v f : Byte) : cp8 a v = (Claims.accumulator .cp a v f).2 := by
  simp only [cp8, sub8_eq_difference8, Claims.difference8, Claims.accumulator]
  apply eq_flags_of <;> simp [flags_bits, -BitVec.getLsbD_eq_getElem]

theorem aluResult_eq_accumulator (op : AluOp) (a v f : Byte) :
    aluResult op a v f = Claims.accumulator op a v f := by
  cases op with
  | add => exact add8_eq_sum8 a v 0
  | adc => exact (add8_eq_sum8 a v _).trans (by rw [carryOf_eq_carryIn]; rfl)
  | sub => exact sub8_eq_difference8 a v 0
  | sbc => exact (sub8_eq_difference8 a v _).trans (by rw [carryOf_eq_carryIn]; rfl)
  | and => exact Prod.ext rfl (sz53p_halfCarry_eq_logic8 _ true)
  | xor => exact Prod.ext rfl (sz53p_eq_logic8 _)
  | or => exact Prod.ext rfl (sz53p_eq_logic8 _)
  | cp => exact Prod.ext rfl (cp8_eq_accumulator a v f)

/-- INC carries out of the low digit where it is 15 (R316). -/
theorem inc8_eq_counted (v f : Byte) : inc8 v f = Claims.counted true v f := by
  have hh : (v &&& 0x0F#8 == 0x0F#8) = (v.toNat % 16 == 15) := by revert v; decide
  simp only [inc8, Claims.counted, hh, if_true]
  refine Prod.ext rfl ?_
  apply eq_flags_of <;> simp [-BitVec.getLsbD_eq_getElem]

/-- DEC borrows from the high digit where the low one is 0 (R317). -/
theorem dec8_eq_counted (v f : Byte) : dec8 v f = Claims.counted false v f := by
  have hh : (v &&& 0x0F#8 == 0x00#8) = (v.toNat % 16 == 0) := by revert v; decide
  simp only [dec8, Claims.counted, hh, Bool.false_eq_true, if_false]
  refine Prod.ext rfl ?_
  apply eq_flags_of <;> simp [-BitVec.getLsbD_eq_getElem]

/-! ## Adjustments (R665 to R669) -/

/-- DAA: 6 corrects the low digit and 0x60 the high one, each where it is due (R665). -/
theorem daa8_eq (a f : Byte) :
    let six := f.getLsbD 4 || decide (9 < a.toNat % 16)
    let sixty := f.getLsbD 0 || decide (0x99 < a.toNat)
    let diff := BitVec.ofNat 8 ((if six then 6 else 0) + (if sixty then 0x60 else 0))
    let r := if f.getLsbD 1 then a - diff else a + diff
    let h := if f.getLsbD 1 then f.getLsbD 4 && decide (a.toNat % 16 < 6)
      else decide (9 < a.toNat % 16)
    daa8 a f = (r, flags (r.getLsbD 7) (r == 0#8) (r.getLsbD 5) h (r.getLsbD 3) (Claims.even r)
      (f.getLsbD 1) sixty) := by
  have hDiff (six sixty : Bool) : (if six then 0x06#8 else 0#8) + (if sixty then 0x60#8 else 0#8)
      = BitVec.ofNat 8 ((if six then 6 else 0) + (if sixty then 0x60 else 0)) := by
    cases six <;> cases sixty <;> rfl
  simp only [daa8, hDiff, toNat_and_0x0F, gt_iff_lt]
  refine Prod.ext rfl ?_
  apply eq_flags_of <;> simp [evenOnes_eq_even, -BitVec.getLsbD_eq_getElem]

/-- F of CPL: S, Z, P/V and C stay, X5 and X3 are those of the complement (R666). -/
theorem cplFlags_eq (a f : Byte) :
    unaffectedMask f 0xC5#8 ||| x53 (~~~a) ||| halfCarry true ||| subtract true
      = flags (f.getLsbD 7) (f.getLsbD 6) (!a.getLsbD 5) true (!a.getLsbD 3) (f.getLsbD 2) true
          (f.getLsbD 0) := by
  apply eq_flags_of <;> simp [-BitVec.getLsbD_eq_getElem]

/-- F of CCF and SCF: S, Z and P/V stay, X5 and X3 are those of a byte `xy` (R668, R669). -/
theorem scfCcfFlags_eq (f xy : Byte) (h c : Bool) :
    unaffectedMask f 0xC4#8 ||| (xy &&& 0x28#8) ||| halfCarry h ||| subtract false ||| carry c
      = flags (f.getLsbD 7) (f.getLsbD 6) (xy.getLsbD 5) h (xy.getLsbD 3) (f.getLsbD 2) false
          c := by
  apply eq_flags_of <;> simp [-BitVec.getLsbD_eq_getElem]

/-! ## The operations -/

theorem alu_a_f (op : AluOp) (v : Byte) (cyc : Nat) :
    ((alu op v cyc s).main.a, (alu op v cyc s).main.f)
      = Claims.accumulator op s.main.a v s.main.f :=
  aluResult_eq_accumulator ..

/-- What an accumulator operation may write: CP leaves A as it was (R658). -/
theorem Did.accumulator {s t : State} {op : AluOp} {v : Byte} {cyc : Nat} {made : List PortCall}
    (h : Did s t cyc made [.r8 .a, .f] [] [])
    (ha : t.main.a = (Claims.accumulator op s.main.a v s.main.f).1) :
    Did s t cyc made (if op = .cp then [.f] else [.r8 .a, .f]) [] [] := by
  split_ifs with hop
  · subst hop
    have hA : t.look (.r8 .a) = s.look (.r8 .a) := congrArg BitVec.toNat ha
    exact h.widen (by simp [hA])
  · exact h

@[simp] theorem incReg_getR8 (r : R8) (cyc : Nat) :
    (incReg r cyc s).getR8 r = (inc8 (s.getR8 r) s.main.f).1 := by
  rw [incReg, State.tick_getR8, State.setF_getR8, State.getR8_setR8_self]

@[simp] theorem decReg_getR8 (r : R8) (cyc : Nat) :
    (decReg r cyc s).getR8 r = (dec8 (s.getR8 r) s.main.f).1 := by
  rw [decReg, State.tick_getR8, State.setF_getR8, State.getR8_setR8_self]

theorem incMem_peek {a : Word} (hk : s.keeps a) (cyc : Nat) :
    (incMem a cyc s).peek a = (inc8 (s.peek a) s.main.f).1 := by
  rw [incMem, State.tick_peek, State.setF_peek]
  exact State.peek_of_byteAt (State.byteAt_write ((frame_noteRead s a).keeps hk) _)

theorem decMem_peek {a : Word} (hk : s.keeps a) (cyc : Nat) :
    (decMem a cyc s).peek a = (dec8 (s.peek a) s.main.f).1 := by
  rw [decMem, State.tick_peek, State.setF_peek]
  exact State.peek_of_byteAt (State.byteAt_write ((frame_noteRead s a).keeps hk) _)

end

/-- Settles O50: each row runs `alu`, or `aluMem`, which completes where no port fails. -/
theorem accumulatorOperations : Obligations.AccumulatorOperations := by
  unfold Obligations.AccumulatorOperations
  rintro s p d n hf ⟨instr, bytes, cyc, data⟩ hrow
  obtain ⟨he, hr⟩ := accumulators_runsAccumulator s p d n _ hrow
  cases hr with
  | value op v hx =>
    obtain ⟨ha, hF⟩ := Prod.ext_iff.mp (alu_a_f s op v cyc)
    exact ⟨he, _, hx, ha, hF, (alu_did s op v cyc).accumulator ha⟩
  | byteAt op a hx =>
    have hd := aluMem_did s op a cyc
    obtain ⟨ha, hF⟩ := Prod.ext_iff.mp (alu_a_f (s.noteRead a) op (s.peek a) cyc)
    exact ⟨he, _, hx.trans (hd.finish_eq hf), ha, hF, hd.accumulator ha⟩

/-- Settles O51: each row counts its byte in a register, or in memory, which completes where no port
fails. -/
theorem byteIncrementsAndDecrements : Obligations.ByteIncrementsAndDecrements := by
  unfold Obligations.ByteIncrementsAndDecrements
  rintro s p d hf ⟨instr, bytes, cyc, data⟩ hrow
  obtain ⟨he, hr⟩ := byteCounts_runsCount s p d _ hrow
  cases hr with
  | incReg r hx =>
    have hd := (incReg_did s r cyc).widen (w' := [.f, .r8 r]) (by simp)
    simp only [← inc8_eq_counted]
    exact ⟨he, _, hx, incReg_getR8 s r cyc, rfl, hd⟩
  | decReg r hx =>
    have hd := (decReg_did s r cyc).widen (w' := [.f, .r8 r]) (by simp)
    simp only [← dec8_eq_counted]
    exact ⟨he, _, hx, decReg_getR8 s r cyc, rfl, hd⟩
  | incMem a hx =>
    have hd := incMem_did s a cyc
    simp only [← inc8_eq_counted]
    exact ⟨he, _, hx.trans (hd.finish_eq hf), fun hk => incMem_peek s hk cyc, rfl, hd⟩
  | decMem a hx =>
    have hd := decMem_did s a cyc
    simp only [← dec8_eq_counted]
    exact ⟨he, _, hx.trans (hd.finish_eq hf), fun hk => decMem_peek s hk cyc, rfl, hd⟩

/-- Settles O52: each instruction runs the operation of its name; CCF and SCF take X5 and X3 from
the byte the parameter gives. -/
theorem accumulatorAdjustments : Obligations.AccumulatorAdjustments := by
  unfold Obligations.AccumulatorAdjustments
  intro s p op
  refine ⟨⟨rfl, _, rfl, ?daa⟩, ⟨rfl, _, rfl, rfl, ?cpl, cpl_did s _⟩, ⟨rfl, _, rfl, ?neg⟩,
    ⟨rfl, _, rfl, ?ccf, ccf_did s _⟩, ⟨rfl, _, rfl, ?scf, scf_did s _⟩⟩
  case daa =>
    obtain ⟨ha, hF⟩ := Prod.ext_iff.mp (daa8_eq s.main.a s.main.f)
    exact ⟨ha, hF, daa_did s _⟩
  case cpl => exact cplFlags_eq ..
  case neg =>
    obtain ⟨ha, hF⟩ := Prod.ext_iff.mp (sub8_eq_difference8 0#8 s.main.a 0)
    exact ⟨ha, hF, neg_did s⟩
  case ccf => exact scfCcfFlags_eq ..
  case scf => exact scfCcfFlags_eq ..

end Sys2Proof.Machine
end

section
/-! SUPPORT. 16-bit arithmetic (R700 to R706): every row of a table runs one shared operation, and
what the operation leaves in its pair and in F, bit by bit. -/

namespace Sys2Proof.Machine

section

variable (s : State)

/-! ## The tables -/

/-- Every sum runs `addPair`, and none adds to AF (R701, R702). -/
theorem pairSums_addPair : ∀ row ∈ Claims.pairSums, encode row.instr = row.bytes
    ∧ exec row.instr s = .next (addPair row.data.1 row.data.2 row.cyc s)
    ∧ row.data.1 ≠ .af := by
  intro row hrow
  fin_cases hrow <;> exact ⟨rfl, rfl, nofun⟩

/-- A sum or a difference with carry (R703, R704). -/
def carryHl (sub : Bool) (src : R16) (s : State) : State :=
  if sub then sbcHl src s else adcHl src s

theorem carrySums_carryHl : ∀ row ∈ Claims.carrySums, encode row.instr = row.bytes
    ∧ row.cyc = 15 ∧ exec row.instr s = .next (carryHl row.data.1 row.data.2 s) := by
  intro row hrow
  fin_cases hrow <;> exact ⟨rfl, rfl, rfl⟩

/-- A pair counted up or down (R705, R706). -/
def countPair (up : Bool) (r : R16) (cyc : Nat) (s : State) : State :=
  if up then incPair r cyc s else decPair r cyc s

theorem pairCounts_countPair (p : IndexByte) : ∀ row ∈ Claims.pairCounts p,
    encode row.instr = row.bytes
      ∧ exec row.instr s = .next (countPair row.data.1 row.data.2 row.cyc s) := by
  intro row hrow
  fin_cases hrow <;> exact ⟨rfl, rfl⟩

/-! ## Primitives (R319 to R321) -/

theorem toNat_and_0x0FFF (w : Word) : (w &&& 0x0FFF#16).toNat = w.toNat % 4096 :=
  (BitVec.toNat_and ..).trans (Nat.and_two_pow_sub_one_eq_mod w.toNat 12)

theorem outside16_eq_noWord (n : Int) : outside16 n = Claims.noWord n := Bool.decide_or ..

@[simp] theorem hi_getLsbD (w : Word) (k : Nat) :
    (hi w).getLsbD k = (decide (k < 8) && w.getLsbD (8 + k)) := BitVec.getLsbD_extractLsb' ..

@[simp] theorem zero16_getLsbD (w : Word) (k : Nat) :
    (zero16 w).getLsbD k = (w == 0#16 && (0x40#8).getLsbD k) := flagBit_getLsbD ..

/-- The sum and F of it: S, Z and P/V stay (R319). -/
theorem add16_eq (a b : Word) (f : Byte) :
    let r := a + b
    add16 a b f = (r, flags (f.getLsbD 7) (f.getLsbD 6) (r.getLsbD 13)
      (decide (4095 < a.toNat % 4096 + b.toNat % 4096)) (r.getLsbD 11) (f.getLsbD 2) false
      (decide (65535 < a.toNat + b.toNat))) := by
  have hr : BitVec.ofNat 16 (a.toNat + b.toNat) = a + b := by bv_omega
  simp only [add16, hr, toNat_and_0x0FFF]
  refine Prod.ext rfl ?_
  apply eq_flags_of <;> simp [-BitVec.getLsbD_eq_getElem]

/-- The sum with carry and F of it (R320). -/
theorem adc16_eq (a b : Word) (c : Nat) :
    let r := a + b + BitVec.ofNat 16 c
    adc16 a b c = (r, flags (r.getLsbD 15) (r == 0#16) (r.getLsbD 13)
      (decide (4095 < a.toNat % 4096 + b.toNat % 4096 + c)) (r.getLsbD 11)
      (Claims.noWord (a.toInt + b.toInt + c)) false (decide (65535 < a.toNat + b.toNat + c))) := by
  have hr : BitVec.ofNat 16 (a.toNat + b.toNat + c) = a + b + BitVec.ofNat 16 c := by bv_omega
  simp only [adc16, hr, toNat_and_0x0FFF, outside16_eq_noWord]
  refine Prod.ext rfl ?_
  apply eq_flags_of <;> simp [-BitVec.getLsbD_eq_getElem]

/-- The difference with borrow and F of it; a borrow is a comparison (R321). -/
theorem sbc16_eq (a b : Word) (c : Nat) :
    let r := a - b - BitVec.ofNat 16 c
    sbc16 a b c = (r, flags (r.getLsbD 15) (r == 0#16) (r.getLsbD 13)
      (decide (a.toNat % 4096 < b.toNat % 4096 + c)) (r.getLsbD 11)
      (Claims.noWord (a.toInt - b.toInt - c)) true (decide (a.toNat < b.toNat + c))) := by
  have hr : BitVec.ofInt 16 (a.toNat - b.toNat - c) = a - b - BitVec.ofNat 16 c := by bv_omega
  have hBorrow (m n : Nat) : ((m : Int) - n - c < 0) ↔ m < n + c := by omega
  simp only [sbc16, hr, hBorrow, toNat_and_0x0FFF, outside16_eq_noWord]
  refine Prod.ext rfl ?_
  apply eq_flags_of <;> simp [-BitVec.getLsbD_eq_getElem]

/-! ## The operations -/

theorem addPair_getR16 {dst : R16} (h : dst ≠ .af) (src : R16) (cyc : Nat) :
    (addPair dst src cyc s).getR16 dst
      = (add16 (s.getR16 dst) (s.getR16 src) s.main.f).1 := by
  rw [addPair, State.tick_getR16, State.setF_getR16 _ _ h, State.getR16_setR16_self]

@[simp] theorem addPair_f (dst src : R16) (cyc : Nat) :
    (addPair dst src cyc s).main.f = (add16 (s.getR16 dst) (s.getR16 src) s.main.f).2 := rfl

@[simp] theorem adcHl_getR16 (src : R16) :
    (adcHl src s).getR16 .hl = (adc16 s.hl (s.getR16 src) (carryOf s.main.f)).1 :=
  pair_hi_lo _

@[simp] theorem adcHl_f (src : R16) :
    (adcHl src s).main.f = (adc16 s.hl (s.getR16 src) (carryOf s.main.f)).2 := rfl

@[simp] theorem sbcHl_getR16 (src : R16) :
    (sbcHl src s).getR16 .hl = (sbc16 s.hl (s.getR16 src) (carryOf s.main.f)).1 :=
  pair_hi_lo _

@[simp] theorem sbcHl_f (src : R16) :
    (sbcHl src s).main.f = (sbc16 s.hl (s.getR16 src) (carryOf s.main.f)).2 := rfl

/-- Down by 1 is up by 0xFFFF. -/
theorem countPair_getR16 (up : Bool) (r : R16) (cyc : Nat) :
    (countPair up r cyc s).getR16 r = Claims.moved up (s.getR16 r) := by
  rw [← advance_eq_moved]
  cases up with
  | true => exact (State.tick_getR16 ..).trans (State.getR16_setR16_self ..)
  | false => exact (State.tick_getR16 ..).trans (State.getR16_setR16_self ..)

theorem countPair_did (up : Bool) (r : R16) (cyc : Nat) :
    Did s (countPair up r cyc s) cyc [] (pairElems r) [] [] := by
  cases up with
  | true => exact incPair_did s r cyc
  | false => exact decPair_did s r cyc

end

/-- Settles O53: each row runs `addPair`, whose F is that of `add16`. -/
theorem pairAdditions : Obligations.PairAdditions := by
  unfold Obligations.PairAdditions
  intro s row hrow
  obtain ⟨he, hx, hne⟩ := pairSums_addPair s row hrow
  obtain ⟨hr, hF⟩ := Prod.ext_iff.mp
    (add16_eq (s.getR16 row.data.1) (s.getR16 row.data.2) s.main.f)
  rw [halves_eq_pairElems]
  exact ⟨he, _, hx, (addPair_getR16 s hne _ _).trans hr, hF, addPair_did s _ _ _⟩

/-- Settles O54: each row runs `adcHl` or `sbcHl`, with C of F as a number. -/
theorem pairAdditionsWithCarry : Obligations.PairAdditionsWithCarry := by
  unfold Obligations.PairAdditionsWithCarry
  rintro s ⟨instr, bytes, cyc, sub, src⟩ hrow
  obtain ⟨he, rfl, hx⟩ := carrySums_carryHl s _ hrow
  simp only [← carryOf_eq_carryIn]
  cases sub with
  | false =>
    obtain ⟨hr, hF⟩ := Prod.ext_iff.mp (adc16_eq s.hl (s.getR16 src) (carryOf s.main.f))
    exact ⟨he, _, hx, (adcHl_getR16 s src).trans hr, hF, adcHl_did s src⟩
  | true =>
    obtain ⟨hr, hF⟩ := Prod.ext_iff.mp (sbc16_eq s.hl (s.getR16 src) (carryOf s.main.f))
    exact ⟨he, _, hx, (sbcHl_getR16 s src).trans hr, hF, sbcHl_did s src⟩

/-- Settles O55: each row counts its pair by `incPair` or `decPair`. -/
theorem pairIncrementsAndDecrements : Obligations.PairIncrementsAndDecrements := by
  unfold Obligations.PairIncrementsAndDecrements
  intro s p row hrow
  obtain ⟨he, hx⟩ := pairCounts_countPair s p row hrow
  rw [halves_eq_pairElems]
  exact ⟨he, _, hx, countPair_getR16 s _ _ _, countPair_did s _ _ _⟩

end Sys2Proof.Machine
end

section
/-! SUPPORT. Rotates, shifts and bits (R750 to R784): the byte at an operand is replaced, in a
register or in memory (`State.modify`), a digit of it moves, or one bit of it is tested; what each
leaves in its operand and in F, bit by bit. -/

namespace Sys2Proof.Machine

/-! ## What was done, and more done to the register file -/

section

variable {s t : State} {cyc : Nat} {made : List PortCall} {w : List Elem} {m : List Word}
  {o : List (Byte × Byte)}

theorem Did.refl (s : State) : Did s s 0 [] [] [] [] where
  cycles := (BitVec.add_zero _).symm
  calls := rfl
  effects := rfl
  bus := rfl
  frame := (Frame.refl s).mono (by simp) (by simp)

theorem Did.setR8 (h : Did s t cyc made w m o) (r : R8) (v : Byte) :
    Did s (t.setR8 r v) cyc made (.r8 r :: w) m o where
  cycles := (State.setR8_cycles ..).trans h.cycles
  calls := (State.setR8_calls ..).trans h.calls
  effects := (State.setR8_sideEffects ..).trans h.effects
  bus := (State.setR8_bus ..).trans h.bus
  frame := (h.frame.trans (frame_setR8 t r v)).mono (by simp) (by simp)

theorem Did.setF (h : Did s t cyc made w m o) (v : Byte) :
    Did s (t.setF v) cyc made (.f :: w) m o where
  cycles := h.cycles
  calls := h.calls
  effects := h.effects
  bus := h.bus
  frame := (h.frame.trans (frame_setF t v)).mono (by simp) (by simp)

theorem Did.tick (h : Did s t 0 made w m o) (cyc : Nat) : Did s (t.tick cyc) cyc made w m o where
  cycles := by simp [h.cycles]
  calls := h.calls
  effects := h.effects
  bus := h.bus
  frame := (h.frame.trans (frame_tick t cyc)).mono (by simp) (by simp)

end

section

variable (s : State)

/-! ## Replacing the byte at an operand (R755) -/

/-- The byte at an operand replaced by what a function makes of it. -/
def State.modify (f : Byte → Byte) : Claims.Place → State
  | .reg r => s.setR8 r (f (s.getR8 r))
  | .mem a => modMem f a s
  | .memCopy a r => (modMem f a s).setR8 r (f (s.peek a))

/-- How an instruction with this operand ends: only a form with an operand in memory makes port
calls, which may fail. -/
def endAt : Claims.Place → State → Res
  | .reg _ => .next
  | .mem _ => finish
  | .memCopy _ _ => finish

theorem Did.endAt_eq {s t : State} {cyc : Nat} {made : List PortCall} {w : List Elem}
    {m : List Word} {o : List (Byte × Byte)} (h : Did s t cyc made w m o)
    (hf : s.failAfter = none) (place : Claims.Place) : endAt place t = .next t := by
  cases place with
  | reg r => rfl
  | mem a => exact h.finish_eq hf
  | memCopy a r => exact h.finish_eq hf

theorem modMem_peek (f : Byte → Byte) {a : Word} (hk : s.keeps a) :
    (modMem f a s).peek a = f (s.peek a) :=
  State.peek_of_byteAt (State.byteAt_write ((frame_noteRead s a).keeps hk) _)

theorem modify_has (f : Byte → Byte) (place : Claims.Place) :
    place.has s (s.modify f place) (f (place.value s)) := by
  cases place with
  | reg r => exact State.getR8_setR8_self s r _
  | mem a => exact modMem_peek s f
  | memCopy a r =>
    exact ⟨fun hk => (State.setR8_peek ..).trans (modMem_peek s f hk),
      State.getR8_setR8_self _ r _⟩

theorem modify_did (f : Byte → Byte) (place : Claims.Place) :
    Did s (s.modify f place) 0 (place.made s (f (place.value s))) place.written place.stored
      [] := by
  cases place with
  | reg r => exact (Did.refl s).setR8 r _
  | mem a => exact modMem_did s f a
  | memCopy a r => exact (modMem_did s f a).setR8 r _

/-- What an operand holds is read from memory and from the registers. -/
theorem has_congr {t u : State} {v : Byte} {place : Claims.Place} (hp : u.peek = t.peek)
    (hr : u.getR8 = t.getR8) (h : place.has s t v) : place.has s u v := by
  cases place with
  | reg r => exact (congrFun hr r).trans h
  | mem a => exact fun hk => (congrFun hp a).trans (h hk)
  | memCopy a r => exact ⟨fun hk => (congrFun hp a).trans (h.1 hk), (congrFun hr r).trans h.2⟩

theorem has_setF {t : State} {v : Byte} {place : Claims.Place} (h : place.has s t v) (x : Byte) :
    place.has s (t.setF x) v :=
  has_congr s rfl (funext (State.setF_getR8 t x)) h

theorem has_tick {t : State} {v : Byte} {place : Claims.Place} (h : place.has s t v) (cyc : Nat) :
    place.has s (t.tick cyc) v :=
  has_congr s rfl (funext (State.tick_getR8 t cyc)) h

/-! ## The tables -/

theorem accumulatorRotates_rotA (p : IndexByte) : ∀ row ∈ Claims.accumulatorRotates p,
    encode row.instr = row.bytes ∧ exec row.instr s = .next (rotA row.data row.cyc s) := by
  intro row hrow
  fin_cases hrow <;> exact ⟨rfl, rfl⟩

/-- A rotate or shift of an operand. -/
def rotAt (op : RotOp) (place : Claims.Place) (cyc : Nat) (s : State) : State :=
  let v := rot op (place.value s) (s.main.f.getLsbD 0)
  ((s.modify (fun _ => v.1) place).setF (rotFlags v.1 v.2)).tick cyc

theorem rotates_rotAt (d : Byte) : ∀ row ∈ Claims.rotates s d,
    encode row.instr = row.bytes
      ∧ exec row.instr s = endAt row.data.2 (rotAt row.data.1 row.data.2 row.cyc s) := by
  intro row hrow
  fin_cases hrow <;> exact ⟨rfl, rfl⟩

/-- A byte with one bit cleared or set (R783, R784). -/
def changeBit (set : Bool) (b : Fin 8) (v : Byte) : Byte := if set then setBit b v else resBit b v

theorem bitChanges_changeBit (d : Byte) : ∀ row ∈ Claims.bitChanges s d,
    encode row.instr = row.bytes ∧ ∃ hb : row.data.2.1 < 8, exec row.instr s
      = endAt row.data.2.2
          ((s.modify (changeBit row.data.1 ⟨row.data.2.1, hb⟩) row.data.2.2).tick row.cyc) := by
  unfold Claims.bitChanges
  simp only [List.forall_mem_append]
  and_intros
  all_goals
    intro row hrow
    fin_cases hrow <;> exact ⟨rfl, Nat.le_of_ble_eq_true rfl, rfl⟩

/-- How a bit is tested: of a register, of the byte at HL, or of an indexed byte (R780 to R782). -/
inductive RunsBitTest (i : Instr) : Nat → Nat × Byte × Byte × List PortCall → Prop
  | reg (b : Nat) (hb : b < 8) (r : R8) (h : exec i s = .next (bitReg ⟨b, hb⟩ r s)) :
      RunsBitTest i 8 (b, s.getR8 r, s.getR8 r, [])
  | hl (b : Nat) (hb : b < 8) (h : exec i s = finish (bitHl ⟨b, hb⟩ s)) :
      RunsBitTest i 12 (b, s.peek s.hl, Config.draw (s.draws + 1), [.memRead s.hl (s.peek s.hl)])
  | indexed (b : Nat) (hb : b < 8) (a : Word) (h : exec i s = finish (bitMem ⟨b, hb⟩ a s)) :
      RunsBitTest i 20 (b, s.peek a, hi a, [.memRead a (s.peek a)])

theorem bitTests_runsBitTest (z : BitVec 3) (d : Byte) : ∀ row ∈ Claims.bitTests s z d,
    encode row.instr = row.bytes ∧ RunsBitTest s row.instr row.cyc row.data := by
  intro row hrow
  fin_cases hrow <;> exact ⟨rfl, by constructor; rfl⟩

/-! ## Results (R322, R783, R784) -/

theorem rot_eq_rotated (op : RotOp) (v : Byte) (cin : Bool) :
    rot op v cin = Claims.rotated op v cin := by
  cases op <;> revert v cin <;> decide

theorem bitMask_eq_twoPow (b : Fin 8) : bitMask b = BitVec.twoPow 8 b := by
  revert b; decide

theorem changeBit_eq_withBit (set : Bool) (b : Fin 8) (v : Byte) :
    changeBit set b v = Claims.withBit set b v := by
  unfold changeBit Claims.withBit setBit resBit
  rw [bitMask_eq_twoPow, show 0xFF#8 = BitVec.allOnes 8 from rfl, BitVec.allOnes_xor]

/-! ## Digits (R764, R765) -/

/-- One of the two digits of a byte, the low one first. -/
def digit (v : Byte) (k : Nat) : BitVec 4 := v.extractLsb' (4 * k) 4

theorem and_0x0F_eq (v : Byte) : v &&& 0x0F#8 = 0#4 ++ digit v 0 := by
  revert v; decide

theorem and_0xF0_eq (v : Byte) : v &&& 0xF0#8 = digit v 1 ++ 0#4 := by
  revert v; decide

theorem shiftLeft_four_eq (v : Byte) : v <<< 4 = digit v 0 ++ 0#4 := by
  revert v; decide

theorem shiftRight_four_eq (v : Byte) : v >>> 4 = 0#4 ++ digit v 1 := by
  revert v; decide

@[simp] theorem digit_append_zero (x : BitVec 4) : digit (0#4 ++ x) 0 = x := by
  revert x; decide

theorem high_or_low (x y : BitVec 4) : (x ++ 0#4) ||| (0#4 ++ y) = x ++ y := by
  rw [BitVec.or_append, BitVec.or_zero, BitVec.zero_or]

/-- RLD, or RRD. -/
def rotateDigits (left : Bool) (s : State) : State := if left then rld s else rrd s

/-- What it makes of the byte at HL. -/
def digitsOfByte (left : Bool) (m a : Byte) : Byte :=
  if left then digit m 0 ++ digit a 0 else digit a 0 ++ digit m 1

/-- What it makes of A. -/
def digitsOfA (left : Bool) (m a : Byte) : Byte :=
  digit a 1 ++ (if left then digit m 1 else digit m 0)

theorem rld_byte_eq (m a : Byte) : (m <<< 4) ||| (a &&& 0x0F#8) = digitsOfByte true m a := by
  rw [shiftLeft_four_eq, and_0x0F_eq, high_or_low]; rfl

theorem rrd_byte_eq (m a : Byte) :
    ((a &&& 0x0F#8) <<< 4) ||| (m >>> 4) = digitsOfByte false m a := by
  rw [shiftLeft_four_eq, shiftRight_four_eq, and_0x0F_eq, digit_append_zero, high_or_low]; rfl

theorem rotateDigits_did (left : Bool) : Did s (rotateDigits left s) 18
    [.memWrite s.hl (digitsOfByte left (s.peek s.hl) s.main.a), .memRead s.hl (s.peek s.hl)]
    [.r8 .a, .f] [s.hl] [] := by
  cases left with
  | true => rw [← rld_byte_eq]; exact rld_did s
  | false => rw [← rrd_byte_eq]; exact rrd_did s

theorem rotateDigits_peek (left : Bool) (hk : s.keeps s.hl) :
    (rotateDigits left s).peek s.hl = digitsOfByte left (s.peek s.hl) s.main.a := by
  cases left with
  | true =>
    have h := modMem_peek s (fun v => (v <<< 4) ||| (s.main.a &&& 0x0F#8)) hk
    exact h.trans (rld_byte_eq ..)
  | false =>
    have h := modMem_peek s (fun v => ((s.main.a &&& 0x0F#8) <<< 4) ||| (v >>> 4)) hk
    exact h.trans (rrd_byte_eq ..)

theorem rotateDigits_a (left : Bool) :
    (rotateDigits left s).main.a = digitsOfA left (s.peek s.hl) s.main.a := by
  cases left with
  | true =>
    calc (s.main.a &&& 0xF0#8) ||| (s.peek s.hl >>> 4)
        = digit s.main.a 1 ++ digit (s.peek s.hl) 1 := by
          rw [and_0xF0_eq, shiftRight_four_eq, high_or_low]
  | false =>
    calc (s.main.a &&& 0xF0#8) ||| (s.peek s.hl &&& 0x0F#8)
        = digit s.main.a 1 ++ digit (s.peek s.hl) 0 := by
          rw [and_0xF0_eq, and_0x0F_eq, high_or_low]

theorem rotateDigits_f (left : Bool) :
    (rotateDigits left s).main.f = inFlags (rotateDigits left s).main.a s.main.f := by
  cases left with
  | true => rfl
  | false => rfl

/-! ## Flags -/

theorem rotFlags_eq (r : Byte) (c : Bool) :
    rotFlags r c = flags (r.getLsbD 7) (r == 0#8) (r.getLsbD 5) false (r.getLsbD 3)
      (Claims.even r) false c := by
  apply eq_flags_of <;> simp [rotFlags, evenOnes_eq_even, -BitVec.getLsbD_eq_getElem]

theorem rotAFlags_eq (f r : Byte) (c : Bool) :
    rotAFlags f r c = flags (f.getLsbD 7) (f.getLsbD 6) (r.getLsbD 5) false (r.getLsbD 3)
      (f.getLsbD 2) false c := by
  apply eq_flags_of <;> simp [rotAFlags, -BitVec.getLsbD_eq_getElem]

theorem x53_eq (v : Byte) : x53 v = v &&& 0x28#8 := by
  revert v; decide

/-- The bit under test decides whether the masked byte is 0, and S where it is bit 7. -/
theorem and_bitMask (b : Fin 8) (v : Byte) :
    (v &&& bitMask b == 0#8) = !v.getLsbD b
      ∧ (v &&& bitMask b).getLsbD 7 = (decide (b.val = 7) && v.getLsbD b) := by
  rw [bitMask_eq_twoPow, BitVec.and_twoPow]
  cases v.getLsbD b with
  | false => simp
  | true => revert b; decide

/-- F of BIT (R780 to R782). -/
theorem bitFlags_eq (b : Fin 8) (v x f : Byte) :
    bitFlags b v (x &&& 0x28#8) f = flags (decide (b.val = 7) && v.getLsbD b) (!v.getLsbD b)
      (x.getLsbD 5) true (x.getLsbD 3) (!v.getLsbD b) false (f.getLsbD 0) := by
  obtain ⟨hZero, hSign⟩ := and_bitMask b v
  simp only [bitFlags]
  apply eq_flags_of <;> simp [hZero, hSign, -BitVec.getLsbD_eq_getElem]

/-! ## The tests of a bit -/

theorem bitReg_f (b : Fin 8) (r : R8) :
    (bitReg b r s).main.f = bitFlags b (s.getR8 r) (s.getR8 r &&& 0x28#8) s.main.f := by
  rw [← x53_eq]; rfl

theorem bitMem_f (b : Fin 8) (a : Word) :
    (bitMem b a s).main.f = bitFlags b (s.peek a) (hi a &&& 0x28#8) s.main.f := by
  rw [← x53_eq]; rfl

end

/-- Settles O56: each row rotates A by `rotA`. -/
theorem accumulatorRotates : Obligations.AccumulatorRotates := by
  unfold Obligations.AccumulatorRotates
  intro s p row hrow
  obtain ⟨he, hx⟩ := accumulatorRotates_rotA s p row hrow
  rw [← rot_eq_rotated]
  exact ⟨he, _, hx, rfl, rotAFlags_eq .., rotA_did s _ _⟩

/-- Settles O57: each row replaces the byte at its operand by what `rot` makes of it, and completes
where no port fails. -/
theorem rotatesAndShifts : Obligations.RotatesAndShifts := by
  unfold Obligations.RotatesAndShifts
  rintro s d hf ⟨instr, bytes, cyc, op, place⟩ hrow
  obtain ⟨he, hx⟩ := rotates_rotAt s d _ hrow
  simp only [← rot_eq_rotated]
  set v := rot op (place.value s) (s.main.f.getLsbD 0)
  have hd := ((modify_did s (fun _ => v.1) place).setF (rotFlags v.1 v.2)).tick cyc
  have hHas := has_tick s (has_setF s (modify_has s (fun _ => v.1) place) (rotFlags v.1 v.2)) cyc
  exact ⟨he, _, hx.trans (hd.endAt_eq hf place), hHas, rotFlags_eq .., hd⟩

/-- Settles O58: RLD and RRD are the two directions of one operation, which completes where no port
fails. -/
theorem digitRotates : Obligations.DigitRotates := by
  unfold Obligations.DigitRotates
  intro s hf row hrow
  obtain ⟨he, hc, hx⟩ : encode row.instr = row.bytes ∧ row.cyc = 18
      ∧ exec row.instr s = finish (rotateDigits row.data s) := by
    fin_cases hrow <;> exact ⟨rfl, rfl, rfl⟩
  have hd := rotateDigits_did s row.data
  have ha := rotateDigits_a s row.data
  have hF := (rotateDigits_f s row.data).trans (inFlags_eq ..)
  rw [ha] at hF
  rw [hc]
  exact ⟨he, _, hx.trans (hd.finish_eq hf), rotateDigits_peek s _, ha, hF, hd⟩

/-- Settles O59: each row tests a bit by `bitReg`, `bitHl` or `bitMem`, which differ in where X5 and
X3 come from. -/
theorem bitTests : Obligations.BitTests := by
  unfold Obligations.BitTests
  rintro s z d hf ⟨instr, bytes, cyc, data⟩ hrow
  obtain ⟨he, hr⟩ := bitTests_runsBitTest s z d _ hrow
  cases hr with
  | reg b hb r hx =>
    exact ⟨he, _, hx, (bitReg_f ..).trans (bitFlags_eq ..), bitReg_did s ⟨b, hb⟩ r⟩
  | hl b hb hx =>
    have hd := bitHl_did s ⟨b, hb⟩
    exact ⟨he, _, hx.trans (hd.finish_eq hf), bitFlags_eq .., hd⟩
  | indexed b hb a hx =>
    have hd := bitMem_did s ⟨b, hb⟩ a
    exact ⟨he, _, hx.trans (hd.finish_eq hf), (bitMem_f ..).trans (bitFlags_eq ..), hd⟩

/-- Settles O60: each row replaces the byte at its operand by the byte with the bit changed, and
completes where no port fails. -/
theorem bitResetsAndSets : Obligations.BitResetsAndSets := by
  unfold Obligations.BitResetsAndSets
  rintro s d hf ⟨instr, bytes, cyc, set, b, place⟩ hrow
  obtain ⟨he, hb, hx⟩ := bitChanges_changeBit s d _ hrow
  have hd := (modify_did s (changeBit set ⟨b, hb⟩) place).tick cyc
  have hHas := has_tick s (modify_has s (changeBit set ⟨b, hb⟩) place) cyc
  rw [changeBit_eq_withBit] at hd hHas
  exact ⟨he, _, hx.trans (hd.endAt_eq hf place), hHas, hd⟩

end Sys2Proof.Machine
end

section
/-! SUPPORT. Acceptance of an interrupt (R806 to R815): the common part (`BeginsAcceptance`), then a
call of the handler, whose address mode 2 reads from memory. -/

namespace Sys2Proof.Machine

section

variable {s u t : State} {flips : List Elem}

/-! ## Reading alike -/

/-- Port calls read and change the same: what they depend on agrees (R165, R826). -/
structure ReadsAs (s t : State) : Prop where
  mem : t.mem = s.mem
  params : t.params = s.params
  draws : t.draws = s.draws
  sideEffects : t.sideEffects = s.sideEffects

theorem ReadsAs.peek (h : ReadsAs s t) (a : Word) : t.peek a = s.peek a :=
  State.peek_congr h.mem h.params h.draws a

theorem ReadsAs.setSp (h : ReadsAs s t) (v : Word) : ReadsAs (s.setSp v) (t.setSp v) :=
  ⟨h.mem, h.params, h.draws, h.sideEffects⟩

theorem ReadsAs.called (h : ReadsAs s t) (c : PortCall) : ReadsAs (s.called c) (t.called c) where
  mem := by simp only [State.called_mem, State.effects, h.mem, h.sideEffects]
  params := h.params
  draws := congrArg (· + 1) h.draws
  sideEffects := congrArg (List.drop 1) h.sideEffects

theorem ReadsAs.noteRead (h : ReadsAs s t) (a : Word) : ReadsAs (s.noteRead a) (t.noteRead a) := by
  unfold State.noteRead
  rw [h.peek]
  exact h.called _

theorem ReadsAs.push (h : ReadsAs s t) (hsp : t.sp = s.sp) (v : Word) :
    ReadsAs (s.push v) (t.push v) := by
  unfold State.push
  rw [hsp]
  exact (((h.setSp _).called _).setSp _).called _

theorem ReadsAs.wordAt (h : ReadsAs s t) (a : Word) : Claims.wordAt t a = Claims.wordAt s a := by
  simp only [Claims.wordAt, h.peek, (h.noteRead a).peek]

theorem ReadsAs.wordReads (h : ReadsAs s t) (a : Word) :
    Claims.wordReads t a = Claims.wordReads s a := by
  simp only [Claims.wordReads, h.peek, (h.noteRead a).peek]

/-! ## The common part (R808, R809, R811) -/

/-- The state in which an acceptance pushes PC: only control state and the latch are written. -/
structure BeginsAcceptance (s u : State) (flips : List Elem) : Prop where
  pc : u.pc = s.pc
  sp : u.sp = s.sp
  r : u.r = Claims.counts s.r 1
  iff1 : u.iff1 = false
  halted : u.halted = false
  eiPending : u.eiPending = false
  cycles : u.cycles = 0#32
  calls : u.calls = []
  reads : ReadsAs s u
  frame : Frame s.beginStep u ([.r, .iff1, .halted, .eiPending, .bus] ++ flips) [] []

/-- The state in which AcceptNMI() pushes PC (R809). -/
def State.acceptedNmi (s : State) : State :=
  ({ s.beginStep with nmiPending := false } : State).beginAcceptance false

theorem begins_acceptedNmi (s : State) : BeginsAcceptance s s.acceptedNmi [.nmiPending] where
  pc := rfl
  sp := rfl
  r := refresh_eq s.r
  iff1 := rfl
  halted := rfl
  eiPending := rfl
  cycles := rfl
  calls := rfl
  reads := ⟨rfl, rfl, rfl, rfl⟩
  frame := .ofElems rfl fun e he => by cases e <;> first | rfl | exact absurd (by decide) he

theorem begins_accepted (s : State) : BeginsAcceptance s s.accepted [.iff2] where
  pc := rfl
  sp := rfl
  r := refresh_eq s.r
  iff1 := rfl
  halted := rfl
  eiPending := rfl
  cycles := rfl
  calls := rfl
  reads := ⟨rfl, rfl, rfl, rfl⟩
  frame := .ofElems rfl fun e he => by cases e <;> first | rfl | exact absurd (by decide) he

/-! ## The handler -/

/-- The port calls of a push of PC, newest first (R19). -/
def pushesOf (s : State) : List PortCall :=
  [.memWrite (s.sp - 2#16) (lo s.pc), .memWrite (s.sp - 1#16) (hi s.pc)]

/-- After the common part PC is pushed and the handler is entered. -/
theorem BeginsAcceptance.accepted (h : BeginsAcceptance s u flips) {target : Word} {cyc : Nat}
    {made : List PortCall}
    (hd : Did u t cyc (made ++ pushesOf u) [.sp, .pc] [u.sp - 1#16, u.sp - 2#16] [])
    (hpc : t.pc = target) (hsp : t.sp = u.sp - 2#16)
    (hHigh : u.keeps (u.sp - 1#16) → t.peek (u.sp - 1#16) = hi u.pc)
    (hLow : u.keeps (u.sp - 2#16) → t.peek (u.sp - 2#16) = lo u.pc) :
    Claims.Accepted s t target cyc (latchAfter (lo s.pc) made) made flips := by
  simp only [pushesOf, h.pc, h.sp] at hd hsp hHigh hLow
  have kept {e : Elem} (he : e ∉ [.bus, .sp, .pc]) : t.look e = u.look e := hd.frame.elems e he
  exact {
    pc := hpc
    sp := hsp
    high := fun hk => hHigh (h.frame.keeps hk)
    low := fun hk => hLow (h.frame.keeps hk)
    r := (State.r_eq_of_look (kept (by decide))).trans h.r
    iff1 := (State.iff1_eq_of_look (kept (by decide))).trans h.iff1
    halted := (State.halted_eq_of_look (kept (by decide))).trans h.halted
    eiPending := (State.eiPending_eq_of_look (kept (by decide))).trans h.eiPending
    cycles := by rw [hd.cycles, h.cycles, BitVec.zero_add]
    calls := by rw [hd.calls, h.calls, List.append_nil]
    effects := by rw [hd.effects, h.reads.sideEffects, List.length_append, Nat.add_comm]; rfl
    bus := by rw [hd.bus]; cases made <;> rfl
    frame := (h.frame.trans hd.frame).mono (List.append_subset.2
      ⟨List.append_subset.2 ⟨by simp, List.subset_append_right ..⟩, by simp⟩) (by simp) }

/-- Entering the handler is a call of it (R809, R812, R813). -/
theorem BeginsAcceptance.accepted_call (h : BeginsAcceptance s u flips) (target : Word)
    (cyc : Nat) :
    Claims.Accepted s (call target cyc u) target cyc (lo s.pc) [] flips := by
  obtain ⟨hHigh, hLow⟩ := call_peek u target cyc
  exact h.accepted (made := []) (call_did u target cyc) rfl rfl hHigh hLow

/-- What mode 2 does after the common part: PC is pushed, and the handler's address is read from
memory (R814). -/
def State.enterByVector (u : State) (v : Word) : State :=
  (((u.push u.pc).noteReadWord v).setPc ((u.push u.pc).peekWord v)).tick 19

theorem enterByVector_did (u : State) (v : Word) :
    Did u (u.enterByVector v) 19 (Claims.wordReads (u.push u.pc) v ++ pushesOf u) [.sp, .pc]
      [u.sp - 1#16, u.sp - 2#16] [] where
  cycles := by simp [State.enterByVector]
  calls := by simp [State.enterByVector, Claims.wordReads, pushesOf]
  effects := by simp [State.enterByVector, Claims.wordReads, pushesOf]
  bus := by simp [State.enterByVector, Claims.wordReads, portByte]
  frame := ((((frame_push u u.pc).trans (frame_noteReadWord _ v)).trans (frame_setPc _ _)).trans
    (frame_tick _ 19)).mono (by simp) (by simp)

/-- The reads store nothing, so PC stays on the stack. -/
theorem enterByVector_peek (u : State) (v : Word) :
    (u.keeps (u.sp - 1#16) → (u.enterByVector v).peek (u.sp - 1#16) = hi u.pc)
      ∧ (u.keeps (u.sp - 2#16) → (u.enterByVector v).peek (u.sp - 2#16) = lo u.pc) := by
  obtain ⟨hHigh, hLow⟩ := u.push_byteAt u.pc
  have fPush := frame_push u u.pc
  have fRead : Frame (u.push u.pc) (u.enterByVector v) _ _ _ :=
    ((frame_noteReadWord _ v).trans (frame_setPc _ _)).trans (frame_tick _ 19)
  exact ⟨fun hk => State.peek_of_byteAt (fRead.byteAt (hHigh hk) (fPush.keeps hk) (by simp)),
    fun hk => State.peek_of_byteAt (fRead.byteAt (hLow hk) (fPush.keeps hk) (by simp))⟩

theorem BeginsAcceptance.accepted_enterByVector (h : BeginsAcceptance s u flips) (v : Word) :
    Claims.Accepted s (u.enterByVector v) (Claims.wordAt (s.push s.pc) v) 19
      (((s.push s.pc).noteRead v).peek (v + 1#16)) (Claims.wordReads (s.push s.pc) v) flips := by
  have hPush : ReadsAs (s.push s.pc) (u.push u.pc) := h.pc ▸ h.reads.push h.sp s.pc
  rw [← hPush.wordAt, ← hPush.wordReads, ← (hPush.noteRead v).peek]
  obtain ⟨hHigh, hLow⟩ := enterByVector_peek u v
  refine h.accepted (enterByVector_did u v) rfl ?_ hHigh hLow
  rw [State.enterByVector, State.tick_sp, State.setPc_sp, State.noteReadWord_sp, State.push_sp]

theorem acceptsInt_of_takesInt (h : Claims.takesInt s) : s.acceptsInt = true := by
  obtain ⟨-, hline, hiff, hei⟩ := h
  simp only [State.acceptsInt, hline, hiff, hei]; rfl

/-- Where the maskable request is accepted. -/
theorem step_eq_acceptInt (h : Claims.takesInt s) : step s = acceptInt s.beginStep :=
  step_of_int s h.1 (acceptsInt_of_takesInt h)

theorem BeginsAcceptance.finish_call (h : BeginsAcceptance s u flips) (hf : s.failAfter = none)
    (target : Word) (cyc : Nat) : finish (call target cyc u) = .next (call target cyc u) :=
  (call_did u target cyc).finish_eq (h.frame.failAfter.trans hf)

theorem pair_zero (v : Byte) : pair 0#8 v = v.setWidth 16 := by
  revert v; decide

end

/-- Settles O8: after its common part the acceptance is a call of 0x0066. -/
theorem nonMaskableAcceptance : Obligations.NonMaskableAcceptance := by
  unfold Obligations.NonMaskableAcceptance
  intro s hn hf
  have h := begins_acceptedNmi s
  exact ⟨_, (step_of_nmi s hn).trans (h.finish_call hf 0x0066#16 11), rfl, h.accepted_call _ _⟩

/-- Settles O9: an RST byte is a call of its address; every other byte is refused at once. -/
theorem acceptanceInMode0 : Obligations.AcceptanceInMode0 := by
  unfold Obligations.AcceptanceInMode0
  intro s hs him hf
  have h := begins_accepted s
  have hstep : step s = acceptIm0 s.accepted := (step_eq_acceptInt hs).trans (acceptInt_im0 s him)
  split
  case isTrue hrst =>
    have hcall : acceptIm0 s.accepted
        = finish (call (pair 0#8 (s.intData &&& 0x38#8)) 13 s.accepted) := if_pos hrst
    rw [pair_zero] at hcall
    exact ⟨_, hstep.trans (hcall.trans (h.finish_call hf _ 13)), rfl, h.accepted_call _ _⟩
  case isFalse hrst => exact hstep.trans (if_neg hrst)

/-- Settles O10: after its common part the acceptance is a call of 0x0038. -/
theorem acceptanceInMode1 : Obligations.AcceptanceInMode1 := by
  unfold Obligations.AcceptanceInMode1
  intro s hs him hf
  have h := begins_accepted s
  have hstep : step s = acceptIm1 s.accepted := (step_eq_acceptInt hs).trans (acceptInt_im1 s him)
  exact ⟨_, hstep.trans (h.finish_call hf 0x0038#16 13), rfl, h.accepted_call _ _⟩

/-- Settles O11: after its common part the acceptance pushes PC and reads the entry at the vector.
-/
theorem acceptanceInMode2 : Obligations.AcceptanceInMode2 := by
  unfold Obligations.AcceptanceInMode2
  intro s hs him hf
  have h := begins_accepted s
  have hstep : step s = acceptIm2 s.accepted := (step_eq_acceptInt hs).trans (acceptInt_im2 s him)
  have hd := enterByVector_did s.accepted (s.i ++ s.intData)
  exact ⟨_, hstep.trans (hd.finish_eq (h.frame.failAfter.trans hf)), rfl,
    h.accepted_enterByVector _⟩

end Sys2Proof.Machine
end

section
/-! SUPPORT. A failing port (R167, R801): the state on record of the first call that fails is where
the run ends. The delay of EI (R604, R856), and the reset event (R850). -/

namespace Sys2Proof.Machine

section

variable {s t u : State}

/-! ## A failing port -/

/-- A step that completes has no failing port call behind it (R801). -/
theorem step_next_unfailed (h : step s = .next t) :
    t.portFailed = false ∧ t.failAfter = s.failAfter := by
  cases hn : s.nmiPending with
  | true =>
    obtain ⟨hF, -, hf⟩ := accept_next h (.inl hn)
    exact ⟨hf, hF.failAfter⟩
  | false =>
  cases hi : s.acceptsInt with
  | true =>
    obtain ⟨hF, -, hf⟩ := accept_next h (.inr ⟨hn, hi⟩)
    exact ⟨hf, hF.failAfter⟩
  | false =>
  cases hh : s.halted with
  | true =>
    obtain rfl := Host.Outcome.next.inj ((step_of_halted s hn hi hh).symm.trans h)
    exact ⟨beginStep_unfailed s, rfl⟩
  | false =>
    rw [step_eq_runInstr ⟨hn, hi, hh⟩] at h
    obtain ⟨i, u, v, cyc, made, m, o, -, hu, hd, hf, rfl, -⟩ :=
      (runInstr_next (atFetch_recorded s) h).next
    exact ⟨hf, hd.frame.failAfter.trans hu.failAfter⟩

/-- The call that fails leaves on record the state before it. -/
theorem called_of_fails (h : s.failAfter = some s.calls.length) (c : PortCall) :
    (s.called c).portFailed = true ∧ (s.called c).atFailure = some s.toSnapshot := by
  have hfails : s.fails = true := by rw [State.fails, h]; exact beq_self_eq_true _
  refine ⟨?_, if_pos hfails⟩
  rw [State.portFailed, State.called_failAfter, h]
  simp

/-- A state with a failure on record stops there. -/
theorem stop_eq_failsIn (h : t.atFailure = some u.toSnapshot) : t.stop = Claims.failsIn u := by
  rw [State.stop, State.failure, h]; rfl

/-- The opcode fetch is the first of an instruction's fetches (R231). -/
theorem frame_fetchFirst_fetchInstr (u : State) (b : Byte) (n : Nat) :
    Frame (u.fetchFirst (indexOf b)) (u.fetchInstr b n) [.pc, .r, .bus] [] [] := by
  cases hl : leads b with
  | false =>
    rw [fetchInstr_plain hl]
    exact (frame_fetchBytes _ _).mono (by simp) (by simp)
  | true =>
    rw [fetchInstr_lead hl]
    exact ((frame_fetchOpcode _).trans (frame_fetchBytes _ _)).mono (by simp) (by simp)

/-- The first fetch of a step fails where no call succeeds. -/
theorem runInstr_of_first_fails (h : u.failAfter = some u.calls.length) :
    runInstr u = Claims.failsIn (u.setPfx .none) := by
  obtain ⟨hFirst, hRecord⟩ : (u.fetchFirst (indexOf (u.peek u.pc))).portFailed = true
      ∧ (u.fetchFirst (indexOf (u.peek u.pc))).atFailure = some (u.setPfx .none).toSnapshot :=
    called_of_fails (s := u.setPfx .none) h (.memRead u.pc (u.peek u.pc))
  obtain ⟨hf, ha⟩ := (frame_fetchFirst_fetchInstr u (u.peek u.pc) (decodeAt u).1).failed hFirst
  rw [runInstr_eq rfl, if_pos hf, stop_eq_failsIn (ha.trans hRecord)]

/-- A push just before its second write (R19). -/
def State.halfPushed (s : State) (v : Word) : State :=
  ((s.setSp (s.sp - 1#16)).write (s.sp - 1#16) (hi v)).setSp (s.sp - 2#16)

theorem State.push_eq_write_halfPushed (s : State) (v : Word) :
    s.push v = (s.halfPushed v).write (s.sp - 2#16) (lo v) := rfl

theorem push16_of_second_fails (h : s.failAfter = some (s.calls.length + 1)) (src : R16)
    (cyc : Nat) :
    finish (push16 src cyc s) = Claims.failsIn (s.halfPushed (s.getR16 src)) := by
  obtain ⟨hf, ha⟩ := called_of_fails (s := s.halfPushed (s.getR16 src)) h
    (.memWrite (s.sp - 2#16) (lo (s.getR16 src)))
  rw [push16, State.push_eq_write_halfPushed, finish]
  exact (if_pos hf).trans (stop_eq_failsIn ha)

/-- The state that a fault carries is the one on record (R801). -/
theorem State.Recorded.failAfter_of_stop {c : Snapshot} (hr : t.Recorded)
    (hf : t.portFailed = true) (h : .fault (.portFailure c) = t.stop) :
    t.failAfter = some c.calls.length := by
  obtain ⟨c', hc, hk⟩ := hr hf
  have hc' : c = c' := by
    rw [State.stop, State.failure, hc] at h
    exact Fault.portFailure.inj (Host.Outcome.fault.inj h)
  exact hc' ▸ hk

end

/-- Settles O14: a completed step has no failure behind it, a failed one stops in the state on
record, and the first fetch and the second write of PUSH record the state before them. -/
theorem portFailureEndsTheRun : Obligations.PortFailureEndsTheRun := by
  unfold Obligations.PortFailureEndsTheRun
  refine ⟨fun s hs hf => ?first, fun s t k hk h => ?completes, fun s c h => ?stops,
    fun s p hf row hrow => ?push⟩
  case first => exact (step_eq_runInstr hs).trans (runInstr_of_first_fails hf)
  case completes =>
    obtain ⟨hf, hft⟩ := step_next_unfailed h
    exact calls_le hf (hft.trans hk)
  case stops =>
    rcases step_fault h with ⟨t, ht, hfail, hr, hft⟩ | ⟨hc, -⟩
    · exact hft ▸ hr.failAfter_of_stop hfail ht
    · cases hc
  case push =>
    obtain ⟨-, hx⟩ := pushes_push16 s p row hrow
    exact hx.trans (push16_of_second_fails hf row.data row.cyc)

/-! ## The delay of EI -/

@[simp] theorem ei_iff1 (t : State) (cyc : Nat) : (ei cyc t).iff1 = true := rfl

@[simp] theorem ei_iff2 (t : State) (cyc : Nat) : (ei cyc t).iff2 = true := rfl

@[simp] theorem ei_eiPending (t : State) (cyc : Nat) : (ei cyc t).eiPending = true := rfl

@[simp] theorem ei_pc (t : State) (cyc : Nat) : (ei cyc t).pc = t.pc := rfl

@[simp] theorem ei_nmiPending (t : State) (cyc : Nat) : (ei cyc t).nmiPending = t.nmiPending := rfl

@[simp] theorem ei_halted (t : State) (cyc : Nat) : (ei cyc t).halted = t.halted := rfl

/-- EI fetched and run in the state `u`, and `prefix` 0x00 at the end (R230, R604). -/
def State.afterEi (u : State) : State := (ei 4 (u.setPfx .none).fetchOpcode).setPfx .none

theorem executeInstruction_ei {u : State} (hf : u.failAfter = none) (h : u.peek u.pc = 0xFB#8) :
    executeInstruction u = .next u.afterEi := by
  have hloop := loop_main (chainFuel + 1) (u.setPfx .none) (congrArg leads h)
  have hop : (u.setPfx .none).peek (u.setPfx .none).pc = 0xFB#8 := h
  have hei : runMain 0xFB#8 (u.setPfx .none).fetchOpcode = ei 4 (u.setPfx .none).fetchOpcode := rfl
  have hfail : (ei 4 (u.setPfx .none).fetchOpcode).portFailed = false := portFailed_of_none hf
  rw [hop, hei, leave_eq, hfail, if_neg Bool.false_ne_true] at hloop
  exact hloop

theorem afterEi_writes (u : State) : u.afterEi.iff1 = true ∧ u.afterEi.iff2 = true
    ∧ u.afterEi.eiPending = true ∧ u.afterEi.pc = u.pc + 1#16 := by
  simp [State.afterEi]

theorem afterEi_keeps (u : State) :
    u.afterEi.nmiPending = u.nmiPending ∧ u.afterEi.halted = u.halted := by
  simp [State.afterEi]

/-- Settles O12: EI-pending, which the step of EI sets, keeps the next step from accepting. -/
theorem enableTakesEffectOneStepLater : Obligations.EnableTakesEffectOneStepLater := by
  unfold Obligations.EnableTakesEffectOneStepLater
  intro s hs hf h
  obtain ⟨hiff1, hiff2, hei, hpc⟩ := afterEi_writes (Claims.atFetch s)
  obtain ⟨hn, hh⟩ := afterEi_keeps (Claims.atFetch s)
  have hstep : step s = .next (Claims.atFetch s).afterEi :=
    (stepIsDispatchLoop s hs).trans (executeInstruction_ei hf h)
  refine ⟨_, hstep, hiff1, hiff2, hei, hpc, fun line data => ?_⟩
  set t := (Claims.atFetch s).afterEi
  have hInt : ({ t with intLine := line, intData := data } : State).acceptsInt = false := by
    simp [State.acceptsInt, hei]
  exact ⟨hInt, stepIsDispatchLoop _ ⟨hn.trans hs.1, hInt, hh.trans hs.2.2⟩⟩

/-- Settles O19: the event writes each element it lists and keeps the others. -/
theorem resetEvent : Obligations.ResetEvent := by
  unfold Obligations.ResetEvent
  intro s d
  refine ⟨s.resetEvent d, rfl, ?_⟩
  and_intros <;> rfl

end Sys2Proof.Machine
end
